-- ==== Sys2Proof/Word.lean ====
section
/-!
DEFINITION. The plain number types of the model: bytes, view words and positions of the web.
-/

namespace Sys2Proof

/-- One byte shifted over a port or held in a FIFO. -/
abbrev Byte := BitVec 8

/-- One 16-bit word: a view word, a pending set, a notice mask. -/
abbrev Word16 := BitVec 16

/-- A position of the web. Points are plain integers and sums of them never wrap (R24). -/
abbrev Pos := Int

end Sys2Proof
end

