-- ==== Sys2Proof/Machine/Arith.lean ====
section
/-!
DEFINITION. The arithmetic the manual names in its conventions: saturating counters, clamping, the
three roundings, signed reduction, and the byte order of multi-byte fields.
-/

namespace Sys2Proof.Machine

/-- A counter that holds at `limit` when it is incremented there (Conventions, Counters). -/
def bump (limit n : Nat) : Nat := if n < limit then n + 1 else limit

/-- `a + b`, holding at `limit` (Conventions, Counters). -/
def addHeld (limit a b : Nat) : Nat := min limit (a + b)

/-- The greatest 16-bit count. -/
def max16 : Nat := 65535

/-- The greatest 32-bit count, and the greatest web position (R23). -/
def max32 : Nat := 4294967295

/-- A value brought into `[lo, hi]` (R8). -/
def clampInt (lo hi v : Int) : Int := if v < lo then lo else if hi < v then hi else v

/-- Magnitude. -/
def mag (v : Int) : Int := if v < 0 then -v else v

/-- `n / d` rounded to the nearest integer, halfway away from zero (Conventions, Rounding). -/
def roundNearest (n : Int) (d : Nat) : Int :=
  if 0 ≤ n then (2 * n + d) / (2 * d) else -((2 * (-n) + d) / (2 * d))

/-- `n / d` with the fraction discarded, so that the magnitude does not grow (Conventions, Rounding). -/
def roundTowardZero (n : Int) (d : Nat) : Int :=
  if 0 ≤ n then n / d else -((-n) / d)

/-- The sum of a list of integers. -/
def sumInts (xs : List Int) : Int := xs.foldr (· + ·) 0

/-- The mean of a list, rounded nearest, and 0 for an empty list (R59, R118). -/
def meanNearest (xs : List Int) : Int :=
  if xs.isEmpty then 0 else roundNearest (sumInts xs) xs.length

/-- The signed reduction of `v` modulo `r`: the remainder in `0 .. r-1`, less `r` when it is
greater than `floor (r / 2)` (Conventions, Signed reduction). -/
def reduceMod (r v : Int) : Int :=
  let m := v % r
  if r / 2 < m then m - r else m

/-- The low byte of a natural number. -/
def lowByte (n : Nat) : Byte := BitVec.ofNat 8 n

/-- `n` in `count` bytes, low byte first. -/
def bytesOfNat : (count : Nat) → (n : Nat) → List Byte
  | 0, _ => []
  | count + 1, n => lowByte n :: bytesOfNat count (n / 256)

/-- `v` in `count` bytes, low byte first, two's complement when negative. -/
def bytesOfInt (count : Nat) (v : Int) : List Byte :=
  bytesOfNat count ((v % ((256 ^ count : Nat) : Int)).toNat)

/-- The unsigned number that bytes spell, low byte first. -/
def natOfBytes : List Byte → Nat
  | [] => 0
  | b :: bs => b.toNat + 256 * natOfBytes bs

/-- The two's complement number that bytes spell, low byte first. -/
def intOfBytes (bs : List Byte) : Int :=
  let n := natOfBytes bs
  if 2 * n < 256 ^ bs.length then (n : Int) else (n : Int) - ((256 ^ bs.length : Nat) : Int)

/-- A flag as the number 1 or 0. -/
def bitOf (b : Bool) : Nat := if b then 1 else 0

/-- The number whose binary digits are the flags, the first of weight 1. -/
def bitsOf : List Bool → Nat
  | [] => 0
  | b :: bs => bitOf b + 2 * bitsOf bs

/-- The least of a list of numbers under `key`, the earliest of several least ones. -/
def leastBy {α : Type} (key : α → Nat) : List α → Option α
  | [] => none
  | x :: xs =>
    match leastBy key xs with
    | none => some x
    | some y => if key x ≤ key y then some x else some y

/-- The last `n` elements of a list. -/
def lastN {α : Type} (n : Nat) (xs : List α) : List α := xs.drop (xs.length - n)

end Sys2Proof.Machine
end

