-- ==== Sys2Proof/Machine/Operands.lean ====
section
/-!
DEFINITION. The operands of a request frame: arguments are sent low byte first, signed ones in two's
complement (11, "Requests and responses").
-/

namespace Sys2Proof.Machine

/-- The unsigned argument of `width` bytes that starts at byte `start` of the argument bytes. -/
def argNat (args : List Byte) (start width : Nat) : Nat := natOfBytes ((args.drop start).take width)

/-- The signed argument of `width` bytes that starts at byte `start` of the argument bytes. -/
def argInt (args : List Byte) (start width : Nat) : Int := intOfBytes ((args.drop start).take width)

/-- The argument byte at `start`. -/
def argByte (args : List Byte) (start : Nat) : Byte := args.getD start 0

/-- A slot number 1 to 4 as a row of the slot tables. -/
def slotOfNumber (n : Nat) : Option (Fin 4) :=
  if h : 1 ≤ n ∧ n ≤ 4 then some ⟨n - 1, by omega⟩ else none

/-- A print unit number 1 to 7 as a row of the unit table. -/
def unitOfNumber (n : Nat) : Option (Fin 7) :=
  if h : 1 ≤ n ∧ n ≤ 7 then some ⟨n - 1, by omega⟩ else none

/-- A roll record number 0 to 23 as a row of the roll table. -/
def recordOfNumber (n : Nat) : Option (Fin 24) :=
  if h : n < 24 then some ⟨n, h⟩ else none

/-- A defect class 0 to 15. -/
def classOfNumber (n : Nat) : Option (Fin 16) :=
  if h : n < 16 then some ⟨n, h⟩ else none

end Sys2Proof.Machine
end

