-- ==== Sys2Proof/Machine/Table.lean ====
section
/-!
DEFINITION. A table of exactly `n` rows, for the part's fixed banks: unit channels, roll records,
order slots. The row count is carried by the type, so no read of a row can fall outside the table.
-/

namespace Sys2Proof.Machine

/-- Exactly `n` rows. -/
structure Table (α : Type) (n : Nat) where
  /-- The rows, row 0 first. -/
  rows : List α
  size : rows.length = n
  deriving DecidableEq, Repr

/-- `n` equal rows. -/
def Table.replicate {α : Type} (n : Nat) (a : α) : Table α n := ⟨List.replicate n a, by simp⟩

/-- Row `i`. -/
def Table.get {α : Type} {n : Nat} (t : Table α n) (i : Fin n) : α :=
  t.rows[i.val]'(by rw [t.size]; exact i.isLt)

/-- The table with row `i` replaced. -/
def Table.set {α : Type} {n : Nat} (t : Table α n) (i : Fin n) (a : α) : Table α n :=
  ⟨t.rows.set i.val a, by simp [t.size]⟩

/-- The table with row `i` changed by `f`. -/
def Table.modify {α : Type} {n : Nat} (t : Table α n) (i : Fin n) (f : α → α) : Table α n :=
  t.set i (f (t.get i))

/-- Every row changed by `f`. -/
def Table.map {α β : Type} {n : Nat} (f : α → β) (t : Table α n) : Table β n :=
  ⟨t.rows.map f, by simp [t.size]⟩

/-- Every row number, ascending. -/
def allRows : (n : Nat) → List (Fin n)
  | 0 => []
  | n + 1 => 0 :: (allRows n).map Fin.succ

/-- The row numbers whose row satisfies `p`, in ascending order. -/
def Table.which {α : Type} {n : Nat} (p : α → Bool) (t : Table α n) : List (Fin n) :=
  (allRows n).filter (fun i => p (t.get i))

end Sys2Proof.Machine
end

