-- ==== Sys2Proof/Machine/Types.lean ====
section
/-!
DEFINITION. The named sets of values and the records of the LC-48, block by block, in the manual's
own shapes: what each record table of spec/ lists, one field a line.
-/

namespace Sys2Proof.Machine

/-! ### Line control (01) -/

/-- The line state (01, table "The line state"). -/
inductive LineState
  | noOrder | opening | setup | run | stopped | closing
  deriving DecidableEq, Repr

/-- How far the steps of R16 have come while the line is in CLOSING: the closing cut is awaited
(step 1), every record and the store queue are awaited (step 3), or the CLOSED header write is
queued (steps 4 and 5). `notClosing` in every other line state. -/
inductive ClosingStep
  | notClosing | cutReport | drain | header
  deriving DecidableEq, Repr

/-- The three hold causes (R19). -/
structure HoldCauses where
  rolls : Bool
  labels : Bool
  length : Bool
  deriving DecidableEq, Repr

/-- A tune record: field identifiers with their clamped values, ascending (R12). -/
abbrev Tune := List (Nat × Int)

/-- The recipe: the 50 fields in identifier order (R6). -/
structure Recipe where
  fields : Table Int 50
  deriving DecidableEq, Repr

/-- The geometry record (01, "Geometry"): four path distances, the settle distances of units 1 to 7,
the emboss settle distance, and the polarity mask. -/
structure Geometry where
  dE : Nat
  dQ : Nat
  dW : Nat
  dK : Nat
  settle : Table Nat 7
  settleEmboss : Nat
  polarity : BitVec 16
  deriving DecidableEq, Repr

/-- The state of line control (01, table "The line state"; R16 for `closing`). -/
structure LineControl where
  state : LineState
  order : Option Nat
  run : Option Nat
  slot : Option (Fin 4)
  journalling : Bool
  breakFlag : Bool
  stagedTune : Option Tune
  geometryValid : Bool
  holds : HoldCauses
  closing : ClosingStep
  deriving DecidableEq, Repr

/-! ### Web counter and repeat clock (02) -/

/-- The four states of the encoder pair, in their forward cycle (R20). -/
inductive EncoderPair
  | bothLow | aHigh | bothHigh | bHigh
  deriving DecidableEq, Repr

/-- The web counter (R20 to R25). -/
structure WebCounter where
  pair : EncoderPair
  w : Nat
  debt : Nat
  reverseLimit : Bool
  lengthLimit : Bool
  faults : Nat
  deriving DecidableEq, Repr

inductive ClockState
  | idle | running | halted
  deriving DecidableEq, Repr

/-- The repeat clock (R27 to R35). `lastCoast` is the position of the last coasting boundary, by which
R29 tells a late capture; `rpoEnd` is the point at which a standing RPO pulse ends, so RPO is
asserted exactly while it is present (R32). -/
structure RepeatClock where
  state : ClockState
  phase : Nat
  origin : Pos
  index : Nat
  k0 : Option Pos
  measured : List Int
  previousKey : Option Pos
  stretch : Option Int
  stretchOver : Bool
  lastCoast : Option Pos
  rpoEnd : Option Pos
  deriving DecidableEq, Repr

/-! ### Mark capture (03) -/

/-- The eleven mark inputs; `unit k` is MK(k+1), print unit k+1. -/
inductive Channel
  | mk0 | unit (k : Fin 7) | mke | idx | mkw
  deriving DecidableEq, Repr

inductive KeyState
  | seek | track | coast
  deriving DecidableEq, Repr

/-- A window is armed, opened or closed (R37). -/
inductive WindowState
  | closed | armed | opened
  deriving DecidableEq, Repr

/-- The record of a capture channel (R37). `limit` is the starting limit from which a phased channel's
window was armed (R49). -/
structure ChannelRecord where
  enabled : Bool
  state : KeyState
  window : WindowState
  centre : Option Pos
  limit : Pos
  lastAccepted : Option Pos
  edges : List Pos
  strays : Nat
  misses : Nat
  run : Nat
  deriving DecidableEq, Repr

/-- An open frame: the key capture that opened it and each unit's accepted position (R45). -/
structure Frame where
  c0 : Pos
  results : Table (Option Pos) 7
  deriving DecidableEq, Repr

/-- The capture unit: eleven channel records and the frame, absent when none is open. -/
structure Capture where
  mk0 : ChannelRecord
  units : Table ChannelRecord 7
  mke : ChannelRecord
  idx : ChannelRecord
  mkw : ChannelRecord
  frame : Option Frame
  deriving DecidableEq, Repr

/-! ### Register control and embossing (04, 05) -/

inductive RegisterState
  | off | acquire | locked | hold | limit
  deriving DecidableEq, Repr

/-- An outstanding trim (04, record table). -/
structure Trim where
  sequence : Byte
  delta : Int
  postedAt : Nat
  timedOut : Bool
  deriving DecidableEq, Repr

/-- The record of a register channel, of a print unit or of the emboss cylinder (04, record table). -/
structure RegisterChannel where
  state : RegisterState
  samples : List Int
  sinceEvaluation : Nat
  lockCount : Nat
  misses : Nat
  trim : Int
  outstanding : Option Trim
  settleBoundary : Pos
  lastError : Option Int
  discarded : Nat
  withheld : Nat
  sequence : Byte
  deriving DecidableEq, Repr

/-- The register controller: seven unit channels, the frame record and the two suspending functions. -/
structure RegisterControl where
  units : Table RegisterChannel 7
  frameIndex : Nat
  lastC0 : Option Pos
  verdict : Option Bool
  offender : Option (Fin 7)
  trimHold : Bool
  sampleFlush : Bool
  deriving DecidableEq, Repr

inductive NipState
  | parked | opened | ready | closed | opening
  deriving DecidableEq, Repr

inductive ClosedVerdict
  | nothing | within | exceeded
  deriving DecidableEq, Repr

inductive CloseCause
  | permitted | unpermitted
  deriving DecidableEq, Repr

inductive OrderReason
  | tolerance | acquire | brk
  deriving DecidableEq, Repr

inductive OpenCause
  | ordered | operator
  deriving DecidableEq, Repr

/-- The nip record (05, "The nip"). -/
structure Nip where
  state : NipState
  closeRun : Nat
  verdict : ClosedVerdict
  toleranceRun : Nat
  closeCause : Option CloseCause
  orderReason : Option OrderReason
  openCause : Option OpenCause
  deriving DecidableEq, Repr

/-- The held MKE capture (R77). -/
structure HeldCapture where
  position : Pos
  used : Bool
  deriving DecidableEq, Repr

/-- The emboss tracker: the emboss channel, its pairing state, the emboss frame record and the nip. -/
structure EmbossTracker where
  channel : RegisterChannel
  unpaired : Nat
  held : Option HeldCapture
  frameIndex : Nat
  lastCi : Option Pos
  lastCe : Option Pos
  frameError : Option Int
  nip : Nip
  deriving DecidableEq, Repr

/-! ### The web map (06) -/

inductive MapKind
  | register | emboss | defect | splice
  deriving DecidableEq, Repr

/-- The detail of a map entry or defect list item (06, kind table). -/
inductive Detail
  | unit (k : Fin 7) | unverified | notClosed | outOfRegister | defectClass (c : Fin 16) | overflow | nothing
  deriving DecidableEq, Repr

/-- A web map entry (06, entry table). An absent `stop` is an open entry. -/
structure MapEntry where
  kind : MapKind
  start : Pos
  stop : Option Pos
  detail : Detail
  clamped : Bool
  forRegister : Bool
  forEmboss : Bool
  pendingEnd : Option Pos
  age : Nat
  deriving DecidableEq, Repr

/-- The web map: the entries in map order, the addition count and the overflow merge count. -/
structure WebMap where
  entries : List MapEntry
  additions : Nat
  overflows : Nat
  deriving DecidableEq, Repr

/-! ### Roll former (07) -/

inductive SegmentKind
  | sale | waste
  deriving DecidableEq, Repr

inductive RecordState
  | free | winding | closing | cutWait | graded | labelPending | labelled
  deriving DecidableEq, Repr

inductive EndCause
  | planned | spliceDodge | brk | orderEnd | cutFail
  deriving DecidableEq, Repr

/-- The reject causes, in the order in which R130 tries them. -/
inductive RejectCause
  | splice | brk | cutFail | short | qcHold | core | defect | shaded | unclassed
  deriving DecidableEq, Repr

inductive Grade
  | first | reject (cause : RejectCause)
  deriving DecidableEq, Repr

/-- One item of a roll record's defect list (R104). -/
structure DefectItem where
  kind : MapKind
  detail : Detail
  offset : Int
  length : Int
  deriving DecidableEq, Repr

/-- A shade: lightness and two opponent-colour coordinates, in hundredths (08). -/
structure Shade where
  l : Int
  a : Int
  b : Int
  deriving DecidableEq, Repr

/-- The least and greatest value of each coordinate (R139). -/
structure ShadeRange where
  least : Shade
  greatest : Shade
  deriving DecidableEq, Repr

/-- A roll record's shade accumulator; `range` is absent while `n` is 0 (R139). -/
structure Accumulator where
  n : Nat
  sum : Shade
  range : Option ShadeRange
  deriving DecidableEq, Repr

inductive Verdict
  | assigned | founded | shaded | unclassed
  deriving DecidableEq, Repr

/-- The shade result of classification (08, "The shade result"). -/
structure ShadeResult where
  mean : Option Shade
  spread : Option Int
  verdict : Verdict
  distance : Option Int
  deriving DecidableEq, Repr

inductive LabelOutcome
  | applied | skipped
  deriving DecidableEq, Repr

inductive JournalState
  | waiting | queued | writing
  deriving DecidableEq, Repr

/-- A roll record (07, "The roll record"; 09 for the last label parts). -/
structure RollRecord where
  state : RecordState
  kind : SegmentKind
  saleNumber : Option Nat
  run : Nat
  start : Pos
  stop : Option Pos
  endCause : Option EndCause
  unmatched : Bool
  defects : List DefectItem
  defectOverflow : Nat
  registerOff : Nat
  embossOff : Nat
  defectTotal : Nat
  splice : Bool
  shade : Accumulator
  result : Option ShadeResult
  batch : Option Nat
  grade : Option Grade
  lowConfidence : Bool
  thinSampling : Bool
  unconfirmedCut : Bool
  flags : BitVec 8
  attempts : Nat
  outcome : Option LabelOutcome
  journal : Option JournalState
  revision : Nat
  deriving DecidableEq, Repr

inductive PlanPhase
  | winding | closing
  deriving DecidableEq, Repr

/-- A following waste segment: its end, whether match arithmetic last placed it (R114, R121), and whether fixed
arithmetic ever placed or moved it, by which its record is marked unmatched (R113). -/
structure FollowingWaste where
  stop : Pos
  matched : Bool
  unmatched : Bool
  deriving DecidableEq, Repr

/-- The segment plan (07, "The segment plan"). `cause` is the end cause the segment is to have; `matched` is the
match mode last used, and `unmatched` says that fixed arithmetic placed or moved the end at some time (R113).
`limited` says that the point at which an open-ended segment's end is forced lay ahead of w when the segment was
planned, so that it can be reached (R24, R115). -/
structure Plan where
  kind : SegmentKind
  start : Pos
  stop : Option Pos
  matched : Bool
  unmatched : Bool
  limited : Bool
  record : Option (Fin 24)
  phase : PlanPhase
  following : Option FollowingWaste
  cause : EndCause
  deriving DecidableEq, Repr

inductive CutState
  | issued | awaiting | done | failed | unconfirmed | withdrawn
  deriving DecidableEq, Repr

/-- A cut record (R117). `segmentStart` is the ending segment's start, by which an untracked waste
segment's length is known at its report (R131); `confirm` is the confirm point of R121. -/
structure CutRecord where
  number : Nat
  state : CutState
  ending : Option (Fin 24)
  kindEnding : SegmentKind
  kindNext : Option SegmentKind
  cause : EndCause
  cut : Pos
  strobe : Pos
  segmentStart : Pos
  confirm : Option Pos
  deriving DecidableEq, Repr

/-- The roll former. CUT_STROBE is asserted exactly while `strobeOff`, its deassertion point, is
present (R121, R132). -/
structure RollFormer where
  plan : Option Plan
  records : Table RollRecord 24
  cuts : List CutRecord
  cutCount : Nat
  lastUnconfirmed : Option Nat
  transport : List Int
  wasteTotal : Nat
  lostSegments : Nat
  saleCounter : Nat
  strobeOff : Option Pos
  deriving DecidableEq, Repr

/-! ### Shade classifier (08) -/

/-- A queued shade sample, tagged with its scanner-frame position (R135). -/
structure Sample where
  position : Pos
  shade : Shade
  deriving DecidableEq, Repr

inductive SaveState
  | saved | queued | writing | unsaved
  deriving DecidableEq, Repr

/-- A batch record (R146). -/
structure Batch where
  number : Nat
  reference : Shade
  foundingRoll : Nat
  foundingRun : Nat
  rolls : Nat
  lastRoll : Nat
  isClosed : Bool
  save : SaveState
  deriving DecidableEq, Repr

/-- The shade classifier (08, "The shade classifier holds"). -/
structure ShadeClassifier where
  queue : List Sample
  thin : Bool
  wasteSamples : Nat
  batches : List Batch
  deriving DecidableEq, Repr

/-! ### Label queue (09) -/

/-- An entry of the label queue (R153). -/
structure LabelEntry where
  record : Fin 24
  roll : Nat
  deriving DecidableEq, Repr

/-- The label queue (09, "The label queue holds"). -/
structure LabelQueue where
  entries : List LabelEntry
  unjournalled : Nat
  deriving DecidableEq, Repr

/-! ### The order store (10) -/

/-- A non-volatile record: erased and not written since, written and verifying, or neither (R165). -/
inductive StoreCell (α : Type)
  | blank
  | written (content : α)
  | broken
  deriving DecidableEq, Repr, Inhabited

/-- The state a stored slot header can hold (10, "What the store holds"). -/
inductive StoredState
  | empty | active | closed
  deriving DecidableEq, Repr, Inhabited

/-- A stored slot header. -/
structure Header where
  state : StoredState
  order : Option Nat
  run : Nat
  count : Nat
  full : Bool
  deriving DecidableEq, Repr, Inhabited

/-- A stored roll summary (R162). -/
structure Summary where
  roll : Nat
  run : Nat
  length : Nat
  grade : Grade
  batch : Option Nat
  mean : Option Shade
  fault : Nat
  flags : BitVec 8
  outcome : LabelOutcome
  deriving DecidableEq, Repr

/-- An addressed bank of non-volatile records: the positions that are not blank, strictly rising. -/
abbrev Cells (α : Type) := List (Nat × StoreCell α)

/-- The non-volatile content of one order slot (10, "What the store holds"). -/
structure SlotContent where
  header : StoreCell Header
  recipe : StoreCell Recipe
  batches : Cells Batch
  journal : Cells Summary
  deriving DecidableEq, Repr

/-- The non-volatile content of the part. -/
structure NonVolatile where
  geometry : StoreCell Geometry
  slots : Table SlotContent 4
  deriving DecidableEq, Repr

/-- The state a slot has in the directory (10, "The slot directory"). -/
inductive SlotState
  | empty | active | closed | degraded
  deriving DecidableEq, Repr

/-- An entry of the slot directory. -/
structure DirectoryEntry where
  state : SlotState
  order : Option Nat
  run : Nat
  count : Nat
  full : Bool
  erasePending : Bool
  deriving DecidableEq, Repr

/-- The four ports by role. -/
inductive Port
  | press | emboss | winder | quality
  deriving DecidableEq, Repr

/-- An operation of the store queue with its target and subject (R167). The content that R172 and R17
copy at queueing time is carried by the operation. -/
inductive StoreOp
  | geometryRead
  | slotRead (slot : Fin 4)
  | journalRead (slot : Fin 4) (position : Nat) (port : Port)
  | headerWrite (slot : Fin 4) (state : StoredState)
  | recipeWrite (slot : Fin 4) (recipe : Recipe)
  | batchWrite (slot : Fin 4) (number : Nat)
  | journalAppend (slot : Fin 4) (record : Fin 24)
  | geometryWrite (geometry : Geometry)
  | slotErase (slot : Fin 4)
  deriving DecidableEq, Repr

/-- The content an operation in progress took from the part when it started (R150, R162, R172). -/
inductive InFlight
  | nothing
  | header (content : Header)
  | batch (content : Batch)
  | summary (content : Summary)
  deriving DecidableEq, Repr

/-- Whether the head of the store queue is absent, waiting for STORE_EN, or in progress (R168, R181). -/
inductive HeadState
  | absent
  | waiting
  | running (content : InFlight)
  deriving DecidableEq, Repr

inductive FailureKind
  | verify | blank | full | degradedTarget
  deriving DecidableEq, Repr

/-- The last failure of the store status: the operation, its target and its kind (R181). A target of
`none` is the geometry record. -/
structure Failure where
  op : StoreOp
  target : Option (Fin 4)
  kind : FailureKind
  deriving DecidableEq, Repr

/-- The order store's working state. `enabled` is the level of the STORE_EN input and `sampled` the
level as last sampled (R168, R181). -/
structure OrderStore where
  directory : Table DirectoryEntry 4
  queue : List StoreOp
  head : HeadState
  enabled : Bool
  sampled : Bool
  lastFailure : Option Failure
  deriving DecidableEq, Repr

/-! ### Station ports (11) -/

/-- The status codes of R185, but for the two successes, which are `ok` and `okDegraded`. -/
inductive Status
  | ok | okDegraded | role | state | range | busy | full | notFound | notHead | tooLate | fifoDir | fifoCount
  | noSlot | invalid
  deriving DecidableEq, Repr

/-- A response frame: the code echoed, the status and the result bytes (R185). -/
structure Response where
  code : Byte
  status : Status
  result : List Byte
  deriving DecidableEq, Repr

/-- What an executing request waits for (R183). -/
inductive Waiting
  | opening
  | journal
  | words (rest : List Byte) (result : List Byte)
  deriving DecidableEq, Repr

/-- A request in execution; its response is discarded after a port reset (R194). -/
structure Executing where
  code : Byte
  waiting : Waiting
  discard : Bool
  deriving DecidableEq, Repr

/-- A port's purge progress (10, "The purge sequence"). -/
inductive Purge
  | nothing | begun (slot : Fin 4) | confirmed (slot : Fin 4)
  deriving DecidableEq, Repr

/-- The state of one station port (11, first table). `sdo` holds the bytes the part shifted out in the
port's last transaction, the summary byte first (R182). `late` is the word whose writing fell beside a flush and can
still be written after it (R189). -/
structure PortState where
  request : Option Executing
  response : Option Response
  overrun : Bool
  frame : Bool
  pending : Word16
  mask : Word16
  toStation : Bool
  fifo : List Byte
  late : List Byte
  pointer : Word16
  prefetch : Word16
  watch : Option Nat
  nibble : BitVec 4
  purge : Purge
  protect : Bool
  sdo : List Byte
  deriving DecidableEq, Repr

/-- The four ports. -/
structure Ports where
  press : PortState
  emboss : PortState
  winder : PortState
  quality : PortState
  deriving DecidableEq, Repr

end Sys2Proof.Machine
end

