-- ==== Sys2Proof/Config.lean ====
section
/-!
DEFINITION. The free values of the model: what the manual leaves open and the machine produces all
the same. Each is opaque, so that nothing can be proved of its value and every statement holds for
every value it could have.
-/

namespace Sys2Proof.Config

open Sys2Proof.Machine

/-- The code that a view word gives a named value for which the manual states no code: enumeration
`kind` (numbered in Machine/View.lean), value number `value`. Assumption 12. -/
opaque viewCode (kind : Nat) (value : Nat) : Word16

/-- Whether a register channel in LOCKED or LIMIT that meets both is evaluated (R59) before its second
consecutive miss moves it to HOLD (R60), or moves first and is not evaluated. Assumption 8. -/
opaque evaluatesBeforeHold : Bool

/-- What a write that failed left in the header record it was writing; event number `n`. Assumption 9. -/
opaque failedHeader (n : Nat) : StoreCell Header

/-- What a write that failed left in the recipe record it was writing. Assumption 9. -/
opaque failedRecipe (n : Nat) : StoreCell Recipe

/-- What a write that failed left in the batch position it was writing. Assumption 9. -/
opaque failedBatch (n : Nat) : StoreCell Batch

/-- What a write that failed left in the journal position it was writing. Assumption 9. -/
opaque failedSummary (n : Nat) : StoreCell Summary

/-- What a write that failed left in the geometry record it was writing. Assumption 9. -/
opaque failedGeometry (n : Nat) : StoreCell Geometry

/-- Whether an erase that did not complete had reached record `record` of its slot: 0 the recipe,
1 to 16 the batch positions, 17 and on the journal positions. Assumption 9. -/
opaque eraseReached (n : Nat) (record : Nat) : Bool

/-- Whether an erase that ended failed had made the header of its slot blank while another record did not become so.
Assumption 9. -/
opaque eraseTookHeader (n : Nat) : Bool

end Sys2Proof.Config
end

