-- ==== Sys2Proof/Machine/Recipe.lean ====
section
/-!
DEFINITION. The recipe and geometry records (01): the field table of R6 as a list of rows, the default
recipe, clamping (R8), the byte layouts of both records, and the cross-field checks of R9.
-/

namespace Sys2Proof.Machine

/-- A row of the recipe field table (R6): identifier, range, whether the upper limit is `R - 1`
instead, default, whether the field is soft, its width in the record in bytes, and whether it is read
as two's complement. -/
structure FieldRow where
  id : Nat
  lo : Int
  hi : Int
  hiFromRepeat : Bool
  default : Int
  soft : Bool
  width : Nat
  signed : Bool
  deriving DecidableEq, Repr

/-- Fields 1 to 18 of the recipe field table (R6). -/
def recipeRowsA : List FieldRow := [
  ⟨1, 1000, 16000, false, 5300, false, 2, false⟩,    -- Repeat length R
  ⟨2, 1, 8, false, 1, false, 2, false⟩,              -- Unit count U
  ⟨3, -4000, 4000, false, 0, false, 2, true⟩,        -- Offset of unit 1
  ⟨4, -4000, 4000, false, 0, false, 2, true⟩,        -- Offset of unit 2
  ⟨5, -4000, 4000, false, 0, false, 2, true⟩,        -- Offset of unit 3
  ⟨6, -4000, 4000, false, 0, false, 2, true⟩,        -- Offset of unit 4
  ⟨7, -4000, 4000, false, 0, false, 2, true⟩,        -- Offset of unit 5
  ⟨8, -4000, 4000, false, 0, false, 2, true⟩,        -- Offset of unit 6
  ⟨9, -4000, 4000, false, 0, false, 2, true⟩,        -- Offset of unit 7
  ⟨10, 10, 1000, false, 400, false, 2, false⟩,       -- Capture window W
  ⟨11, 1, 1000, false, 50, true, 2, false⟩,          -- Lock window
  ⟨12, 0, 500, false, 5, true, 2, false⟩,            -- Deadband
  ⟨13, 1, 16, false, 8, true, 2, false⟩,             -- Gain G, in sixteenths
  ⟨14, 1, 200, false, 20, true, 2, false⟩,           -- Max step
  ⟨15, 1, 2000, false, 500, true, 2, false⟩,         -- Acquire step
  ⟨16, 0, 20000, false, 2000, false, 2, false⟩,      -- Trim limit
  ⟨17, 1, 8, false, 4, true, 2, false⟩,              -- Filter depth N
  ⟨18, 1, 16, false, 4, true, 2, false⟩]             -- Correction interval P, in frames

/-- Fields 19 to 35 of the recipe field table (R6). -/
def recipeRowsB : List FieldRow := [
  ⟨19, 1, 2000, false, 100, true, 2, false⟩,         -- Register tolerance
  ⟨20, 1, 500, false, 50, true, 2, false⟩,           -- Stretch tolerance
  ⟨21, 1, 1000, false, 200, true, 2, false⟩,         -- RPO pulse width
  ⟨22, 0, 1, false, 0, false, 2, false⟩,             -- Emboss enable
  ⟨23, 1, 4, false, 1, false, 2, false⟩,             -- Emboss ratio m
  ⟨24, 0, 0, true, 0, false, 2, false⟩,              -- Emboss offset
  ⟨25, 10, 1000, false, 400, false, 2, false⟩,       -- Emboss window
  ⟨26, 1, 1000, false, 50, true, 2, false⟩,          -- Emboss lock window
  ⟨27, 0, 500, false, 5, true, 2, false⟩,            -- Emboss deadband
  ⟨28, 1, 16, false, 8, true, 2, false⟩,             -- Emboss gain, in sixteenths
  ⟨29, 1, 200, false, 20, true, 2, false⟩,           -- Emboss max step
  ⟨30, 1, 2000, false, 500, true, 2, false⟩,         -- Emboss acquire step
  ⟨31, 0, 20000, false, 2000, false, 2, false⟩,      -- Emboss trim limit
  ⟨32, 1, 8, false, 4, true, 2, false⟩,              -- Emboss filter depth
  ⟨33, 1, 16, false, 4, true, 2, false⟩,             -- Emboss correction interval, in frames
  ⟨34, 1, 1000, false, 30, true, 2, false⟩,          -- Nip close window
  ⟨35, 1, 2000, false, 100, true, 2, false⟩]         -- Emboss tolerance

/-- Fields 36 to 50 of the recipe field table (R6). -/
def recipeRowsC : List FieldRow := [
  ⟨36, 0, 1, false, 0, false, 2, false⟩,             -- Cut mode
  ⟨37, 20000, 600000, false, 100500, false, 4, false⟩, -- Target length
  ⟨38, 10000, 600000, false, 95000, false, 4, false⟩, -- Minimum saleable length T_min
  ⟨39, 0, 0, true, 0, false, 2, false⟩,              -- Cut offset
  ⟨40, 1000, 200000, false, 30000, false, 4, false⟩, -- Cut lead
  ⟨41, 1000, 50000, false, 20000, false, 2, false⟩,  -- Cut confirm distance
  ⟨42, 0, 20000, false, 2000, false, 2, false⟩,      -- Splice guard G_s
  ⟨43, 0, 400000, false, 50000, false, 4, false⟩,    -- Startup waste
  ⟨44, 0, 50000, false, 1000, true, 2, false⟩,       -- Max defect length per roll
  ⟨45, 1, 2000, false, 40, true, 2, false⟩,          -- Shade tolerance
  ⟨46, 1, 32, false, 16, false, 2, false⟩,           -- Lightness weight w_L
  ⟨47, 1, 32, false, 24, false, 2, false⟩,           -- Chroma weight w_C
  ⟨48, 1, 2000, false, 60, true, 2, false⟩,          -- Uniformity limit
  ⟨49, 1, 64, false, 8, false, 2, false⟩,            -- Founding minimum samples
  ⟨50, 0, 64, false, 4, true, 2, false⟩]             -- Confidence minimum samples

/-- The recipe field table (R6). -/
def recipeRows : List FieldRow := recipeRowsA ++ recipeRowsB ++ recipeRowsC

/-- The default recipe (R6). -/
def Recipe.default : Recipe := ⟨⟨recipeRows.map FieldRow.default, rfl⟩⟩

/-- The field with identifier `id`, 0 when there is none. -/
def Recipe.byId (r : Recipe) (id : Nat) : Int := (0 :: r.fields.rows).getD id 0

/-- Field 1 (R6). -/
def Recipe.repeatLength (r : Recipe) : Int := r.fields.get 0
/-- Field 2 (R6). -/
def Recipe.unitCount (r : Recipe) : Int := r.fields.get 1
/-- Field 10 (R6). -/
def Recipe.window (r : Recipe) : Int := r.fields.get 9
/-- Field 11 (R6). -/
def Recipe.lockWindow (r : Recipe) : Int := r.fields.get 10
/-- Field 12 (R6). -/
def Recipe.deadband (r : Recipe) : Int := r.fields.get 11
/-- Field 13 (R6). -/
def Recipe.gain (r : Recipe) : Int := r.fields.get 12
/-- Field 14 (R6). -/
def Recipe.maxStep (r : Recipe) : Int := r.fields.get 13
/-- Field 15 (R6). -/
def Recipe.acquireStep (r : Recipe) : Int := r.fields.get 14
/-- Field 16 (R6). -/
def Recipe.trimLimit (r : Recipe) : Int := r.fields.get 15
/-- Field 17 (R6). -/
def Recipe.filterDepth (r : Recipe) : Int := r.fields.get 16
/-- Field 18 (R6). -/
def Recipe.interval (r : Recipe) : Int := r.fields.get 17
/-- Field 19 (R6). -/
def Recipe.registerTolerance (r : Recipe) : Int := r.fields.get 18
/-- Field 20 (R6). -/
def Recipe.stretchTolerance (r : Recipe) : Int := r.fields.get 19
/-- Field 21 (R6). -/
def Recipe.pulseWidth (r : Recipe) : Int := r.fields.get 20
/-- Field 22 (R6). -/
def Recipe.embossEnableField (r : Recipe) : Int := r.fields.get 21
/-- Field 23 (R6). -/
def Recipe.embossRatio (r : Recipe) : Int := r.fields.get 22
/-- Field 24 (R6). -/
def Recipe.embossOffset (r : Recipe) : Int := r.fields.get 23
/-- Field 25 (R6). -/
def Recipe.embossWindow (r : Recipe) : Int := r.fields.get 24
/-- Field 26 (R6). -/
def Recipe.embossLockWindow (r : Recipe) : Int := r.fields.get 25
/-- Field 27 (R6). -/
def Recipe.embossDeadband (r : Recipe) : Int := r.fields.get 26
/-- Field 28 (R6). -/
def Recipe.embossGain (r : Recipe) : Int := r.fields.get 27
/-- Field 29 (R6). -/
def Recipe.embossMaxStep (r : Recipe) : Int := r.fields.get 28
/-- Field 30 (R6). -/
def Recipe.embossAcquireStep (r : Recipe) : Int := r.fields.get 29
/-- Field 31 (R6). -/
def Recipe.embossTrimLimit (r : Recipe) : Int := r.fields.get 30
/-- Field 32 (R6). -/
def Recipe.embossFilterDepth (r : Recipe) : Int := r.fields.get 31
/-- Field 33 (R6). -/
def Recipe.embossInterval (r : Recipe) : Int := r.fields.get 32
/-- Field 34 (R6). -/
def Recipe.nipCloseWindow (r : Recipe) : Int := r.fields.get 33
/-- Field 35 (R6). -/
def Recipe.embossTolerance (r : Recipe) : Int := r.fields.get 34
/-- Field 36 (R6). -/
def Recipe.cutModeField (r : Recipe) : Int := r.fields.get 35
/-- Field 37 (R6). -/
def Recipe.targetLength (r : Recipe) : Int := r.fields.get 36
/-- Field 38 (R6). -/
def Recipe.minLength (r : Recipe) : Int := r.fields.get 37
/-- Field 39 (R6). -/
def Recipe.cutOffset (r : Recipe) : Int := r.fields.get 38
/-- Field 40 (R6). -/
def Recipe.cutLead (r : Recipe) : Int := r.fields.get 39
/-- Field 41 (R6). -/
def Recipe.confirmDistance (r : Recipe) : Int := r.fields.get 40
/-- Field 42 (R6). -/
def Recipe.spliceGuard (r : Recipe) : Int := r.fields.get 41
/-- Field 43 (R6). -/
def Recipe.startupWaste (r : Recipe) : Int := r.fields.get 42
/-- Field 44 (R6). -/
def Recipe.maxDefect (r : Recipe) : Int := r.fields.get 43
/-- Field 45 (R6). -/
def Recipe.shadeTolerance (r : Recipe) : Int := r.fields.get 44
/-- Field 46 (R6). -/
def Recipe.weightL (r : Recipe) : Int := r.fields.get 45
/-- Field 47 (R6). -/
def Recipe.weightC (r : Recipe) : Int := r.fields.get 46
/-- Field 48 (R6). -/
def Recipe.uniformityLimit (r : Recipe) : Int := r.fields.get 47
/-- Field 49 (R6). -/
def Recipe.foundingMinimum (r : Recipe) : Int := r.fields.get 48
/-- Field 50 (R6). -/
def Recipe.confidenceMinimum (r : Recipe) : Int := r.fields.get 49

/-- The offset of print unit `k + 1` (fields 3 to 9). -/
def Recipe.unitOffset (r : Recipe) (k : Fin 7) : Int :=
  r.fields.get ⟨k.val + 2, by omega⟩

/-- H, the half repeat: `floor (R / 2)`. -/
def Recipe.half (r : Recipe) : Int := r.repeatLength / 2

/-- Whether emboss is enabled (field 22). -/
def Recipe.embossEnabled (r : Recipe) : Bool := r.embossEnableField == 1

/-- Whether the cut mode is MATCHED (field 36). -/
def Recipe.matchedMode (r : Recipe) : Bool := r.cutModeField == 0

/-- Whether print unit `k + 1` is in use: units 1 to `U - 1` are. -/
def Recipe.usesUnit (r : Recipe) (k : Fin 7) : Bool := decide ((k.val : Int) + 1 < r.unitCount)

/-! ### Clamping (R8) -/

/-- A field's value brought into its range; `R` is the clamped repeat length (R8). -/
def FieldRow.clamp (row : FieldRow) (repeatLength v : Int) : Int :=
  clampInt row.lo (if row.hiFromRepeat then repeatLength - 1 else row.hi) v

/-- The clamped repeat length of a record (R8: field 1 is clamped first). -/
def clampedRepeat (r : Recipe) : Int := clampInt 1000 16000 r.repeatLength

/-- The record with every field clamped (R8). -/
def Recipe.clamp (r : Recipe) : Recipe :=
  ⟨⟨List.zipWith (fun row v => row.clamp (clampedRepeat r) v) recipeRows r.fields.rows, by
    rw [List.length_zipWith, r.fields.size]; rfl⟩⟩

/-- The identifiers of the fields at which two lists of values differ, in identifier order. -/
def clampedIds : (id : Nat) → (before after : List Int) → List Nat
  | id, x :: xs, y :: ys => if x = y then clampedIds (id + 1) xs ys else id :: clampedIds (id + 1) xs ys
  | _, _, _ => []

/-- The result bytes that report clamped identifiers: their number, the first 16 of them, and 255 in
place of a seventeenth (R7). -/
def clampReport (ids : List Nat) : List Byte :=
  lowByte ids.length :: (ids.take 16).map lowByte ++ (if 16 < ids.length then [255#8] else [])

/-! ### Record layouts (01, "The recipe" and "Geometry") -/

/-- The values of consecutive fields of a record. -/
def readFields : List FieldRow → List Byte → List Int
  | [], _ => []
  | row :: rows, bs =>
    (if row.signed then intOfBytes (bs.take row.width) else (natOfBytes (bs.take row.width) : Int))
      :: readFields rows (bs.drop row.width)

theorem readFields_length (rows : List FieldRow) (bs : List Byte) :
    (readFields rows bs).length = rows.length := by
  induction rows generalizing bs with
  | nil => rfl
  | cons row rows ih => simp [readFields, ih]

/-- The recipe record in 128 bytes, read without clamping; bytes 108 to 127 are not examined. -/
def Recipe.ofBytes (bs : List Byte) : Recipe :=
  ⟨⟨readFields recipeRows bs, by rw [readFields_length]; rfl⟩⟩

/-- The 128-byte recipe layout: the fields in identifier order, then 20 zero bytes. -/
def Recipe.toBytes (r : Recipe) : List Byte :=
  (List.zipWith (fun row v => bytesOfInt row.width v) recipeRows r.fields.rows).flatten
    ++ List.replicate 20 0#8

/-- The geometry record of cold reset: zero everywhere, every channel on rising edges (R1). -/
def Geometry.zero : Geometry := ⟨0, 0, 0, 0, Table.replicate 7 0, 0, 0⟩

/-- The four-byte field that starts at byte `at`. -/
def field32 (bs : List Byte) (start : Nat) : Nat := natOfBytes ((bs.drop start).take 4)

/-- The settle distance fields of units 1 to 7 in the geometry record. -/
def readSettles (bs : List Byte) : Table Nat 7 :=
  ⟨[field32 bs 16, field32 bs 20, field32 bs 24, field32 bs 28, field32 bs 32, field32 bs 36,
    field32 bs 40], rfl⟩

/-- The geometry record in 50 bytes, read without clamping; bits 11 to 15 of the mask become 0. -/
def Geometry.ofBytes (bs : List Byte) : Geometry :=
  { dE := field32 bs 0, dQ := field32 bs 4, dW := field32 bs 8, dK := field32 bs 12
    settle := readSettles bs
    settleEmboss := field32 bs 44
    polarity := BitVec.ofNat 16 (natOfBytes ((bs.drop 48).take 2)) &&& 0x07FF#16 }

/-- The 50-byte geometry layout. -/
def Geometry.toBytes (g : Geometry) : List Byte :=
  bytesOfNat 4 g.dE ++ bytesOfNat 4 g.dQ ++ bytesOfNat 4 g.dW ++ bytesOfNat 4 g.dK
    ++ (g.settle.rows.map (bytesOfNat 4)).flatten ++ bytesOfNat 4 g.settleEmboss
    ++ bytesOfNat 2 g.polarity.toNat

/-- A path distance clamped to 1 to 2,000,000 (R17). -/
def clampDistance (n : Nat) : Nat := max 1 (min n 2000000)

/-- A settle distance clamped to 0 to 200,000 (R17). -/
def clampSettle (n : Nat) : Nat := min n 200000

/-- The geometry record clamped (R17). -/
def Geometry.clamp (g : Geometry) : Geometry :=
  { g with
    dE := clampDistance g.dE, dQ := clampDistance g.dQ, dW := clampDistance g.dW
    dK := clampDistance g.dK, settle := g.settle.map clampSettle
    settleEmboss := clampSettle g.settleEmboss }

/-- The 12 clamped fields of the geometry record in identifier order. -/
def Geometry.values (g : Geometry) : List Int :=
  ([g.dE, g.dQ, g.dW, g.dK] ++ g.settle.rows ++ [g.settleEmboss]).map Int.ofNat

/-- The identifier of the first distance, in identifier order, that breaks
`D_E < D_Q < D_W ≤ D_K`: the first that does not stand as the order asks after the one before it
(R17; assumption 22). -/
def Geometry.brokenOrder (g : Geometry) : Option Nat :=
  if ¬ g.dE < g.dQ then some 2
  else if ¬ g.dQ < g.dW then some 3
  else if ¬ g.dW ≤ g.dK then some 4
  else none

/-- `1 ≤ D_E < D_Q < D_W ≤ D_K ≤ 2,000,000` (R18). -/
def Geometry.ordered (g : Geometry) : Bool :=
  decide (1 ≤ g.dE) && g.brokenOrder.isNone && decide (g.dK ≤ 2000000)

/-! ### The checks of START (R9) -/

/-- The lowest unit in use whose offset, widened by W, does not fall short of H (check 1). -/
def Recipe.unitTooWide (r : Recipe) : Option (Fin 7) :=
  (allRows 7).find? (fun k => r.usesUnit k && decide (¬ mag (r.unitOffset k) + r.window < r.half))

/-- The check number, and for check 1 the unit number, of the first failing check (R9). -/
def startFailure (r : Recipe) (g : Geometry) (geometryValid : Bool) : Option (Nat × Nat) :=
  match r.unitTooWide with
  | some k => some (1, k.val + 1)
  | none =>
    if ¬ r.window < r.half then some (2, 0)
    else if ¬ r.minLength ≤ r.targetLength then some (3, 0)
    else if ¬ r.repeatLength ≤ r.cutLead then some (4, 0)
    else if ¬ r.cutLead < r.minLength then some (5, 0)
    else if ¬ r.confirmDistance < r.minLength then some (6, 0)
    else if ¬ geometryValid then some (7, 0)
    else if ¬ r.half + r.window ≤ g.dK then some (8, 0)
    else if r.embossEnabled ∧ ¬ r.window ≤ (g.dK : Int) - g.dE then some (9, 0)
    else none

/-! ### Tuning (R12, R14) -/

/-- The row of the soft field with identifier `id`, when there is one. -/
def softRow (id : Nat) : Option FieldRow :=
  recipeRows.find? (fun row => row.id == id && row.soft)

/-- The identifiers whose bit of an eight-byte presence mask is set, ascending. -/
def presentIds (mask : Nat) : List Nat := (List.range 64).filter (fun n => mask.testBit n)

/-- Two-byte values paired with identifiers, in order. -/
def readTune : List Nat → List Byte → Tune
  | [], _ => []
  | id :: ids, bs => (id, (natOfBytes (bs.take 2) : Int)) :: readTune ids (bs.drop 2)

/-- A tune's values clamped each to its own range (R12, R8). -/
def clampTune (t : Tune) : Tune :=
  t.map (fun (id, v) =>
    match softRow id with
    | some row => (id, row.clamp 0 v)
    | none => (id, v))

/-- Two tunes merged field by field, the newer value winning, identifiers ascending (R12). -/
def mergeTune (staged newer : Tune) : Tune :=
  (List.range 51).filterMap (fun id =>
    match newer.find? (·.1 == id), staged.find? (·.1 == id) with
    | some x, _ => some x
    | none, some x => some x
    | none, none => none)

/-- One field of the recipe replaced. -/
def Recipe.setField (r : Recipe) (id : Nat) (v : Int) : Recipe :=
  if h : id - 1 < 50 then (if id = 0 then r else ⟨r.fields.set ⟨id - 1, h⟩ v⟩) else r

/-- The recipe with each present field of a tune written into it (R14). -/
def Recipe.tuned (r : Recipe) (t : Tune) : Recipe :=
  t.foldl (fun r x => r.setField x.1 x.2) r

end Sys2Proof.Machine
end

