-- ==== Sys2Proof/Machine/Initial.lean ====
section
/-!
DEFINITION. The value each block's state takes at cold reset, from the "At cold reset" columns of the
record tables. Every open of an order uses the same values where R5 says so.
-/

namespace Sys2Proof.Machine

/-- R1. -/
def LineControl.initial : LineControl :=
  { state := .noOrder, order := none, run := none, slot := none, journalling := false
    breakFlag := false, stagedTune := none, geometryValid := false
    holds := ⟨false, false, false⟩, closing := .notClosing }

/-- R20, R25. The level of the encoder pair is the input's own (assumption 3). -/
def WebCounter.initial : WebCounter :=
  { pair := .bothLow, w := 0, debt := 0, reverseLimit := false, lengthLimit := false, faults := 0 }

/-- R27, R35: the IDLE clock. The phase origin of an IDLE clock is assumption 4. -/
def RepeatClock.idleAt (origin : Pos) : RepeatClock :=
  { state := .idle, phase := 0, origin := origin, index := 0, k0 := none, measured := []
    previousKey := none, stretch := none, stretchOver := false, lastCoast := none, rpoEnd := none }

/-- R37. -/
def ChannelRecord.initial : ChannelRecord :=
  { enabled := false, state := .seek, window := .closed, centre := none, limit := 0
    lastAccepted := none, edges := [], strays := 0, misses := 0, run := 0 }

/-- R36, R37, R45. -/
def Capture.initial : Capture :=
  { mk0 := .initial, units := Table.replicate 7 .initial, mke := .initial, idx := .initial
    mkw := .initial, frame := none }

/-- 04, record table; R52. -/
def RegisterChannel.initial : RegisterChannel :=
  { state := .off, samples := [], sinceEvaluation := 0, lockCount := 0, misses := 0, trim := 0
    outstanding := none, settleBoundary := 0, lastError := none, discarded := 0, withheld := 0
    sequence := 0 }

/-- R52. The c0 of the last judged frame is absent while there has been none (assumption 46). -/
def RegisterControl.initial : RegisterControl :=
  { units := Table.replicate 7 .initial, frameIndex := 0, lastC0 := none, verdict := none
    offender := none, trimHold := false, sampleFlush := false }

/-- 05, "The nip". -/
def Nip.initial : Nip :=
  { state := .parked, closeRun := 0, verdict := .nothing, toleranceRun := 0, closeCause := none
    orderReason := none, openCause := none }

/-- R75, R77. -/
def EmbossTracker.initial : EmbossTracker :=
  { channel := .initial, unpaired := 0, held := none, frameIndex := 0, lastCi := none
    lastCe := none, frameError := none, nip := .initial }

/-- R94. -/
def WebMap.initial : WebMap := { entries := [], additions := 0, overflows := 0 }

/-- R139: an empty accumulator. -/
def Accumulator.empty : Accumulator := { n := 0, sum := ⟨0, 0, 0⟩, range := none }

/-- A FREE record with its revision count; every other part absent, clear or 0, and the kind, for which a
FREE record has no value, SALE (R111, R112; assumption 29). -/
def RollRecord.freed (revision : Nat) : RollRecord :=
  { state := .free, kind := .sale, saleNumber := none, run := 0, start := 0, stop := none
    endCause := none, unmatched := false, defects := [], defectOverflow := 0, registerOff := 0
    embossOff := 0, defectTotal := 0, splice := false, shade := .empty, result := none
    batch := none, grade := none, lowConfidence := false, thinSampling := false
    unconfirmedCut := false, flags := 0, attempts := 0, outcome := none, journal := none
    revision := revision }

/-- R110, R112, R117, R118. The sale roll number counter starts at 0, for which R130 and R5 give no value before the
first open (assumption 53). -/
def RollFormer.initial : RollFormer :=
  { plan := none, records := Table.replicate 24 (.freed 0), cuts := [], cutCount := 0
    lastUnconfirmed := none, transport := [], wasteTotal := 0, lostSegments := 0, saleCounter := 0
    strobeOff := none }

/-- R136, R146. -/
def ShadeClassifier.initial : ShadeClassifier :=
  { queue := [], thin := false, wasteSamples := 0, batches := [] }

/-- R153. -/
def LabelQueue.initial : LabelQueue := { entries := [], unjournalled := 0 }

/-- The cleared slot directory of cold reset (R166). Its entries' values until the start-up read fills
them are assumption 5. -/
def DirectoryEntry.cleared : DirectoryEntry :=
  { state := .empty, order := none, run := 0, count := 0, full := false, erasePending := false }

/-- R166, R167: the store queue of cold reset holds a GEOMETRY_READ, which starts at once (R168). The
level of STORE_EN is the input's own (assumption 3), sampled at that start (R168). -/
def OrderStore.initial (level : Bool) : OrderStore :=
  { directory := Table.replicate 4 .cleared, queue := [.geometryRead], head := .running .nothing
    enabled := level, sampled := level, lastFailure := none }

/-- A new part: a blank geometry record and every slot erased (R165). -/
def NonVolatile.new : NonVolatile :=
  { geometry := .blank
    slots := Table.replicate 4 { header := .blank, recipe := .blank, batches := [], journal := [] } }

/-- The pending set that holds RESET alone (R194; bit 4 of the notice table). -/
def resetPending : Word16 := 0x0010#16

/-- 11, first table, column "At cold reset". Word 0000h of the view space then holds the line state
NO_ORDER, whose code is 0, so that is the prefetched word. -/
def PortState.initial : PortState :=
  { request := none, response := none, overrun := false, frame := false, pending := resetPending
    mask := 0xFFFF#16, toStation := false, fifo := [], late := [], pointer := 0, prefetch := 0
    watch := none, nibble := 0, purge := .nothing, protect := false, sdo := [] }

/-- R195. -/
def Ports.initial : Ports :=
  { press := .initial, emboss := .initial, winder := .initial, quality := .initial }

end Sys2Proof.Machine
end

