-- ==== Sys2Proof/Syntax.lean ====
section
/-!
DEFINITION. The commands of the LC-48: one constructor for each row of spec/opcode_table.json.

Operands. `p` is the port whose station makes the access, or whose ATTN input rises. `args` are the
argument bytes of a request frame in the order sent (R182); their number is the frame's argument length
byte, so a frame of the wrong length can be spelled (R183). `falling` is the edge's polarity. `verified`
says whether the store's medium let the operation end without a verify failure of its own (R169, R170);
`faults` says the same of the start-up read, bit 0 for the geometry record and bits 1 to 4 for the slot
headers. `count` is the number of bytes clocked out after the access byte before CS rises.
-/

namespace Sys2Proof

open Sys2Proof.Machine (Port Channel)

/-- The access kinds whose bytes CS can cut short (R182). -/
inductive FixedAccess
  | requestWrite | noticeClear | maskWrite | fifoDirection | pointerLoad | nibbleWrite
  deriving DecidableEq, Repr

/-- A command: a step of the table of operations and events. -/
inductive Instr
  /-- COLD_RESET (R1). -/
  | coldReset
  /-- PORT_RESET (R194). -/
  | portReset (p : Port)
  /-- FORWARD_STEP (R21). -/
  | forwardStep
  /-- REVERSE_STEP (R22). -/
  | reverseStep
  /-- FAULT_STEP (R20). -/
  | faultStep
  /-- MARK_EDGE (R39). -/
  | markEdge (channel : Channel) (falling : Bool)
  /-- STORE_EN_RISE (R168). -/
  | storeEnRise
  /-- WINDOW_OPEN (R39). -/
  | windowOpen (channel : Channel)
  /-- WINDOW_END (R39). -/
  | windowEnd (channel : Channel)
  /-- FRAME_CLOSE (R47). -/
  | frameClose
  /-- COASTING_BOUNDARY (R28). -/
  | coastingBoundary
  /-- RPO_PULSE_END (R32). -/
  | rpoPulseEnd
  /-- CUT_DUE (R119). -/
  | cutDue
  /-- CUT_STROBE (R121). -/
  | cutStrobe
  /-- CUT_STROBE_DEASSERT (R121). -/
  | cutStrobeDeassert
  /-- CONFIRM_TIMEOUT (R127). -/
  | confirmTimeout
  /-- WASTE_END_FORCED (R115). -/
  | wasteEndForced
  /-- WATCH_REACHED (R192). -/
  | watchReached (p : Port)
  /-- TRIM_TIMEOUT (R67). -/
  | trimTimeout (unit : Fin 7)
  /-- EMB_TIMEOUT (R85). -/
  | embTimeout
  /-- GEOMETRY_READ_END (R166). -/
  | geometryReadEnd (faults : BitVec 5)
  /-- SLOT_READ_END (R4). -/
  | slotReadEnd (verified : Bool)
  /-- JOURNAL_READ_END (R175). -/
  | journalReadEnd (verified : Bool)
  /-- HEADER_WRITE_END (R172). -/
  | headerWriteEnd (verified : Bool)
  /-- RECIPE_WRITE_END (R172). -/
  | recipeWriteEnd (verified : Bool)
  /-- BATCH_WRITE_END (R150). -/
  | batchWriteEnd (verified : Bool)
  /-- JOURNAL_APPEND_END (R162). -/
  | journalAppendEnd (verified : Bool)
  /-- GEOMETRY_WRITE_END (R18). -/
  | geometryWriteEnd (verified : Bool)
  /-- SLOT_ERASE_END (R179). -/
  | slotEraseEnd (verified : Bool)
  /-- ORDER_OPEN (R3). -/
  | orderOpen (p : Port) (args : List Byte)
  /-- ORDER_CLOSE (R15). -/
  | orderClose (p : Port) (args : List Byte)
  /-- RECIPE_WRITE (R7). -/
  | recipeWrite (p : Port) (args : List Byte)
  /-- RECIPE_TUNE (R12). -/
  | recipeTune (p : Port) (args : List Byte)
  /-- GEOMETRY_WRITE (R17). -/
  | geometryWrite (p : Port) (args : List Byte)
  /-- START (R10). -/
  | start (p : Port) (args : List Byte)
  /-- STOP (R11). -/
  | stop (p : Port) (args : List Byte)
  /-- TRIM_FETCH (R65). -/
  | trimFetch (p : Port) (args : List Byte)
  /-- TRIM_APPLIED (R66). -/
  | trimApplied (p : Port) (args : List Byte)
  /-- TRIM_HOLD (R69). -/
  | trimHold (p : Port) (args : List Byte)
  /-- SAMPLE_FLUSH (R70). -/
  | sampleFlush (p : Port) (args : List Byte)
  /-- EMB_FETCH (R83). -/
  | embFetch (p : Port) (args : List Byte)
  /-- EMB_APPLIED (R84). -/
  | embApplied (p : Port) (args : List Byte)
  /-- NIP_CLOSED (R88). -/
  | nipClosed (p : Port) (args : List Byte)
  /-- NIP_OPENED (R91). -/
  | nipOpened (p : Port) (args : List Byte)
  /-- DEFECT (R101). -/
  | defect (p : Port) (args : List Byte)
  /-- SPLICE (R102). -/
  | splice (p : Port) (args : List Byte)
  /-- CUT_FETCH (R123). -/
  | cutFetch (p : Port) (args : List Byte)
  /-- CUT_DONE (R125). -/
  | cutDone (p : Port) (args : List Byte)
  /-- CUT_FAILED (R126). -/
  | cutFailed (p : Port) (args : List Byte)
  /-- BREAK (R129). -/
  | brk (p : Port) (args : List Byte)
  /-- ROLL_FLAG (R133). -/
  | rollFlag (p : Port) (args : List Byte)
  /-- READ_ROLL (R134). -/
  | readRoll (p : Port) (args : List Byte)
  /-- SHADE_SAMPLE (R135). -/
  | shadeSample (p : Port) (args : List Byte)
  /-- BATCH_CLOSE (R147). -/
  | batchClose (p : Port) (args : List Byte)
  /-- READ_BATCH (R148). -/
  | readBatch (p : Port) (args : List Byte)
  /-- LABEL_FETCH (R157). -/
  | labelFetch (p : Port) (args : List Byte)
  /-- LABEL_DONE (R158). -/
  | labelDone (p : Port) (args : List Byte)
  /-- LABEL_SKIP (R159). -/
  | labelSkip (p : Port) (args : List Byte)
  /-- PURGE_BEGIN (R178). -/
  | purgeBegin (p : Port) (args : List Byte)
  /-- PURGE_CONFIRM (R178). -/
  | purgeConfirm (p : Port) (args : List Byte)
  /-- PURGE_COMMIT (R178). -/
  | purgeCommit (p : Port) (args : List Byte)
  /-- CLEAR_PROTECT (R180). -/
  | clearProtect (p : Port) (args : List Byte)
  /-- JOURNAL_READ (R175). -/
  | journalRead (p : Port) (args : List Byte)
  /-- WATCH_SET (R192). -/
  | watchSet (p : Port) (args : List Byte)
  /-- REQUEST_UNKNOWN_CODE (R183). -/
  | requestUnknownCode (p : Port) (code : Byte) (args : List Byte)
  /-- REQUEST_DISCARDED (R183). -/
  | requestDiscarded (p : Port) (args : List Byte)
  /-- RESPONSE_READ (R185). -/
  | responseRead (p : Port) (count : Nat)
  /-- STATUS_READ (R186). -/
  | statusRead (p : Port) (count : Nat)
  /-- NOTICE_CLEAR (R191). -/
  | noticeClear (p : Port) (kinds : Word16)
  /-- NOTICE_MASK_WRITE (R191). -/
  | noticeMaskWrite (p : Port) (mask : Word16)
  /-- FIFO_DIRECTION (R189). -/
  | fifoDirection (p : Port) (direction : Byte)
  /-- FIFO_FLUSH (R189). -/
  | fifoFlush (p : Port)
  /-- FIFO_DATA (R187). -/
  | fifoData (p : Port) (bytes : List Byte)
  /-- VIEW_POINTER_LOAD (R190). -/
  | viewPointerLoad (p : Port) (address : Word16)
  /-- VIEW_DATA_READ (R190). -/
  | viewDataRead (p : Port) (count : Nat)
  /-- STATION_FLAG_NIBBLE_WRITE (R193). -/
  | stationFlagNibbleWrite (p : Port) (value : Byte)
  /-- ACCESS_BYTE_INVALID (R182). -/
  | accessByteInvalid (p : Port) (access : Byte)
  /-- TRANSACTION_CUT_SHORT (R182). -/
  | transactionCutShort (p : Port) (access : FixedAccess)
  /-- FIFO_WORD_WRITTEN (R188). -/
  | fifoWordWritten (p : Port)
  /-- STORE_EN_FALL (R168). -/
  | storeEnFall
  deriving DecidableEq, Repr

end Sys2Proof
end

