-- ==== Sys2Proof/Machine/State.lean ====
section
/-!
DEFINITION. The state of the LC-48, the reasons a step can stop, and the state after cold reset.
-/

namespace Sys2Proof.Machine

/-- The state of the part, block by block. `fresh` numbers the free values the part has met so far
(the model's own field, assumption 9); `pending` is the queue of commands that wait, first in first out. -/
structure State where
  line : LineControl
  recipe : Recipe
  geometry : Geometry
  web : WebCounter
  clock : RepeatClock
  capture : Capture
  register : RegisterControl
  emboss : EmbossTracker
  map : WebMap
  roll : RollFormer
  shade : ShadeClassifier
  label : LabelQueue
  store : OrderStore
  nv : NonVolatile
  ports : Ports
  fresh : Nat
  pending : List Instr
  deriving DecidableEq, Repr

/-- The reasons the part stops with a fault. There are none: the manual describes no condition in which
the LC-48 stops, and every command that it can be given has an effect or is refused by a status code,
which is a next state. Nobody raises a fault. -/
inductive Fault
  deriving DecidableEq, Repr

/-- The reasons the model has no meaning for a command. -/
inductive Refusal
  /-- The command's arm has no meaning yet, raised by exec alone. Safe: the run stops. -/
  | notModelled (mnemonic : String)
  /-- The command's operands spell another command: REQUEST_UNKNOWN_CODE with a code of the role table, or
  ACCESS_BYTE_INVALID with an access byte of the table of R182. Raised by those two meanings alone, for
  operands that WellFormed refuses. Safe: the run stops. -/
  | otherCommand
  deriving DecidableEq, Repr

/-- The part right after cold reset, with an order store as a new part holds it (R165), no command waiting,
and every block at the values of Machine/Initial.lean (R1). -/
def State.reset : State :=
  { line := .initial, recipe := .default, geometry := .zero, web := .initial, clock := .idleAt 0
    capture := .initial, register := .initial, emboss := .initial, map := .initial
    roll := .initial, shade := .initial, label := .initial, store := .initial false
    nv := .new, ports := .initial, fresh := 0, pending := [] }

end Sys2Proof.Machine
end

