-- ==== Sys2Proof/Machine/Flags.lean ====
section
/-!
DEFINITION. The flags and lines a station sees: port access, the notices with their pending sets and
masks, the line state with its LINE notice, the hold causes with LINE_HOLD, and the output pins.
-/

namespace Sys2Proof.Machine

/-! ### Port access -/

/-- The state of port `p`. -/
def Ports.get (x : Ports) : Port → PortState
  | .press => x.press
  | .emboss => x.emboss
  | .winder => x.winder
  | .quality => x.quality

/-- The ports with the state of port `p` replaced. -/
def Ports.set (x : Ports) (p : Port) (v : PortState) : Ports :=
  match p with
  | .press => { x with press := v }
  | .emboss => { x with emboss := v }
  | .winder => { x with winder := v }
  | .quality => { x with quality := v }

/-- The state of port `p`. -/
def State.port (s : State) (p : Port) : PortState := s.ports.get p

/-- The part with the state of port `p` changed by `f`. -/
def State.modifyPort (s : State) (p : Port) (f : PortState → PortState) : State :=
  { s with ports := s.ports.set p (f (s.ports.get p)) }

/-- The four ports in the order P, E, W, Q. -/
def allPorts : List Port := [.press, .emboss, .winder, .quality]

/-! ### Notices (11, "Notices") -/

/-- The notice kinds. -/
inductive Notice
  | line | hold | store | watch | reset | protect | trim | register | stretch | emb | nip | cut | label
  | batch
  deriving DecidableEq, Repr

/-- The kind's bit in pending set, mask and clear mask (11, notice table). -/
def Notice.bit : Notice → Word16
  | .line => 0x0001#16 | .hold => 0x0002#16 | .store => 0x0004#16 | .watch => 0x0008#16
  | .reset => 0x0010#16 | .protect => 0x0020#16 | .trim => 0x0040#16 | .register => 0x0080#16
  | .stretch => 0x0100#16 | .emb => 0x0200#16 | .nip => 0x0400#16 | .cut => 0x0800#16
  | .label => 0x1000#16 | .batch => 0x2000#16

/-- The kinds a port carries (11, notice table): the first six on every port, the others on one. -/
def carried : Port → Word16
  | .press => 0x01FF#16
  | .emboss => 0x063F#16
  | .winder => 0x083F#16
  | .quality => 0x303F#16

/-- A notice kind joins a port's pending set (R191). -/
def State.raise (s : State) (p : Port) (n : Notice) : State :=
  s.modifyPort p (fun x => { x with pending := x.pending ||| n.bit })

/-- A notice kind joins the pending set of every port. -/
def State.raiseAll (s : State) (n : Notice) : State :=
  (((s.raise .press n).raise .emboss n).raise .winder n).raise .quality n

/-- The level of a port's NOTICE output: high while some kind the port carries is both pending and
enabled (R191). -/
def State.noticeOut (s : State) (p : Port) : Bool :=
  ((s.port p).pending &&& (s.port p).mask &&& carried p) != 0#16

/-! ### Line state, break flag and hold causes -/

/-- The hold causes that stand now (R19). -/
def holdsNow (s : State) : HoldCauses :=
  match s.line.state with
  | .noOrder | .opening => ⟨false, false, false⟩
  | _ =>
    { rolls := decide (20 ≤ (s.roll.records.rows.filter (fun r => r.state != .free)).length)
      labels := s.roll.records.rows.any (fun r => r.state == .graded)
      length := decide (4000000000 ≤ s.web.w) }

/-- The hold causes re-evaluated: each one taken up or cleared raises HOLD on every port (R19). -/
def evalHolds (s : State) : State :=
  if holdsNow s = s.line.holds then s
  else { s with line := { s.line with holds := holdsNow s } }.raiseAll .hold

/-- The LINE_HOLD output: high while at least one cause is held (R19). -/
def State.lineHold (s : State) : Bool := s.line.holds.rolls || s.line.holds.labels || s.line.holds.length

/-- The RPO output (R32). -/
def State.rpo (s : State) : Bool := s.clock.rpoEnd.isSome

/-- The CUT_STROBE output (R121). -/
def State.cutStrobe (s : State) : Bool := s.roll.strobeOff.isSome

/-- The line state changes: LINE is raised on every port (R1) and the hold causes, which are held only
while an order is open, are re-evaluated (R19). -/
def enterLineState (st : LineState) (s : State) : State :=
  if s.line.state = st then s
  else evalHolds ({ s with line := { s.line with state := st } }.raiseAll .line)

/-- The break flag takes a value; a change raises LINE on every port (R1). -/
def setBreakFlag (b : Bool) (s : State) : State :=
  if s.line.breakFlag = b then s
  else { s with line := { s.line with breakFlag := b } }.raiseAll .line

/-! ### The summary byte (R182) -/

/-- The summary byte that a port shifts out while the access byte is shifted in. -/
def State.summary (s : State) (p : Port) : Byte :=
  lowByte (bitsOf [s.noticeOut p, (s.port p).request.isSome, (s.port p).response.isSome,
    (s.port p).overrun, (s.port p).toStation, !(s.port p).fifo.isEmpty])

/-- A transaction on port `p` in which the part returned `bytes` after the summary byte (R182). -/
def State.shiftOut (s : State) (p : Port) (bytes : List Byte) : State :=
  s.modifyPort p (fun x => { x with sdo := s.summary p :: bytes })

end Sys2Proof.Machine
end

