-- ==== Sys2Proof/Machine/Roles.lean ====
section
/-!
DEFINITION. The role table of the station ports (11): each request's code, the ports whose role includes
it, the length of its arguments, and the line states that admit it.
-/

namespace Sys2Proof.Machine

/-- The requests of the role table. -/
inductive Req
  | orderOpen
  | orderClose
  | recipeWrite
  | recipeTune
  | geometryWrite
  | start
  | stop
  | trimFetch
  | trimApplied
  | trimHold
  | sampleFlush
  | embFetch
  | embApplied
  | nipClosed
  | nipOpened
  | defect
  | splice
  | cutFetch
  | cutDone
  | cutFailed
  | brk
  | rollFlag
  | readRoll
  | shadeSample
  | batchClose
  | readBatch
  | labelFetch
  | labelDone
  | labelSkip
  | purgeBegin
  | purgeConfirm
  | purgeCommit
  | clearProtect
  | journalRead
  | watchSet
  deriving DecidableEq, Repr

/-- A row of the role table, with the admitting line states its owning chapter gives. -/
structure Role where
  code : Byte
  ports : List Port
  length : Nat
  admitted : List LineState
  deriving DecidableEq, Repr

/-- The role table (11), and the admitting states (R2 and the rule named on each line). No table names the line states
that admit NIP_CLOSED and NIP_OPENED; that all but OPENING admit them, so that the nip state alone refuses them with
STATE in the others, is the model's choice (assumption 60). -/
def Req.role : Req → Role
  | .orderOpen => ⟨0x10#8, [.press, .quality], 5, [.noOrder]⟩ -- R3
  | .orderClose => ⟨0x11#8, [.press, .quality], 0, [.setup, .stopped]⟩ -- R15
  | .recipeWrite => ⟨0x12#8, [.press, .quality], 0, [.setup]⟩ -- R7
  | .recipeTune => ⟨0x13#8, [.press, .quality], 0, [.run, .stopped]⟩ -- R12
  | .geometryWrite => ⟨0x14#8, [.quality], 0, [.noOrder]⟩ -- R17
  | .start => ⟨0x15#8, [.press], 0, [.setup, .stopped]⟩ -- R10
  | .stop => ⟨0x16#8, [.press], 0, [.run]⟩ -- R11
  | .trimFetch => ⟨0x20#8, [.press], 0, [.setup, .run, .stopped]⟩ -- R64
  | .trimApplied => ⟨0x21#8, [.press], 2, [.run, .stopped]⟩ -- R64
  | .trimHold => ⟨0x22#8, [.press], 1, [.setup, .run, .stopped]⟩ -- R64
  | .sampleFlush => ⟨0x23#8, [.press], 1, [.setup, .run, .stopped]⟩ -- R64
  | .embFetch => ⟨0x28#8, [.emboss], 0, [.setup, .run, .stopped]⟩ -- R82
  | .embApplied => ⟨0x29#8, [.emboss], 1, [.run, .stopped]⟩ -- R82
  | .nipClosed => ⟨0x2A#8, [.emboss], 0, [.noOrder, .setup, .run, .stopped, .closing]⟩ -- R88, assumption 60
  | .nipOpened => ⟨0x2B#8, [.emboss], 0, [.noOrder, .setup, .run, .stopped, .closing]⟩ -- R91, assumption 60
  | .defect => ⟨0x30#8, [.quality], 5, [.run, .stopped]⟩ -- R100
  | .splice => ⟨0x31#8, [.press], 4, [.setup, .run, .stopped]⟩ -- R100
  | .cutFetch => ⟨0x38#8, [.winder], 0, [.setup, .run, .stopped, .closing]⟩ -- R122
  | .cutDone => ⟨0x39#8, [.winder], 4, [.run, .stopped, .closing]⟩ -- R122
  | .cutFailed => ⟨0x3A#8, [.winder], 4, [.run, .stopped, .closing]⟩ -- R122
  | .brk => ⟨0x3B#8, [.press, .winder], 0, [.run, .stopped]⟩ -- R128
  | .rollFlag => ⟨0x3C#8, [.press, .emboss, .winder, .quality], 3, [.setup, .run, .stopped, .closing]⟩ -- R133
  | .readRoll => ⟨0x3D#8, [.press, .emboss, .winder, .quality], 1, [.noOrder, .opening, .setup, .run, .stopped, .closing]⟩ -- R134
  | .shadeSample => ⟨0x40#8, [.quality], 6, [.run, .stopped]⟩ -- R135
  | .batchClose => ⟨0x41#8, [.quality], 1, [.setup, .run, .stopped]⟩ -- R147
  | .readBatch => ⟨0x42#8, [.press, .emboss, .winder, .quality], 1, [.noOrder, .opening, .setup, .run, .stopped, .closing]⟩ -- R148
  | .labelFetch => ⟨0x48#8, [.quality], 0, [.setup, .run, .stopped, .closing]⟩ -- R156
  | .labelDone => ⟨0x49#8, [.quality], 5, [.setup, .run, .stopped, .closing]⟩ -- R156
  | .labelSkip => ⟨0x4A#8, [.quality], 4, [.setup, .run, .stopped, .closing]⟩ -- R156
  | .purgeBegin => ⟨0x50#8, [.press, .emboss, .winder, .quality], 1, [.noOrder, .setup, .run, .stopped, .closing]⟩ -- R176
  | .purgeConfirm => ⟨0x51#8, [.press, .emboss, .winder, .quality], 1, [.noOrder, .setup, .run, .stopped, .closing]⟩ -- R176
  | .purgeCommit => ⟨0x52#8, [.press, .emboss, .winder, .quality], 1, [.noOrder, .setup, .run, .stopped, .closing]⟩ -- R176
  | .clearProtect => ⟨0x53#8, [.press, .emboss, .winder, .quality], 0, [.noOrder, .setup, .run, .stopped, .closing]⟩ -- R176
  | .journalRead => ⟨0x54#8, [.press, .emboss, .winder, .quality], 3, [.noOrder, .setup, .run, .stopped, .closing]⟩ -- R175
  | .watchSet => ⟨0x58#8, [.press, .emboss, .winder, .quality], 4, [.noOrder, .setup, .run, .stopped, .closing]⟩ -- R192

/-- The codes of the role table. -/
def roleCodes : List Byte := [
  0x10#8, 0x11#8, 0x12#8, 0x13#8, 0x14#8, 0x15#8, 0x16#8, 0x20#8, 0x21#8, 0x22#8, 0x23#8, 0x28#8, 0x29#8, 0x2A#8, 0x2B#8, 0x30#8, 0x31#8, 0x38#8,
  0x39#8, 0x3A#8, 0x3B#8, 0x3C#8, 0x3D#8, 0x40#8, 0x41#8, 0x42#8, 0x48#8, 0x49#8, 0x4A#8, 0x50#8, 0x51#8, 0x52#8, 0x53#8, 0x54#8, 0x58#8]

/-- Whether the request's rule reads a record from the FIFO (R2). -/
def Req.readsFifo : Req → Bool
  | .recipeWrite | .recipeTune | .geometryWrite => true
  | _ => false

/-- Whether the request is a step of the purge sequence (R176). -/
def Req.isPurge : Req → Bool
  | .purgeBegin | .purgeConfirm | .purgeCommit => true
  | _ => false

end Sys2Proof.Machine
end

