-- ==== Sys2Proof/Machine/Ops.lean ====
section
/-!
DEFINITION. The operations the commands share: transfers through the FIFO, answers to requests, the order
in which a request is checked (R2, R183), changes to roll records with their revision counts, and the
non-volatile record banks.
-/

namespace Sys2Proof.Machine

/-! ### Roll records (07, "The roll record") -/

/-- Roll record `i`. -/
def State.record (s : State) (i : Fin 24) : RollRecord := s.roll.records.get i

/-- A change to a roll record; one that changes any part of it adds 1 to the revision count (R111). -/
def modifyRecord (i : Fin 24) (f : RollRecord → RollRecord) (s : State) : State :=
  if f (s.record i) = s.record i then s
  else
    { s with
      roll := { s.roll with
        records := s.roll.records.set i
          { f (s.record i) with revision := bump max32 (s.record i).revision } } }

/-- A record returns to FREE: every other part absent, clear or 0 except the revision count (R111,
R160), and ROLLS is re-evaluated (R19). -/
def freeRecord (i : Fin 24) (s : State) : State :=
  evalHolds (modifyRecord i (fun r => .freed r.revision) s)

/-- The lowest-numbered FREE record (R111). -/
def lowestFree (s : State) : Option (Fin 24) := (s.roll.records.which (fun r => r.state == .free)).head?

/-! ### Requests and responses (R183, R185) -/

/-- A request of port `p` ends: its response is written into the response slot, or discarded when the port
was reset while it executed (R183, R194). -/
def respond (p : Port) (code : Byte) (status : Status) (result : List Byte) (s : State) : State :=
  s.modifyPort p (fun x =>
    match x.request with
    | some e =>
      if e.discard then { x with request := none }
      else { x with request := none, response := some ⟨code, status, result⟩ }
    | none => { x with response := some ⟨code, status, result⟩ })

/-- The request stays in execution (R183). -/
def keepExecuting (p : Port) (code : Byte) (waiting : Waiting) (s : State) : State :=
  s.modifyPort p (fun x => { x with request := some ⟨code, waiting, false⟩ })

/-- A request puts records into the FIFO: their copied bytes wait to be written word by word, and the
request ends at once when there are none (R188). -/
def sendRecords (p : Port) (code : Byte) (bytes result : List Byte) (s : State) : State :=
  if bytes.isEmpty then respond p code .ok result s
  else keepExecuting p code (.words bytes result) s

/-- The bytes of the whole words a request finds in its port's FIFO (R187). -/
def PortState.wholeWords (x : PortState) : List Byte := x.fifo.take (2 * (x.fifo.length / 2))

/-- A request whose rule reads a record empties the FIFO, the unpaired byte included, when the FIFO is
TO_PART (R2). -/
def takeInput (r : Req) (p : Port) (s : State) : State :=
  if r.readsFifo && !(s.port p).toStation then s.modifyPort p (fun x => { x with fifo := [] }) else s

/-- A purge mistake of port `p`: the sequence is abandoned, PROTECT is set and raised (R177). -/
def purgeMistake (p : Port) (s : State) : State :=
  (s.modifyPort p (fun x => { x with purge := .nothing, protect := true })).raise p .protect

/-- Any request but a purge step, sent while the port's purge progress is not none, is a purge mistake
(R177). -/
def foreignRequest (r : Req) (p : Port) (s : State) : State :=
  if r.isPurge || (s.port p).purge == .nothing then s else purgeMistake p s

/-- A purge step refused for the line state abandons the sequence and leaves PROTECT as it stands (R176). -/
def dropPurge (r : Req) (p : Port) (s : State) : State :=
  if r.isPurge then s.modifyPort p (fun x => { x with purge := .nothing }) else s

/-- A port takes no request while its request slot is EXECUTING or its response slot READY (R183). -/
def PortState.busy (x : PortState) : Bool := x.request.isSome || x.response.isSome

/-- A request write that finds the port busy is discarded unexamined and sets the overrun flag (R183). -/
def discardRequest (p : Port) (s : State) : State :=
  s.modifyPort p (fun x => { x with overrun := true })

/-- A complete request frame is checked for role, then line state, then argument length, and then taken
or refused by its own rule, `body` (R2, R183). -/
def takeRequest (r : Req) (p : Port) (args : List Byte) (body : State → State) (s : State) : State :=
  let s0 := s.shiftOut p (List.replicate (args.length + 2) 0)
  if (s.port p).busy then discardRequest p s0
  else
    let s1 := foreignRequest r p s0
    if !r.role.ports.contains p then takeInput r p (respond p r.role.code .role [] s1)
    else if !r.role.admitted.contains s.line.state then
      takeInput r p (respond p r.role.code .state [] (dropPurge r p s1))
    else if args.length ≠ r.role.length then takeInput r p (respond p r.role.code .range [] s1)
    else takeInput r p (body s1)

/-- A request is refused, or answered, with a status and no result bytes. -/
def answer (r : Req) (p : Port) (status : Status) (s : State) : State :=
  respond p r.role.code status [] s

/-- A request is answered OK with no result bytes. -/
def answerOk (r : Req) (p : Port) (s : State) : State := answer r p .ok s

/-! ### Non-volatile record banks (10) -/

/-- The record at a position of a bank; a position that is not listed is blank. -/
def cellAt {α : Type} : Cells α → Nat → StoreCell α
  | [], _ => .blank
  | (k, c) :: rest, n => if k = n then c else cellAt rest n

/-- A position removed from a bank, so that it reads blank. -/
def eraseCell {α : Type} (cells : Cells α) (n : Nat) : Cells α := cells.filter (fun x => x.1 != n)

/-- A record put at a position of a bank that does not list the position, in rising order. -/
def insertCell {α : Type} (n : Nat) (c : StoreCell α) : Cells α → Cells α
  | [] => [(n, c)]
  | (k, d) :: rest => if n < k then (n, c) :: (k, d) :: rest else (k, d) :: insertCell n c rest

/-- A bank with the record at a position replaced; a blank record is not listed. -/
def setCell {α : Type} (cells : Cells α) (n : Nat) (c : StoreCell α) : Cells α :=
  match c with
  | .blank => eraseCell cells n
  | c => insertCell n c (eraseCell cells n)

/-- The canonical form of a bank: positions strictly rising and no listed record blank. -/
def cellsWf {α : Type} [DecidableEq α] (cells : Cells α) : Bool :=
  (cells.map Prod.fst).Pairwise (· < ·) && cells.all (fun x => x.2 != .blank)

/-- The number of positions from position `from` up to the first blank one (R166). -/
def writtenFrom {α : Type} : (start : Nat) → Cells α → Nat
  | _, [] => 0
  | start, (k, _) :: rest => if k = start then writtenFrom (start + 1) rest + 1 else 0

end Sys2Proof.Machine
end

