-- ==== Sys2Proof/Machine/Clock.lean ====
section
/-!
DEFINITION. The repeat clock (02): boundaries, the repeat pulse, key captures, measured repeats and stretch;
and the application of a staged tune at a boundary (R13, R14).
-/

namespace Sys2Proof.Machine

/-! ### Tunes -/

/-- A channel's list shortened to its newest `depth` samples (R14). -/
def RegisterChannel.shorten (depth : Int) (c : RegisterChannel) : RegisterChannel :=
  { c with samples := lastN depth.toNat c.samples }

/-- A tune written into the recipe in force; sample lists longer than a new filter depth lose their oldest
samples (R14). -/
def applyTune (t : Tune) (s : State) : State :=
  let r := s.recipe.tuned t
  { s with
    recipe := r
    register := { s.register with units := s.register.units.map (RegisterChannel.shorten r.filterDepth) }
    emboss := { s.emboss with channel := s.emboss.channel.shorten r.embossFilterDepth } }

/-- The staged tune, if one is held, is applied and is then absent (R13). -/
def applyStaged (s : State) : State :=
  match s.line.stagedTune with
  | some t => applyTune t { s with line := { s.line with stagedTune := none } }
  | none => s

/-- A staged tune is discarded (R13). -/
def discardTune (s : State) : State := { s with line := { s.line with stagedTune := none } }

/-! ### Boundaries (R28 to R32) -/

/-- A repeat boundary at a position starts an RPO pulse of the width in force, and then the staged tune is
applied (R31, R32). -/
def boundaryAt (position : Pos) (s : State) : State :=
  applyStaged { s with clock := { s.clock with rpoEnd := some (position + s.recipe.pulseWidth) } }

/-- The point at which the clock would make a coasting boundary. -/
def coastPoint (s : State) : Pos := s.clock.origin + s.recipe.repeatLength

/-- A coasting boundary: the phase becomes 0, the origin and a defined k0 advance by R, and the repeat index
increases by 1 (R28). -/
def coast (s : State) : State :=
  boundaryAt (coastPoint s)
    { s with
      clock := { s.clock with
        phase := 0
        origin := coastPoint s
        index := bump max32 s.clock.index
        k0 := s.clock.k0.map (· + s.recipe.repeatLength)
        lastCoast := some (coastPoint s) } }

/-- A key capture re-phases the clock: the phase becomes 0 and origin and k0 become c (R29). -/
def RepeatClock.rephase (c : Pos) (x : RepeatClock) : RepeatClock :=
  { x with phase := 0, origin := c, k0 := some c }

/-- A capture is late when the channel was not in SEEK and a coasting boundary has been made at a position
within the window in which it was accepted (R29). -/
def isLate (r : Recipe) (x : RepeatClock) (channel : ChannelRecord) : Bool :=
  match channel.state, channel.centre, x.lastCoast with
  | .seek, _, _ => false
  | _, some centre, some b => decide (centre - r.window ≤ b)
  | _, _, _ => false

/-! ### Measured repeats and stretch (R33 to R35) -/

/-- A measured repeat enters the list at the newest end; the oldest of 8 is dropped (R33). -/
def pushMeasured (m : Int) (xs : List Int) : List Int := lastN 8 (xs ++ [m])

/-- The stretch recomputed from the list and compared with the tolerance; STRETCH is raised when the flag is
newly set (R34). -/
def checkStretch (s : State) : State :=
  let stretch := meanNearest s.clock.measured - s.recipe.repeatLength
  let exceeded := decide (s.recipe.stretchTolerance < mag stretch)
  let s1 := { s with clock := { s.clock with stretch := some stretch, stretchOver := exceeded } }
  if exceeded && !s.clock.stretchOver then s1.raise .press .stretch else s1

/-- A key capture at c measures the repeat since the previous one, `misses` consecutive misses having been
counted between them, unless it was accepted in SEEK or none came before; it then becomes the previous
capture (R33). -/
def measure (c : Pos) (fromSeek : Bool) (misses : Nat) (s : State) : State :=
  let remember (s : State) : State := { s with clock := { s.clock with previousKey := some c } }
  match fromSeek, s.clock.previousKey with
  | false, some p =>
    remember (checkStretch
      { s with clock := { s.clock with
          measured := pushMeasured (roundNearest (c - p) (misses + 1)) s.clock.measured } })
  | _, _ => remember s

/-- The list is emptied, stretch becomes absent, the flag is cleared and the previous capture is forgotten
(R35). -/
def forgetMeasured (s : State) : State :=
  { s with clock := { s.clock with
      measured := [], stretch := none, stretchOver := false, previousKey := none } }

/-- An accepted key capture at c reaches a RUNNING clock; `channel` is the key channel's record before the
acceptance (R29, R33). An IDLE or HALTED clock takes none (R27). -/
def keyCapture (c : Pos) (channel : ChannelRecord) (s : State) : State :=
  if s.clock.state ≠ .running then s
  else
    let fromSeek := channel.state == .seek
    let s1 := { s with clock := s.clock.rephase c }
    if isLate s.recipe s.clock channel then measure c fromSeek channel.run s1
    else
      measure c fromSeek channel.run
        (boundaryAt c { s1 with clock := { s1.clock with index := bump max32 s.clock.index } })

/-- The clock starts at a START taken from SETUP (R27, R35). -/
def startClock (s : State) : State :=
  forgetMeasured
    { s with clock := { s.clock with
        state := .running, phase := 0, origin := s.web.w, k0 := none, lastCoast := none } }

/-- The clock halts when the line enters CLOSING: RPO is deasserted (R27, R32). -/
def haltClock (s : State) : State :=
  { s with clock := { s.clock with state := .halted, rpoEnd := none } }

/-- One step of the web forward moves the phase of a RUNNING clock; the phase that would reach R is 0, and
the coasting boundary is then due (R28). -/
def RepeatClock.advance (r : Recipe) (x : RepeatClock) : RepeatClock :=
  if x.state = .running then
    { x with phase := if (x.phase : Int) + 1 < r.repeatLength then x.phase + 1 else 0 }
  else x

/-! ### RPO_PULSE_END (R32) -/

/-- The end of the standing RPO pulse is reached (R32). -/
def pulseEndDue (s : State) : Bool :=
  match s.clock.rpoEnd with
  | some x => decide (x ≤ s.web.w)
  | none => false

/-- RPO is deasserted when w reaches the end of its pulse (R32). -/
def endPulse (s : State) : State :=
  if pulseEndDue s then { s with clock := { s.clock with rpoEnd := none } } else s

/-- RPO_PULSE_END (R32). -/
def execRpoPulseEnd (s : State) : Host.Outcome State Fault Refusal := .next (endPulse s)

end Sys2Proof.Machine
end

