-- ==== Sys2Proof/Machine/WebMap.lean ====
section
/-!
DEFINITION. The web map (06): ordered insertion, merging, overflow, release of stood-in kinds, and the
consumption of entries into a segment; and the meaning of DEFECT.
-/

namespace Sys2Proof.Machine

/-- The map holds at most 48 entries (R94). -/
def mapSize : Nat := 48

/-- The merge distance, 500 counts (06, "Merging"). -/
def mergeDistance : Int := 500

/-- A new closed or open entry, before it is given an age. -/
def newEntry (kind : MapKind) (start : Pos) (stop : Option Pos) (detail : Detail) (clamped : Bool) :
    MapEntry :=
  { kind := kind, start := start, stop := stop, detail := detail, clamped := clamped
    forRegister := false, forEmboss := false, pendingEnd := none, age := 0 }

/-- The place and age of the youngest entry that satisfies `p`; of two of one age the later in the map is
the younger (R94). -/
def youngestAt (p : MapEntry → Bool) : List MapEntry → Option (Nat × Nat)
  | [] => none
  | e :: es =>
    match youngestAt p es with
    | some (i, a) => if p e && decide (a < e.age) then some (0, e.age) else some (i + 1, a)
    | none => if p e then some (0, e.age) else none

/-- An entry inserted after every entry whose start is equal to or smaller than its own (R94). -/
def insertEntry (e : MapEntry) : List MapEntry → List MapEntry
  | [] => [e]
  | x :: xs => if x.start ≤ e.start then x :: insertEntry e xs else e :: x :: xs

/-- An addition: the addition count adds 1 and is the new entry's age (R94). -/
def addAged (e : MapEntry) (m : WebMap) : WebMap :=
  { m with
    additions := bump max32 m.additions
    entries := insertEntry { e with age := bump max32 m.additions } m.entries }

/-- The greater of two positions, either of which may be absent. -/
def laterOf : Option Pos → Option Pos → Option Pos
  | some a, some b => some (max a b)
  | some a, none => some a
  | none, b => b

/-- Whether the entry is the open entry of its kind. -/
def MapEntry.isOpenOf (e : MapEntry) (k : MapKind) : Bool := e.kind == k && e.stop.isNone

/-- The OVERFLOW entry made from two entries (R97 step 2). -/
def overflowOf (x y : MapEntry) : MapEntry :=
  let forRegister :=
    x.forRegister || y.forRegister || x.isOpenOf .register || y.isOpenOf .register
  let forEmboss := x.forEmboss || y.forEmboss || x.isOpenOf .emboss || y.isOpenOf .emboss
  { kind := .defect
    start := min x.start y.start
    stop := match x.stop, y.stop with
      | some a, some b => some (max a b)
      | _, _ => none
    detail := .overflow
    clamped := x.clamped || y.clamped
    forRegister := forRegister
    forEmboss := forEmboss
    pendingEnd :=
      if forRegister || forEmboss then
        laterOf (laterOf x.stop x.pendingEnd) (laterOf y.stop y.pendingEnd)
      else none
    age := 0 }

/-- Whether an entry is not a SPLICE. -/
def MapEntry.isFault (e : MapEntry) : Bool := e.kind != .splice

/-- The youngest non-SPLICE entry and the entries without it. -/
def takeYoungest (es : List MapEntry) : Option (MapEntry × List MapEntry) :=
  match youngestAt MapEntry.isFault es with
  | some (i, _) => es[i]?.map (fun e => (e, es.eraseIdx i))
  | none => none

/-- An entry made by an overflow merge joins the map, and the overflow merge count adds 1 (R97 step 3). -/
def addOverflow (e : MapEntry) (m : WebMap) : WebMap :=
  addAged e { m with overflows := bump max16 m.overflows }

/-- What became of a report (R100). -/
inductive Disposition
  | added | extended | overflowed
  deriving DecidableEq, Repr

/-- The disposition's result byte (R100). -/
def Disposition.code : Disposition → Byte
  | .added => 0 | .extended => 1 | .overflowed => 2

/-- An entry is added, after room is made by an overflow merge when the map is full (R94, R97, R99).
Absent when the map has no room for it: the entry is then refused or has no effect. -/
def addEntry (e : MapEntry) (m : WebMap) : Option (WebMap × Disposition) :=
  if m.entries.length < mapSize then some (addAged e m, .added)
  else
    match takeYoungest m.entries with
    | none => none
    | some (x, rest) =>
      match takeYoungest rest with
      | some (y, rest') =>
        some (addAged e (addOverflow (overflowOf x y) { m with entries := rest' }), .overflowed)
      | none =>
        if e.kind = .splice then none
        else some (addOverflow (overflowOf x e) { m with entries := rest }, .overflowed)

/-- The place of the youngest closed entry of a kind and detail when a report that starts at `start` may
extend it (R96). -/
def mergeTarget (kind : MapKind) (detail : Detail) (start : Pos) (m : WebMap) : Option Nat :=
  match youngestAt (fun e => e.kind == kind && e.detail == detail && e.stop.isSome) m.entries with
  | some (i, _) =>
    match m.entries[i]? with
    | some e =>
      match e.stop with
      | some b => if e.start ≤ start ∧ start ≤ b + mergeDistance then some i else none
      | none => none
    | none => none
  | none => none

/-- The entry at a place changed by `f`. -/
def modifyEntry (i : Nat) (f : MapEntry → MapEntry) (m : WebMap) : WebMap :=
  { m with entries := m.entries.modify i f }

/-- Whether the map holds an open entry of a kind (R73, R92). -/
def hasOpen (k : MapKind) (m : WebMap) : Bool := m.entries.any (fun e => e.isOpenOf k)

/-- Whether the map holds an open entry of a kind or an OVERFLOW entry that stands in for it (R115). -/
def hasOpenFault (k : MapKind) (m : WebMap) : Bool :=
  hasOpen k m ||
    match k with
    | .register => m.entries.any MapEntry.forRegister
    | .emboss => m.entries.any MapEntry.forEmboss
    | .defect | .splice => false

/-- An open of a kind by its owner (R95). -/
def openSpan (kind : MapKind) (start : Pos) (detail : Detail) (m : WebMap) : WebMap :=
  if hasOpen kind m then m
  else
    match mergeTarget kind detail start m with
    | some i => modifyEntry i (fun e => { e with stop := none }) m
    | none =>
      match addEntry (newEntry kind start none detail false) m with
      | some (m', _) => m'
      | none => m

/-- A close of a kind by its owner (R95). -/
def closeSpan (kind : MapKind) (stop : Pos) (m : WebMap) : WebMap :=
  { m with entries := m.entries.map (fun e => if e.isOpenOf kind then { e with stop := some stop } else e) }

/-- One stood-in kind of an entry is released at a position; after the last release the entry closes at its
pending end (R98). -/
def MapEntry.release (kind : MapKind) (position : Pos) (e : MapEntry) : MapEntry :=
  let stands := match kind with
    | .register => e.forRegister
    | .emboss => e.forEmboss
    | .defect | .splice => false
  if stands then
    let e1 := { e with
      forRegister := e.forRegister && kind != .register
      forEmboss := e.forEmboss && kind != .emboss
      pendingEnd := laterOf e.pendingEnd (some position) }
    if e1.forRegister || e1.forEmboss then e1
    else { e1 with stop := e1.pendingEnd, pendingEnd := none }
  else e

/-- The owner of a kind releases it in every OVERFLOW entry that stands in for it (R98). -/
def releaseKind (kind : MapKind) (position : Pos) (m : WebMap) : WebMap :=
  { m with entries := m.entries.map (MapEntry.release kind position) }

/-- The map empties itself, clearing no count (R105, R16 step 2). -/
def emptyMap (m : WebMap) : WebMap := { m with entries := [] }

/-! ### Consumption (R103, R104) -/

/-- The charge of an overlap `[a, b)` of an entry to a segment that starts at `start`; an empty overlap is
charged nothing. -/
def chargeOf (e : MapEntry) (start a b : Pos) : Option DefectItem :=
  if a < b then some { kind := e.kind, detail := e.detail, offset := a - start, length := b - a } else none

/-- What consumption for `[start, c)` charges of an entry, and what becomes of the entry (R103). -/
def consumeEntry (start c : Pos) (e : MapEntry) : Option DefectItem × Option MapEntry :=
  if c ≤ e.start then (none, some e)
  else
    match e.kind, e.stop with
    | .splice, _ =>
      if start ≤ e.start then
        (some { kind := .splice, detail := e.detail, offset := e.start - start, length := 0 }, none)
      else (none, none)
    | _, some b =>
      if b ≤ start then (none, none)
      else
        (chargeOf e start (max e.start start) (min b c),
          if b ≤ c then none else some { e with start := c })
    | _, none => (chargeOf e start (max e.start start) c, some { e with start := c })

/-- The items that consumption charges, in map order. -/
def charges (start c : Pos) (m : WebMap) : List DefectItem :=
  m.entries.filterMap (fun e => (consumeEntry start c e).1)

/-- The map after consumption. -/
def consumed (start c : Pos) (m : WebMap) : WebMap :=
  { m with entries := m.entries.filterMap (fun e => (consumeEntry start c e).2) }

/-- One item joins a defect list, or counts as overflow when the list holds 8 (R104). -/
def RollRecord.addItem (r : RollRecord) (x : DefectItem) : RollRecord :=
  if r.defects.length < 8 then { r with defects := r.defects ++ [x] }
  else { r with defectOverflow := bump max16 r.defectOverflow }

/-- One overlap charged to a roll record: its total, the splice flag and the defect list (R104). -/
def RollRecord.charge (r : RollRecord) (x : DefectItem) : RollRecord :=
  let r1 := match x.kind with
    | .register => { r with registerOff := addHeld max32 r.registerOff x.length.toNat }
    | .emboss => { r with embossOff := addHeld max32 r.embossOff x.length.toNat }
    | .defect => { r with defectTotal := addHeld max32 r.defectTotal x.length.toNat }
    | .splice => { r with splice := true }
  r1.addItem x

/-- The web map is consumed for a segment, charging its record if it is tracked (R103, R104, R106). -/
def consumeMap (record : Option (Fin 24)) (start c : Pos) (s : State) : State :=
  let s1 := match record with
    | some i => (charges start c s.map).foldl (fun s x => modifyRecord i (fun r => r.charge x) s) s
    | none => s
  { s1 with map := consumed start c s.map }

/-- The positions of the SPLICE entries, in map order. -/
def splices (m : WebMap) : List Pos :=
  (m.entries.filter (fun e => e.kind == .splice)).map MapEntry.start

/-! ### DEFECT (R101) -/

/-- A defect length clamped to 1 to D_K − D_Q − 1, and whether it was cut (R101). -/
def clampDefect (g : Geometry) (n : Nat) : Int × Bool :=
  let limit : Int := (g.dK : Int) - g.dQ - 1
  let l := if limit < 1 then 1 else clampInt 1 limit n
  (l, decide (l ≠ n))

/-- A defect report: it extends the youngest closed entry of its class or is added (R96, R101). -/
def reportDefect (start stop : Pos) (cls : Fin 16) (clamped : Bool) (m : WebMap) :
    Option (WebMap × Disposition) :=
  match mergeTarget .defect (.defectClass cls) start m with
  | some i =>
    some (modifyEntry i
      (fun e => { e with stop := laterOf e.stop (some stop), clamped := e.clamped || clamped }) m,
      .extended)
  | none => addEntry (newEntry .defect start (some stop) (.defectClass cls) clamped) m

/-- The result bytes of DEFECT and SPLICE: the disposition and the clamp byte (R100). -/
def reportResult (d : Disposition) (clamped : Bool) : List Byte :=
  [d.code, if clamped then 1#8 else 0#8]

/-- DEFECT(class, length) (R101). The four bytes of the length are read as an unsigned number, by the model's choice
(assumption 57). -/
def defectBody (p : Port) (args : List Byte) (s : State) : State :=
  match classOfNumber (argNat args 0 1) with
  | none => answer .defect p .range s
  | some cls =>
    let length := clampDefect s.geometry (argNat args 1 4)
    let stop : Pos := (s.web.w : Int) - s.geometry.dQ
    match reportDefect (stop - length.1) stop cls length.2 s.map with
    | some (m, d) =>
      respond p Req.defect.role.code .ok (reportResult d length.2) { s with map := m }
    | none => answer .defect p .full s

/-- DEFECT (R101). -/
def execDefect (p : Port) (args : List Byte) (s : State) : Host.Outcome State Fault Refusal :=
  .next (takeRequest .defect p args (defectBody p args) s)

end Sys2Proof.Machine
end

