-- ==== Sys2Proof/Machine/Register.lean ====
section
/-!
DEFINITION. Print register control (04): the register channel, which a print unit and the emboss cylinder
share, the frame judgement and the REGISTER span; and the trim requests of port P.
-/

namespace Sys2Proof.Machine

/-! ### The register channel -/

/-- The settings a register channel reads (fields 11 to 18, or 26 to 33), with the two suspending functions,
which do not reach the emboss channel (R80). -/
structure ChannelSettings where
  lockWindow : Int
  deadband : Int
  gain : Int
  maxStep : Int
  acquireStep : Int
  trimLimit : Int
  depth : Nat
  interval : Nat
  hold : Bool
  flush : Bool
  deriving DecidableEq, Repr

/-- What a channel has done that its owner announces: it changed state, posted a correction, let a trim time
out, or entered ACQUIRE. -/
structure ChannelEvents where
  changed : Bool
  posted : Bool
  timedOut : Bool
  acquired : Bool
  deriving DecidableEq, Repr

/-- Nothing to announce. -/
def ChannelEvents.none : ChannelEvents := ⟨false, false, false, false⟩

/-- A channel with what it has to announce. -/
abbrev ChannelStep := RegisterChannel × ChannelEvents

/-- The channel changes state: its consecutive misses and lock count become 0, and the change is announced
(R53, R76), the entry into OFF at CLOSING included (assumption 47). A change that leaves the state as it was
does nothing. -/
def enterState (st : RegisterState) (x : ChannelStep) : ChannelStep :=
  if x.1.state = st then x
  else
    ({ x.1 with state := st, misses := 0, lockCount := 0 },
      { x.2 with changed := true, acquired := x.2.acquired || st == .acquire })

/-- The channel's list is emptied and its frames since evaluation are set to 0. -/
def RegisterChannel.restart (c : RegisterChannel) : RegisterChannel :=
  { c with samples := [], sinceEvaluation := 0 }

/-- A correction cut so that the cumulative trim stays within the trim limit (R61). -/
def cutToLimit (limit trim correction : Int) : Int := clampInt (-limit) limit (trim + correction) - trim

/-- A nonzero correction is posted at a frame index (R61). -/
def postTrim (frame : Nat) (correction : Int) (x : ChannelStep) : ChannelStep :=
  ({ x.1 with
      trim := x.1.trim + correction
      sequence := x.1.sequence + 1
      outstanding := some
        { sequence := x.1.sequence + 1, delta := correction, postedAt := frame, timedOut := false } },
    { x.2 with posted := true })

/-- A correction is withheld and counted (R61, R62). -/
def withhold (x : ChannelStep) : ChannelStep :=
  ({ x.1 with withheld := bump max16 x.1.withheld }, x.2)

/-- A nonzero correction computed in ACQUIRE or LOCKED: cut to the limit, then posted, or withheld when it is
cut to 0; one that is cut moves a LOCKED channel to LIMIT (R61). -/
def postWithLimit (k : ChannelSettings) (frame : Nat) (correction : Int) (x : ChannelStep) : ChannelStep :=
  let cut := cutToLimit k.trimLimit x.1.trim correction
  let posted := if cut = 0 then withhold x else postTrim frame cut x
  if cut ≠ correction ∧ x.1.state = .locked then enterState .limit posted else posted

/-- A nonzero correction computed in LIMIT: withheld when it would increase the trim's magnitude, otherwise
posted, the channel returning to LOCKED (R62). -/
def postInLimit (frame : Nat) (correction : Int) (x : ChannelStep) : ChannelStep :=
  if mag x.1.trim < mag (x.1.trim + correction) then withhold x
  else enterState .locked (postTrim frame correction x)

/-- The correction an evaluation computes from the list; 0 is no correction (R59). -/
def evaluationCorrection (k : ChannelSettings) (samples : List Int) : Int :=
  let mean := roundNearest (sumInts samples) k.depth
  if mag mean ≤ k.deadband then 0
  else clampInt (-k.maxStep) k.maxStep (-(roundTowardZero (mean * k.gain) 16))

/-- Whether a channel is evaluated at a frame close (R59). -/
def evaluationDue (k : ChannelSettings) (c : RegisterChannel) : Bool :=
  (c.state == .locked || c.state == .limit) && decide (k.depth ≤ c.samples.length)
    && decide (k.interval ≤ c.sinceEvaluation) && !k.hold && c.outstanding.isNone

/-- The evaluation of a channel: the correction is dealt with by R61 in LOCKED and by R62 in LIMIT, and the
list is emptied whether or not one results (R59). -/
def evaluate (k : ChannelSettings) (frame : Nat) (x : ChannelStep) : ChannelStep :=
  if evaluationDue k x.1 then
    let correction := evaluationCorrection k x.1.samples
    let y :=
      if correction = 0 then x
      else if x.1.state = .limit then postInLimit frame correction x
      else postWithLimit k frame correction x
    (y.1.restart, y.2)
  else x

/-- A sample counted toward the lock; the third good one in a row moves the channel to LOCKED (R56). -/
def lockSample (k : ChannelSettings) (e : Int) (x : ChannelStep) : ChannelStep :=
  let n := if mag e ≤ k.lockWindow then bump 3 x.1.lockCount else 0
  let y : ChannelStep := ({ x.1 with lockCount := n }, x.2)
  if n = 3 then enterState .locked (y.1.restart, y.2) else y

/-- The acquire correction of a usable sample that leaves the channel in ACQUIRE (R57). -/
def acquireCorrection (k : ChannelSettings) (frame : Nat) (e : Int) (x : ChannelStep) : ChannelStep :=
  let correction := clampInt (-k.acquireStep) k.acquireStep (-e)
  if x.1.state = .acquire ∧ ¬ k.hold ∧ correction ≠ 0 then postWithLimit k frame correction x else x

/-- A usable sample in ACQUIRE (R56, R57). -/
def acquireUsable (k : ChannelSettings) (frame : Nat) (e : Int) (x : ChannelStep) : ChannelStep :=
  acquireCorrection k frame e (lockSample k e x)

/-- A second consecutive miss moves the channel to HOLD; `second` says that this frame's miss was one
(R60). -/
def holdOnMiss (second : Bool) (x : ChannelStep) : ChannelStep :=
  if second && (x.1.state == .locked || x.1.state == .limit) then enterState .hold x else x

/-- A frame in LOCKED or LIMIT: frames since evaluation and the list, then evaluation and the move to HOLD on
a second miss, in the order that the configuration leaves open (R58, R59, R60; assumption 8). -/
def lockedFrame (k : ChannelSettings) (frame : Nat) (usable : Option Int) (second : Bool)
    (x : ChannelStep) : ChannelStep :=
  let c := { x.1 with sinceEvaluation := bump max16 x.1.sinceEvaluation }
  let y : ChannelStep := match usable with
    | some e => ({ c with samples := lastN k.depth (c.samples ++ [e]) }, x.2)
    | none => (c, x.2)
  if Config.evaluatesBeforeHold then holdOnMiss second (evaluate k frame y)
  else evaluate k frame (holdOnMiss second y)

/-- A usable sample in HOLD returns the channel to LOCKED when it lies inside the lock window (R63). -/
def holdUsable (k : ChannelSettings) (e : Int) (x : ChannelStep) : ChannelStep :=
  if mag e ≤ k.lockWindow then enterState .locked (x.1.restart, x.2) else x

/-- The eighth consecutive miss in HOLD moves the channel to ACQUIRE with its list emptied (R63). -/
def holdMiss (x : ChannelStep) : ChannelStep :=
  if 8 ≤ x.1.misses then enterState .acquire ({ x.1 with samples := [] }, x.2) else x

/-- Whether a sample is discarded (R55, R79): SAMPLE_FLUSH is on, a trim is outstanding, or the frame's
reference capture lies below the settle boundary. -/
def isDiscarded (k : ChannelSettings) (reference : Pos) (c : RegisterChannel) : Bool :=
  k.flush || c.outstanding.isSome || decide (reference < c.settleBoundary)

/-- A sample with error `e` in a frame whose reference capture lies at `reference` (R54, R55). -/
def takeSample (k : ChannelSettings) (frame : Nat) (reference : Pos) (e : Int) (c : RegisterChannel) :
    ChannelStep :=
  let c1 := { c with lastError := some e, misses := 0 }
  if isDiscarded k reference c then
    let c2 := { c1 with discarded := bump max16 c1.discarded }
    match c.state with
    | .locked | .limit => lockedFrame k frame none false (c2, .none)
    | .off | .acquire | .hold => (c2, .none)
  else
    match c.state with
    | .acquire => acquireUsable k frame e (c1, .none)
    | .locked | .limit => lockedFrame k frame (some e) false (c1, .none)
    | .hold => holdUsable k e (c1, .none)
    | .off => (c1, .none)

/-- A miss of the channel (R54, R56, R60, R63). -/
def takeMiss (k : ChannelSettings) (frame : Nat) (c : RegisterChannel) : ChannelStep :=
  let c1 := { c with misses := bump 255 c.misses }
  match c.state with
  | .acquire => ({ c1 with lockCount := 0 }, .none)
  | .locked | .limit => lockedFrame k frame none (decide (2 ≤ c1.misses)) (c1, .none)
  | .hold => holdMiss (c1, .none)
  | .off => (c1, .none)

/-- Whether an outstanding trim times out at a frame index: 16 frames after its posting, and not before (R67,
R85). -/
def timeoutDue (frame : Nat) (c : RegisterChannel) : Bool :=
  match c.outstanding with
  | some t => !t.timedOut && decide (t.postedAt + 16 ≤ frame)
  | none => false

/-- The timeout of an outstanding trim: it is marked and announced, and the channel enters HOLD; while
SAMPLE_FLUSH is on a channel in ACQUIRE stays there (R67, R85). -/
def timeOut (k : ChannelSettings) (frame : Nat) (x : ChannelStep) : ChannelStep :=
  if timeoutDue frame x.1 then
    let y : ChannelStep :=
      ({ x.1 with outstanding := x.1.outstanding.map (fun t => { t with timedOut := true }) },
        { x.2 with timedOut := true })
    match x.1.state with
    | .acquire => if k.flush then y else enterState .hold y
    | .locked | .limit => enterState .hold y
    | .off | .hold => y
  else x

/-- A channel's frame: its sample or miss by the rules of its state, then the timeout check (R54, R67, R78).
An OFF channel takes nothing (R52). -/
def channelFrame (k : ChannelSettings) (frame : Nat) (reference : Pos) (result : Option Int)
    (c : RegisterChannel) : ChannelStep :=
  if c.state = .off then (c, .none)
  else
    timeOut k frame
      (match result with
        | some e => takeSample k frame reference e c
        | none => takeMiss k frame c)

/-- The channel goes to ACQUIRE with its list emptied, its lock count 0 and frames since evaluation 0, unless
it is OFF; one already in ACQUIRE does so without a change of state (R70, R71, R81). That a channel already in
ACQUIRE, of a unit or of the emboss cylinder, has its frames since evaluation set to 0 too is read from the first
sentence of each of these rules (assumption 52). -/
def reacquire (c : RegisterChannel) : ChannelStep :=
  match c.state with
  | .off => (c, .none)
  | .acquire => ({ c.restart with lockCount := 0 }, .none)
  | .locked | .hold | .limit => enterState .acquire (c.restart, .none)

/-- The channel enters OFF and its outstanding trim becomes absent (R52, R75). The change of state sets its
consecutive misses and lock count to 0 by R53, although R52 keeps the counts (assumption 47). -/
def switchOff (c : RegisterChannel) : ChannelStep :=
  enterState .off ({ c with outstanding := none }, .none)

/-! ### The unit channels -/

/-- The settings of the print unit channels (fields 11 to 18). -/
def unitSettings (s : State) : ChannelSettings :=
  { lockWindow := s.recipe.lockWindow, deadband := s.recipe.deadband, gain := s.recipe.gain
    maxStep := s.recipe.maxStep, acquireStep := s.recipe.acquireStep, trimLimit := s.recipe.trimLimit
    depth := s.recipe.filterDepth.toNat, interval := s.recipe.interval.toNat
    hold := s.register.trimHold, flush := s.register.sampleFlush }

/-- A unit channel. -/
def State.unit (s : State) (k : Fin 7) : RegisterChannel := s.register.units.get k

/-- A unit channel takes its new value, and port P hears of what it did: TRIM at a posting, REGISTER at a
state change or a timeout (R53, R61, R67, R74). -/
def putUnit (k : Fin 7) (x : ChannelStep) (s : State) : State :=
  let s1 := { s with register := { s.register with units := s.register.units.set k x.1 } }
  let s2 := if x.2.posted then s1.raise .press .trim else s1
  if x.2.changed || x.2.timedOut then s2.raise .press .register else s2

/-- Every unit channel changed by `f`, in ascending unit order. -/
def eachUnit (f : Fin 7 → RegisterChannel → ChannelStep) (s : State) : State :=
  (allRows 7).foldl (fun s k => putUnit k (f k (s.unit k)) s) s

/-- The error of a unit's accepted position in a frame (R54). -/
def frameError (r : Recipe) (f : Frame) (k : Fin 7) : Option Int :=
  (f.results.get k).map (fun c => (c - f.c0) - r.unitOffset k)

/-- A frame is in register for a unit in use (R72). -/
def unitInRegister (s : State) (f : Frame) (k : Fin 7) : Bool :=
  ((s.unit k).state == .locked || (s.unit k).state == .limit) &&
    match frameError s.recipe f k with
    | some e => decide (mag e ≤ s.recipe.registerTolerance)
    | none => false

/-- The lowest unit in use for which a frame is not in register (R72). -/
def lowestOffender (s : State) (f : Frame) : Option (Fin 7) :=
  (allRows 7).find? (fun k => s.recipe.usesUnit k && !unitInRegister s f k)

/-- The register controller judges a frame, releases stood-in REGISTER entries, and opens or closes the
REGISTER span (R72, R73, R98). -/
def judgeFrame (f : Frame) (s : State) : State :=
  let released := releaseKind .register f.c0 s.map
  let bad := lowestOffender s f
  { s with
    register := { s.register with
      lastC0 := some f.c0, verdict := some bad.isNone, offender := bad }
    map := match bad with
      | some k => openSpan .register f.c0 (.unit k) released
      | none => closeSpan .register f.c0 released }

/-- The register controller takes a closed frame (R54). -/
def registerFrame (f : Frame) (s : State) : State :=
  let s1 := { s with register := { s.register with
      frameIndex := bump max32 s.register.frameIndex, lastC0 := some f.c0 } }
  let k := unitSettings s1
  let n := s1.register.frameIndex
  judgeFrame f (eachUnit (fun u c => channelFrame k n f.c0 (frameError s1.recipe f u) c) s1)

/-- The UNVERIFIED entry of a return of the key to SEEK (R43). -/
def openUnverified (s : State) : State :=
  { s with map := openSpan .register s.web.w .unverified s.map }

/-! ### The trim requests (R64 to R70) -/

/-- A trim record: unit, sequence, delta and cumulative trim (R65). -/
def trimBytes (unit : Nat) (t : Trim) (trim : Int) : List Byte :=
  [lowByte unit, t.sequence] ++ bytesOfInt 2 t.delta ++ bytesOfInt 2 trim

/-- The trim records of the unit channels with an outstanding trim, in ascending unit order (R65). -/
def trimRecords (s : State) : List (List Byte) :=
  (allRows 7).filterMap (fun k =>
    (s.unit k).outstanding.map (fun t => trimBytes (k.val + 1) t (s.unit k).trim))

/-- TRIM_FETCH (R65). -/
def trimFetchBody (p : Port) (s : State) : State :=
  if !(s.port p).toStation then answer .trimFetch p .fifoDir s
  else
    sendRecords p Req.trimFetch.role.code (trimRecords s).flatten [lowByte (trimRecords s).length] s

/-- TRIM_FETCH (R65). -/
def execTrimFetch (p : Port) (args : List Byte) (s : State) : Host.Outcome State Fault Refusal :=
  .next (takeRequest .trimFetch p args (trimFetchBody p) s)

/-- An acknowledged channel: the outstanding trim becomes absent and the settle boundary becomes w plus the
settle distance (R66, R84). -/
def RegisterChannel.acknowledge (w settle : Nat) (c : RegisterChannel) : RegisterChannel :=
  { c with outstanding := none, settleBoundary := (w : Int) + settle }

/-- Whether a channel has an outstanding trim with a sequence (R66). -/
def RegisterChannel.awaits (c : RegisterChannel) (sequence : Byte) : Bool :=
  c.outstanding.map Trim.sequence == some sequence

/-- TRIM_APPLIED(unit, sequence) (R66). -/
def trimAppliedBody (p : Port) (args : List Byte) (s : State) : State :=
  match unitOfNumber (argNat args 0 1) with
  | none => answer .trimApplied p .range s
  | some k =>
    if (s.unit k).awaits (argByte args 1) && (s.unit k).state != .off then
      answerOk .trimApplied p
        (putUnit k ((s.unit k).acknowledge s.web.w (s.geometry.settle.get k), .none) s)
    else answer .trimApplied p .notFound s

/-- TRIM_APPLIED (R66). -/
def execTrimApplied (p : Port) (args : List Byte) (s : State) : Host.Outcome State Fault Refusal :=
  .next (takeRequest .trimApplied p args (trimAppliedBody p args) s)

/-- TRIM_HOLD (R68, R69). -/
def trimHoldBody (p : Port) (args : List Byte) (s : State) : State :=
  if 1 < argNat args 0 1 then answer .trimHold p .range s
  else
    answerOk .trimHold p { s with register := { s.register with trimHold := argNat args 0 1 == 1 } }

/-- TRIM_HOLD (R68, R69). -/
def execTrimHold (p : Port) (args : List Byte) (s : State) : Host.Outcome State Fault Refusal :=
  .next (takeRequest .trimHold p args (trimHoldBody p args) s)

/-- SAMPLE_FLUSH takes a setting; turning it on sends every unit in use to ACQUIRE (R68, R70). -/
def setFlush (on : Bool) (s : State) : State :=
  let s1 := { s with register := { s.register with sampleFlush := on } }
  if on && !s.register.sampleFlush then eachUnit (fun _ c => reacquire c) s1 else s1

/-- SAMPLE_FLUSH (R68, R70). -/
def sampleFlushBody (p : Port) (args : List Byte) (s : State) : State :=
  if 1 < argNat args 0 1 then answer .sampleFlush p .range s
  else answerOk .sampleFlush p (setFlush (argNat args 0 1 == 1) s)

/-- SAMPLE_FLUSH (R68, R70). -/
def execSampleFlush (p : Port) (args : List Byte) (s : State) : Host.Outcome State Fault Refusal :=
  .next (takeRequest .sampleFlush p args (sampleFlushBody p args) s)

/-- TRIM_TIMEOUT of a unit: the timeout that a frame close brings (R67). A frame close makes the check
itself, so the command finds it due only in a state in which that check has not been made (assumption 6). -/
def trimTimeout (k : Fin 7) (s : State) : State :=
  putUnit k (timeOut (unitSettings s) s.register.frameIndex (s.unit k, .none)) s

/-- TRIM_TIMEOUT (R67). -/
def execTrimTimeout (unit : Fin 7) (s : State) : Host.Outcome State Fault Refusal :=
  .next (trimTimeout unit s)

end Sys2Proof.Machine
end

