-- ==== Sys2Proof/Machine/Emboss.lean ====
section
/-!
DEFINITION. Embossing in register (05): emboss frames and pairing, the emboss channel, the nip with its
permit and open order, the EMBOSS span, and the requests of port E.
-/

namespace Sys2Proof.Machine

/-! ### The emboss channel -/

/-- The settings of the emboss channel (fields 26 to 33). TRIM_HOLD and SAMPLE_FLUSH do not reach it (R80). -/
def embossSettings (s : State) : ChannelSettings :=
  { lockWindow := s.recipe.embossLockWindow, deadband := s.recipe.embossDeadband
    gain := s.recipe.embossGain, maxStep := s.recipe.embossMaxStep
    acquireStep := s.recipe.embossAcquireStep, trimLimit := s.recipe.embossTrimLimit
    depth := s.recipe.embossFilterDepth.toNat, interval := s.recipe.embossInterval.toNat
    hold := false, flush := false }

/-- The emboss channel takes its new value; EMB is raised on port E at a posting, a state change or a timeout
(R76, R80, R85). -/
def putEmboss (x : ChannelStep) (s : State) : State :=
  let s1 := { s with emboss := { s.emboss with channel := x.1 } }
  if x.2.posted || x.2.changed || x.2.timedOut then s1.raise .emboss .emb else s1

/-! ### The nip (R86 to R91) -/

/-- The nip record changed by `f`, without a change of nip state. -/
def modifyNip (f : Nip → Nip) (s : State) : State :=
  { s with emboss := { s.emboss with nip := f s.emboss.nip } }

/-- The nip state changes, raising NIP on port E (R86); a change that leaves it as it was does nothing. -/
def enterNip (st : NipState) (s : State) : State :=
  if s.emboss.nip.state = st then s
  else (modifyNip (fun n => { n with state := st }) s).raise .emboss .nip

/-- The nip permit stands exactly in READY (R86). -/
def State.nipPermit (s : State) : Bool := s.emboss.nip.state == .ready

/-- The open order stands exactly in OPENING (05, nip state table). -/
def State.nipOpenOrder (s : State) : Bool := s.emboss.nip.state == .opening

/-- The nip is ordered open: OPENING with an order reason, the open cause absent (R89, R90). -/
def orderNipOpen (reason : OrderReason) (s : State) : State :=
  enterNip .opening (modifyNip (fun n => { n with orderReason := some reason, openCause := none }) s)

/-- The emboss fault: the nip is not CLOSED, or CLOSED with no sample yet within the tolerance (R92). -/
def embossFault (n : Nip) : Bool := n.state != .closed || n.verdict != .within

/-- The detail with which a fault opens the EMBOSS span (R92). -/
def embossDetail (n : Nip) : Detail := if n.state = .closed then .outOfRegister else .notClosed

/-- The scanner-frame position of the web at the emboss entry (R26). -/
def embossEntry (s : State) : Pos := (s.web.w : Int) - s.geometry.dE

/-- The tracker judges while emboss is enabled for the order and the line is in RUN or STOPPED (R92). -/
def judgesEmboss (s : State) : Bool :=
  s.recipe.embossEnabled && (s.line.state == .run || s.line.state == .stopped)

/-- The emboss tracker's judgment: stood-in EMBOSS entries are released and the span is opened or closed at
w − D_E (R92, R98). -/
def judgeEmboss (s : State) : State :=
  if judgesEmboss s then
    let released := releaseKind .emboss (embossEntry s) s.map
    { s with
      map :=
        if embossFault s.emboss.nip then
          openSpan .emboss (embossEntry s) (embossDetail s.emboss.nip) released
        else closeSpan .emboss (embossEntry s) released }
  else s

/-- The judgment that a change of nip state brings (R92). -/
def judgeChange (before : NipState) (s : State) : State :=
  if s.emboss.nip.state = before then s else judgeEmboss s

/-- An entry of the emboss channel into ACQUIRE: the close run becomes 0 (R86) and a CLOSED nip is ordered open
(R89). -/
def embossAcquired (s : State) : State :=
  let s1 := modifyNip (fun n => { n with closeRun := 0 }) s
  if s1.emboss.nip.state = .closed then orderNipOpen .acquire s1 else s1

/-- A READY nip returns to OPEN when the channel is not LOCKED (R87). -/
def withdrawPermit (s : State) : State :=
  if s.emboss.nip.state = .ready ∧ s.emboss.channel.state ≠ .locked then enterNip .opened s else s

/-- The close run counts the consecutive samples within the nip close window, up to 3 (R86). -/
def countClose (result : Option Int) (s : State) : State :=
  match result with
  | some e =>
    modifyNip (fun n => { n with
      closeRun := if mag e ≤ s.recipe.nipCloseWindow then bump 3 n.closeRun else 0 }) s
  | none => s

/-- A sample while the nip is CLOSED: the closed verdict, and the tolerance run whose second sample orders the
nip open (R89). -/
def closedSample (result : Option Int) (s : State) : State :=
  match result with
  | some e =>
    if mag e ≤ s.recipe.embossTolerance then
      modifyNip (fun n => { n with verdict := .within, toleranceRun := 0 }) s
    else
      let s1 := modifyNip
        (fun n => { n with verdict := .exceeded, toleranceRun := bump 2 n.toleranceRun }) s
      if s1.emboss.nip.toleranceRun = 2 then orderNipOpen .tolerance s1 else s1
  | none => s

/-- The nip acts at an emboss frame, by its state (R87, R89). -/
def nipFrame (result : Option Int) (s : State) : State :=
  let s1 := countClose result s
  match s1.emboss.nip.state with
  | .opened =>
    if s1.emboss.channel.state = .locked ∧ s1.emboss.nip.closeRun = 3 then enterNip .ready s1 else s1
  | .ready =>
    match result with
    | some e =>
      if s1.recipe.nipCloseWindow < mag e then enterNip .opened s1 else withdrawPermit s1
    | none => withdrawPermit s1
  | .closed => closedSample result s1
  | .opening | .parked => s1

/-! ### Emboss frames (R77 to R80) -/

/-- An accepted MKE capture becomes the held capture, unused (R77). -/
def holdMke (c : Pos) (s : State) : State :=
  { s with emboss := { s.emboss with held := some ⟨c, false⟩ } }

/-- The position of the held capture when it pairs with an IDX capture at `ci` (R78 step 2). -/
def pairedWith (r : Recipe) (ci : Pos) (held : Option HeldCapture) : Option Pos :=
  match held with
  | some h =>
    if h.used then none
    else if 0 ≤ ci - h.position ∧ ci - h.position < r.repeatLength then some h.position
    else none
  | none => none

/-- The error of a sample (R79). -/
def embossError (r : Recipe) (ci ce : Pos) : Int := reduceMod r.repeatLength (ci - ce - r.embossOffset)

/-- The emboss frame record and pairing state of a frame (R78 steps 1 and 2, R79). -/
def recordEmbossFrame (ci : Pos) (ce : Option Pos) (s : State) : State :=
  { s with emboss := { s.emboss with
      frameIndex := bump max32 s.emboss.frameIndex
      lastCi := some ci
      lastCe := ce
      frameError := ce.map (embossError s.recipe ci)
      held := if ce.isSome then s.emboss.held.map (fun h => { h with used := true }) else s.emboss.held
      unpaired := if ce.isSome then s.emboss.unpaired else bump max16 s.emboss.unpaired } }

/-- An accepted IDX capture makes an emboss frame while the channel is not OFF: pairing, the channel with its
timeout check, the nip, the span (R78). That a frame which changes the nip state brings one judgment, made at the span's
step, is the model's choice (assumption 63). -/
def embossFrame (ci : Pos) (s : State) : State :=
  if s.emboss.channel.state = .off then s
  else
    let ce := pairedWith s.recipe ci s.emboss.held
    let result := ce.map (embossError s.recipe ci)
    let s1 := recordEmbossFrame ci ce s
    let x := channelFrame (embossSettings s1) s1.emboss.frameIndex (ce.getD 0) result s1.emboss.channel
    let s2 := putEmboss x s1
    judgeEmboss (nipFrame result (if x.2.acquired then embossAcquired s2 else s2))

/-- IDX returns to SEEK: the emboss channel goes to ACQUIRE, with what that does to the nip (R81, R87, R89). -/
def idxReturned (s : State) : State :=
  let x := reacquire s.emboss.channel
  let s1 := putEmboss x s
  judgeChange s.emboss.nip.state (withdrawPermit (if x.2.acquired then embossAcquired s1 else s1))

/-- EMB_TIMEOUT: the timeout that an emboss frame brings (R85). An emboss frame makes the check itself, so the
command finds it due only in a state in which that check has not been made (assumption 6). -/
def embTimeout (s : State) : State :=
  let x := timeOut (embossSettings s) s.emboss.frameIndex (s.emboss.channel, .none)
  judgeChange s.emboss.nip.state (withdrawPermit (putEmboss x s))

/-- EMB_TIMEOUT (R85). -/
def execEmbTimeout (s : State) : Host.Outcome State Fault Refusal := .next (embTimeout s)

/-! ### The requests of port E -/

/-- The emboss trim record, when a trim is outstanding: the 6-byte print form with 8 in the unit byte
(R83). -/
def embossTrimRecord (s : State) : List Byte :=
  match s.emboss.channel.outstanding with
  | some t => trimBytes 8 t s.emboss.channel.trim
  | none => []

/-- EMB_FETCH (R83). -/
def embFetchBody (p : Port) (s : State) : State :=
  if !(s.port p).toStation then answer .embFetch p .fifoDir s
  else
    sendRecords p Req.embFetch.role.code (embossTrimRecord s)
      [lowByte (bitOf s.emboss.channel.outstanding.isSome)] s

/-- EMB_FETCH (R83). -/
def execEmbFetch (p : Port) (args : List Byte) (s : State) : Host.Outcome State Fault Refusal :=
  .next (takeRequest .embFetch p args (embFetchBody p) s)

/-- EMB_APPLIED(sequence) (R84). -/
def embAppliedBody (p : Port) (args : List Byte) (s : State) : State :=
  if s.emboss.channel.awaits (argByte args 0) && s.emboss.channel.state != .off then
    answerOk .embApplied p
      (putEmboss (s.emboss.channel.acknowledge s.web.w s.geometry.settleEmboss, .none) s)
  else answer .embApplied p .notFound s

/-- EMB_APPLIED (R84). -/
def execEmbApplied (p : Port) (args : List Byte) (s : State) : Host.Outcome State Fault Refusal :=
  .next (takeRequest .embApplied p args (embAppliedBody p args) s)

/-- A reported closing is taken (R88). -/
def closeNip (cause : CloseCause) (s : State) : State :=
  judgeChange s.emboss.nip.state
    (enterNip .closed
      (modifyNip (fun n => { n with
        verdict := .nothing, toleranceRun := 0, orderReason := none, openCause := none
        closeCause := some cause }) s))

/-- NIP_CLOSED (R88). -/
def nipClosedBody (p : Port) (s : State) : State :=
  match s.emboss.nip.state with
  | .ready => answerOk .nipClosed p (closeNip .permitted s)
  | .opened => answerOk .nipClosed p (closeNip .unpermitted s)
  | .closed => answerOk .nipClosed p s
  | .opening | .parked => answer .nipClosed p .state s

/-- NIP_CLOSED (R88). -/
def execNipClosed (p : Port) (args : List Byte) (s : State) : Host.Outcome State Fault Refusal :=
  .next (takeRequest .nipClosed p args (nipClosedBody p) s)

/-- A reported opening is taken (R91). -/
def openNip (s : State) : State :=
  judgeChange s.emboss.nip.state
    (enterNip .opened
      (modifyNip (fun n => { n with
        verdict := .nothing, toleranceRun := 0
        openCause := some (if n.state = .opening then .ordered else .operator) }) s))

/-- NIP_OPENED (R91). -/
def nipOpenedBody (p : Port) (s : State) : State :=
  match s.emboss.nip.state with
  | .parked => answer .nipOpened p .state s
  | .opened | .ready | .closed | .opening => answerOk .nipOpened p (openNip s)

/-- NIP_OPENED (R91). -/
def execNipOpened (p : Port) (args : List Byte) (s : State) : Host.Outcome State Fault Refusal :=
  .next (takeRequest .nipOpened p args (nipOpenedBody p) s)

end Sys2Proof.Machine
end

