-- ==== Sys2Proof/Machine/Run.lean ====
section
/-!
DEFINITION. The run state of an order: its initialisation at an open (R5), the position watches that the
open reaches (R192), and the end of the order (R16 step 5).
-/

namespace Sys2Proof.Machine

/-- A port's watch that lies at or below w is reached: WATCH is raised on that port alone and the watch
becomes absent (R192). -/
def reachWatch (p : Port) (s : State) : State :=
  match (s.port p).watch with
  | some x =>
    if x ≤ s.web.w then (s.modifyPort p (fun y => { y with watch := none })).raise p .watch else s
  | none => s

/-- Every port's watch that lies at or below w is reached. -/
def reachWatches (s : State) : State := allPorts.foldl (fun s p => reachWatch p s) s

/-- The web counter at an open: w at D_K, debt, flags and fault count clear (R5, R20, R25). -/
def WebCounter.opened (x : WebCounter) (dK : Nat) : WebCounter :=
  { x with w := dK, debt := 0, reverseLimit := false, lengthLimit := false, faults := 0 }

/-- The roll former at an open, its sale roll number counter at the highest journalled roll number (R5). -/
def RollFormer.opened (x : RollFormer) (highest : Nat) : RollFormer :=
  { RollFormer.initial with
    records := x.records.map (fun r => .freed r.revision), saleCounter := highest }

/-- The run state of an order, initialised before the line enters SETUP (R5). The working batch table is the
caller's (R3, R4). -/
def initRun (batches : List Batch) (highest : Nat) (s : State) : State :=
  let s1 := if s.emboss.nip.state = .parked then s else s.raise .emboss .nip
  reachWatches
    { s1 with
      line := { s1.line with breakFlag := false, stagedTune := none, holds := ⟨false, false, false⟩ }
      web := s1.web.opened s1.geometry.dK
      clock := .idleAt s1.geometry.dK
      capture := .initial
      register := .initial
      emboss := .initial
      map := .initial
      roll := s1.roll.opened highest
      shade := { ShadeClassifier.initial with batches := batches }
      label := .initial }

/-- The order ends: the line enters NO_ORDER and the order number, run number and slot become absent
(R16 step 5). -/
def enterNoOrder (s : State) : State :=
  enterLineState .noOrder
    { s with line := { s.line with order := none, run := none, slot := none, closing := .notClosing } }

end Sys2Proof.Machine
end

