-- ==== Sys2Proof/Machine/Store.lean ====
section
/-!
DEFINITION. The order store's engine (10): the slot directory, the store queue and its head, the gating of
writes by STORE_EN and by DEGRADED slots, and the ends of the operations.
-/

namespace Sys2Proof.Machine

/-! ### The slot directory -/

/-- The directory entry of a slot. -/
def State.dir (s : State) (n : Fin 4) : DirectoryEntry := s.store.directory.get n

/-- The part with a directory entry changed. -/
def modifyDir (n : Fin 4) (f : DirectoryEntry → DirectoryEntry) (s : State) : State :=
  { s with store := { s.store with directory := s.store.directory.modify n f } }

/-- The part with the non-volatile content of a slot changed. -/
def modifySlot (n : Fin 4) (f : SlotContent → SlotContent) (s : State) : State :=
  { s with nv := { s.nv with slots := s.nv.slots.modify n f } }

/-- The slot of the open order when it is writable: not DEGRADED (08, 10). In OPENING the working batch table is
still that of the order before, which this slot never takes (R149), so none is writable until the read ends
(assumption 38). -/
def writableSlot (s : State) : Option (Fin 4) :=
  match s.line.slot with
  | some n => if (s.dir n).state = .degraded ∨ s.line.state = .opening then none else some n
  | none => none

/-- The slot of the open order when the journal path is open: journalling on, the slot writable and not
FULL (09, "From LABELLED to the journal"). -/
def journalSlot (s : State) : Option (Fin 4) :=
  match writableSlot s with
  | some n => if s.line.journalling && !(s.dir n).full then some n else none
  | none => none

/-- The WAITING labelled record with the lowest roll number (R161). -/
def lowestWaiting (s : State) : Option (Fin 24) :=
  leastBy (fun i => (s.record i).saleNumber.getD 0)
    (s.roll.records.which (fun r => r.state == .labelled && r.journal == some .waiting))

/-- A roll is released without a summary: its record is freed and the unjournalled count adds 1. -/
def releaseUnjournalled (i : Fin 24) (s : State) : State :=
  let s1 := freeRecord i s
  { s1 with label := { s1.label with unjournalled := bump max16 s1.label.unjournalled } }

/-- Every WAITING record is freed, in increasing roll-number order (R161). -/
def releaseWaiting : (fuel : Nat) → State → State
  | 0, s => s
  | fuel + 1, s =>
    match lowestWaiting s with
    | some i => releaseWaiting fuel (releaseUnjournalled i s)
    | none => s

/-- When the journal path has closed, the WAITING records are freed at once (R161). -/
def settleJournalPath (s : State) : State :=
  if journalSlot s = none then releaseWaiting 24 s else s

/-- A slot becomes DEGRADED: STORE is raised on every port, and the journal path closes if the slot is the
open order's (R170, R161). -/
def degradeSlot (n : Fin 4) (s : State) : State :=
  settleJournalPath ((modifyDir n (fun d => { d with state := .degraded }) s).raiseAll .store)

/-- The last failure of the store status (R181). -/
def recordFailure (op : StoreOp) (target : Option (Fin 4)) (kind : FailureKind) (s : State) : State :=
  { s with store := { s.store with lastFailure := some ⟨op, target, kind⟩ } }

/-! ### Batches of the working table -/

/-- The batch with number `n`. -/
def State.batch (s : State) (n : Nat) : Option Batch := s.shade.batches.find? (fun b => b.number == n)

/-- A change to the batch with number `n`. -/
def modifyBatch (n : Nat) (f : Batch → Batch) (s : State) : State :=
  { s with shade := { s.shade with
      batches := s.shade.batches.map (fun b => if b.number = n then f b else b) } }

/-- The lowest-numbered UNSAVED batch (R151). -/
def lowestUnsaved (s : State) : Option Batch :=
  leastBy Batch.number (s.shade.batches.filter (fun b => b.save == .unsaved))

/-! ### The store queue (R167) -/

/-- The slot an operation targets; none for the geometry record. -/
def StoreOp.slot? : StoreOp → Option (Fin 4)
  | .geometryRead | .geometryWrite _ => none
  | .slotRead n | .journalRead n _ _ | .headerWrite n _ | .recipeWrite n _ | .batchWrite n _
  | .journalAppend n _ | .slotErase n => some n

/-- Whether an operation is a read (R167, operation table). -/
def StoreOp.isRead : StoreOp → Bool
  | .geometryRead | .slotRead _ | .journalRead _ _ _ => true
  | _ => false

/-- The number of operations in the store queue, the one in progress included. -/
def State.storeCount (s : State) : Nat := s.store.queue.length

/-- The store queue holds 8 operations. -/
def State.storeFull (s : State) : Bool := decide (8 ≤ s.storeCount)

/-- An operation joins the newest end of the store queue. -/
def pushOp (op : StoreOp) (s : State) : State :=
  { s with store := { s.store with queue := s.store.queue ++ [op] } }

/-- The head's place is released. -/
def releaseHead (s : State) : State :=
  { s with store := { s.store with queue := s.store.queue.tail, head := .absent } }

/-- A BATCH_WRITE is queued and its batch becomes QUEUED (R149, R151). -/
def pushBatchWrite (n : Fin 4) (b : Batch) (s : State) : State :=
  modifyBatch b.number (fun b => { b with save := .queued }) (pushOp (.batchWrite n b.number) s)

/-- A JOURNAL_APPEND is queued and its record's journal state becomes QUEUED (R160, R161). -/
def pushAppend (n : Fin 4) (i : Fin 24) (s : State) : State :=
  modifyRecord i (fun r => { r with journal := some .queued }) (pushOp (.journalAppend n i) s)

/-- Free places are taken by UNSAVED batches in ascending number, then by WAITING rolls in roll-number
order (R151, R161, R167 step 3). -/
def takePlaces : (fuel : Nat) → State → State
  | 0, s => s
  | fuel + 1, s =>
    if s.storeFull then s
    else
      match writableSlot s, lowestUnsaved s with
      | some n, some b => takePlaces fuel (pushBatchWrite n b s)
      | _, none =>
        match journalSlot s, lowestWaiting s with
        | some n, some i => takePlaces fuel (pushAppend n i s)
        | _, _ => s
      | none, some _ => s

/-- The stored form of a directory state; a DEGRADED entry is never stored. -/
def SlotState.stored : SlotState → StoredState
  | .active => .active
  | .closed => .closed
  | .empty | .degraded => .empty

/-- The header a HEADER_WRITE writes: the directory entry as it stands (R172). -/
def DirectoryEntry.header (d : DirectoryEntry) : Header :=
  { state := d.state.stored, order := d.order, run := d.run, count := d.count, full := d.full }

/-- End minus start of a record, 0 while the end is absent. -/
def RollRecord.length (r : RollRecord) : Int :=
  match r.stop with
  | some e => e - r.start
  | none => 0

/-- The sum of the defect, register-off and emboss-off totals, holding at 4,294,967,295 (09, label
record). -/
def RollRecord.faultLength (r : RollRecord) : Nat :=
  min max32 (r.defectTotal + r.registerOff + r.embossOff)

/-- The summary of a roll as its record stands (R162). -/
def RollRecord.summary (r : RollRecord) : Summary :=
  { roll := r.saleNumber.getD 0, run := r.run, length := r.length.toNat
    grade := r.grade.getD .first, batch := r.batch, mean := r.result.bind ShadeResult.mean
    fault := r.faultLength, flags := r.flags, outcome := r.outcome.getD .applied }

/-- The head starts: what the operation takes from the part is taken now (R150, R162, R172). -/
def startHead (op : StoreOp) (s : State) : State :=
  let run (c : InFlight) (s : State) : State := { s with store := { s.store with head := .running c } }
  match op with
  | .headerWrite n _ => run (.header (s.dir n).header) s
  | .batchWrite _ k =>
    match s.batch k with
    | some b =>
      run (.batch { b with save := .saved })
        (modifyBatch k (fun b => if b.save = .queued then { b with save := .writing } else b) s)
    | none => run .nothing s
  | .journalAppend _ i =>
    run (.summary (s.record i).summary) (modifyRecord i (fun r => { r with journal := some .writing }) s)
  | .geometryRead | .slotRead _ | .journalRead _ _ _ | .recipeWrite _ _ | .geometryWrite _
  | .slotErase _ => run .nothing s

/-- An operation that waits for the end of CLOSING ends: the line enters NO_ORDER (R16 step 5). -/
def closeOrderAfter (written : StoredState) (s : State) : State :=
  if s.line.state = .closing ∧ s.line.closing = .header ∧ written = .closed then enterNoOrder s else s

/-- The effects of an operation that ends failed without starting, its slot being DEGRADED (R171). -/
def failUnstarted (op : StoreOp) (s : State) : State :=
  let s1 := recordFailure op op.slot? .degradedTarget s
  match op with
  | .batchWrite _ k => modifyBatch k (fun b => { b with save := .unsaved }) s1
  | .journalAppend _ i => releaseUnjournalled i s1
  | .headerWrite _ written => closeOrderAfter written s1
  | .slotErase n => modifyDir n (fun d => { d with erasePending := false }) s1
  | .geometryRead | .slotRead _ | .journalRead _ _ _ | .recipeWrite _ _ | .geometryWrite _ => s1

/-- The greatest journal count: a journal of 1,024 positions. -/
def journalSize : Nat := 1024

/-- Whether an operation is an append that fails its count check (R173 step 1). -/
def appendIsFull (op : StoreOp) (s : State) : Bool :=
  match op with
  | .journalAppend n _ => decide (journalSize ≤ (s.dir n).count)
  | _ => false

/-- The effects of an append refused for want of room: FULL is set, STORE raised, and the record freed
(R173 step 1). -/
def failFull (op : StoreOp) (s : State) : State :=
  match op with
  | .journalAppend n i =>
    settleJournalPath
      (releaseUnjournalled i
        ((modifyDir n (fun d => { d with full := true })
          (recordFailure op (some n) .full s)).raiseAll .store))
  | _ => s

/-- Whether the operation's target is a DEGRADED slot (R168). -/
def targetDegraded (op : StoreOp) (s : State) : Bool :=
  match op.slot? with
  | some n => (s.dir n).state == .degraded
  | none => false

/-- STORE_EN is sampled (R168). -/
def sampleEnable (s : State) : State := { s with store := { s.store with sampled := s.store.enabled } }

/-- The operation at the head of the store queue is dealt with: it starts, waits for STORE_EN, or ends
failed without starting, in which case its place is taken and the next head is dealt with (R167 steps 2 to
4, R168, R171, R173 step 1). -/
def dealHead : (fuel : Nat) → State → State
  | 0, s => s
  | fuel + 1, s =>
    match s.store.queue with
    | [] => { s with store := { s.store with head := .absent } }
    | op :: _ =>
      if op.isRead then startHead op (sampleEnable s)
      else if targetDegraded op s then
        dealHead fuel (takePlaces 24 (releaseHead (failUnstarted op s)))
      else if appendIsFull op s then
        dealHead fuel (takePlaces 24 (releaseHead (failFull op s)))
      else
        let s1 := sampleEnable s
        if s.store.enabled then startHead op s1
        else { s1 with store := { s1.store with head := .waiting } }.raiseAll .store

/-- The number of heads that one event can deal with: the 8 places, the batches and rolls that take freed
places, and the header write that ends CLOSING, with room to spare. -/
def headFuel : Nat := 64

/-- An operation is queued at the newest end; one queued into an empty queue becomes the head at once
(R167). -/
def enqueue (op : StoreOp) (s : State) : State :=
  if s.store.queue.isEmpty then dealHead headFuel (pushOp op s) else pushOp op s

/-- The directory entry takes the new header content when a HEADER_WRITE is queued, unless the slot is
DEGRADED (R172). -/
def headerContent (n : Fin 4) (f : DirectoryEntry → DirectoryEntry) (s : State) : State :=
  if (s.dir n).state = .degraded then s else modifyDir n f s

/-- Every roll record is FREE. -/
def allFree (s : State) : Bool := s.roll.records.rows.all (fun r => r.state == .free)

/-- CLOSING goes on when every roll record is FREE and the store queue is empty: the CLOSED header is
queued for an order with a slot, and an unstored order ends at once (R16 steps 3 and 4). -/
def advanceClosing (s : State) : State :=
  if s.line.state = .closing ∧ s.line.closing = .drain ∧ allFree s ∧ s.store.queue.isEmpty then
    match s.line.slot with
    | some n =>
      enqueue (.headerWrite n .closed)
        (headerContent n (fun d => { d with state := .closed })
          { s with line := { s.line with closing := .header } })
    | none => enterNoOrder s
  else s

/-- The head ends, its effects `effects` made: its place is released, a HEADER_WRITE that a SLOT_READ calls
for (`next`) and the waiting batches and rolls take places, and the new head is dealt with (R167). CLOSING
then goes on if it can. -/
def endHead (effects next : State → State) (s : State) : State :=
  advanceClosing (dealHead headFuel (takePlaces 24 (next (releaseHead (effects s)))))

/-! ### Non-volatile content -/

/-- What a failed write left: a free value, except that it is not the written content, or the write would
have read back equal (R170; assumption 9). -/
def failedCell {α : Type} [DecidableEq α] (intended : α) (left : StoreCell α) : StoreCell α :=
  if left = .written intended then .broken else left

/-- The next free value of the store's medium is used up. -/
def useFresh (s : State) : State := { s with fresh := s.fresh + 1 }

/-- The number of consecutive positions from `start` that hold verifying records. -/
def verifiedFrom {α : Type} : (start : Nat) → Cells α → Nat
  | start, (k, .written _) :: rest => if k = start then verifiedFrom (start + 1) rest + 1 else 0
  | _, _ => 0

/-- The positions that are not blank hold batches numbered from `start` on, each verifying and at its own
position, without a gap (R174). -/
def batchesInOrder : (start : Nat) → Cells Batch → Bool
  | _, [] => true
  | start, (k, .written b) :: rest => k == start && b.number == start && batchesInOrder (start + 1) rest
  | _, _ => false

/-- The contents of the written records of a bank, in position order. -/
def contents {α : Type} : Cells α → List α
  | [] => []
  | (_, .written a) :: rest => a :: contents rest
  | (_, _) :: rest => contents rest

/-- The contents of a slot when a SLOT_READ of it verifies: recipe, batches, highest journalled roll number
and stored run number (R174). -/
structure SlotImage where
  recipe : Recipe
  batches : List Batch
  highest : Nat
  run : Nat
  deriving DecidableEq, Repr

/-- A SLOT_READ of a slot whose directory counts `count` journal positions (R174). -/
def readSlot (count : Nat) (c : SlotContent) : Option SlotImage :=
  match c.header, c.recipe with
  | .written h, .written r =>
    if batchesInOrder 1 c.batches && decide (max count h.count ≤ verifiedFrom 0 c.journal) then
      some
        { recipe := r
          batches := (contents c.batches).map (fun b => { b with save := .saved })
          highest := ((contents c.journal).take (max count h.count)).foldl (fun m x => max m x.roll) 0
          run := h.run }
    else none
  | _, _ => none

/-- What a start-up read finds in a slot header (R166). -/
def directoryOf (fault : Bool) (c : SlotContent) : DirectoryEntry × Bool :=
  let count := writtenFrom 0 c.journal
  let empty : DirectoryEntry :=
    { state := .empty, order := none, run := 0, count := count, full := false, erasePending := false }
  match fault, c.header with
  | false, .blank => (empty, true)
  | false, .written h =>
    ({ state := match h.state with
        | .empty => .empty
        | .active => .active
        | .closed => .closed
       order := h.order, run := h.run, count := count, full := h.full, erasePending := false }, true)
  | _, _ => ({ empty with state := .degraded }, false)

/-- The start-up read of one slot header sets its directory entry; a header that fails to verify raises
STORE (R166). Erase pending becomes no, although an erase may have been queued behind the read (assumption 49). The
failure it leaves names the slot as its target (assumption 50). -/
def readHeader (fault : Bool) (n : Fin 4) (s : State) : State :=
  let found := directoryOf fault (s.nv.slots.get n)
  let s1 := modifyDir n (fun _ => found.1) s
  if found.2 then s1 else (recordFailure .geometryRead (some n) .verify s1).raiseAll .store

/-- The start-up read of the geometry record loads it when it verifies and keeps the distance order; one
that fails to verify raises STORE (R18, R166). -/
def readGeometry (fault : Bool) (s : State) : State :=
  match fault, s.nv.geometry with
  | false, .written g =>
    if g.ordered then { s with geometry := g, line := { s.line with geometryValid := true } }
    else { s with line := { s.line with geometryValid := false } }
  | false, .blank => { s with line := { s.line with geometryValid := false } }
  | _, _ =>
    (recordFailure .geometryRead none .verify
      { s with line := { s.line with geometryValid := false } }).raiseAll .store

/-- The effects of the end of GEOMETRY_READ (R166): the geometry record first and then the headers in slot order, so
that of several failures the highest-numbered slot's stands as the last one (assumption 50). -/
def geometryReadEffects (faults : BitVec 5) (s : State) : State :=
  readHeader (faults.getLsbD 4) 3
    (readHeader (faults.getLsbD 3) 2
      (readHeader (faults.getLsbD 2) 1
        (readHeader (faults.getLsbD 1) 0 (readGeometry (faults.getLsbD 0) s))))

/-- The port whose ORDER_OPEN waits on OPENING (R4). -/
def openingPort (s : State) : Option Port :=
  allPorts.find? (fun p => ((s.port p).request.map Executing.waiting) == some .opening)

/-- ORDER_OPEN is answered on the port that waits for it (R4). -/
def answerOpening (status : Status) (s : State) : State :=
  match openingPort s with
  | some p => respond p Req.orderOpen.role.code status [] s
  | none => s

/-- The resumed order enters SETUP with a recipe, a batch table, the highest journalled roll number and a
run number one above the header's, and ORDER_OPEN is answered (R4). -/
def resumeOrder (recipe : Recipe) (batches : List Batch) (highest headerRun : Nat) (status : Status)
    (s : State) : State :=
  let s1 := { s with
    recipe := recipe
    line := { s.line with run := some (bump 255 headerRun), journalling := true } }
  answerOpening status (enterLineState .setup (initRun batches highest s1))

/-- The effects of the end of a SLOT_READ; `verified` says that the medium gave every record as stored
(R4, R174). -/
def slotReadEffects (n : Fin 4) (verified : Bool) (s : State) : State :=
  match verified, readSlot (s.dir n).count (s.nv.slots.get n) with
  | true, some image =>
    resumeOrder image.recipe image.batches image.highest image.run
      (if (s.dir n).state = .degraded then .okDegraded else .ok) s
  | _, _ =>
    resumeOrder .default [] 0 (s.dir n).run .okDegraded
      (degradeSlot n (recordFailure (.slotRead n) (some n) .verify s))

/-- The HEADER_WRITE that an ended SLOT_READ calls for, in the place the read released (R4, R172). -/
def resumeHeader (n : Fin 4) (s : State) : State :=
  pushOp (.headerWrite n .active)
    (headerContent n (fun d => { d with state := .active, run := s.line.run.getD 0 }) s)

/-- The effects of a write to a slot that ended failed: what it left is a free value, the slot becomes
DEGRADED and STORE is raised (R170). -/
def failWrite (op : StoreOp) (n : Fin 4) (kind : FailureKind) (s : State) : State :=
  degradeSlot n (recordFailure op (some n) kind (useFresh s))

/-- The effects of the end of a HEADER_WRITE (R170, R172, R16). -/
def headerWriteEffects (n : Fin 4) (written : StoredState) (h : Header) (verified : Bool) (s : State) :
    State :=
  closeOrderAfter written
    (if verified then modifySlot n (fun c => { c with header := .written h }) s
    else
      failWrite (.headerWrite n written) n .verify
        (modifySlot n (fun c => { c with header := failedCell h (Config.failedHeader s.fresh) }) s))

/-- The effects of the end of a RECIPE_WRITE (R170, R172). -/
def recipeWriteEffects (n : Fin 4) (r : Recipe) (verified : Bool) (s : State) : State :=
  if verified then modifySlot n (fun c => { c with recipe := .written r }) s
  else
    failWrite (.recipeWrite n r) n .verify
      (modifySlot n (fun c => { c with recipe := failedCell r (Config.failedRecipe s.fresh) }) s)

/-- The effects of the end of a BATCH_WRITE (R150, R170). -/
def batchWriteEffects (n : Fin 4) (b : Batch) (verified : Bool) (s : State) : State :=
  if verified then
    modifyBatch b.number (fun x => if x.save = .writing then { x with save := .saved } else x)
      (modifySlot n (fun c => { c with batches := setCell c.batches b.number (.written b) }) s)
  else
    modifyBatch b.number (fun x => { x with save := .unsaved })
      (failWrite (.batchWrite n b.number) n .verify
        (modifySlot n
          (fun c => { c with
            batches := setCell c.batches b.number (failedCell b (Config.failedBatch s.fresh)) }) s))

/-- A roll's append ends completed: its summary is in the journal, the count adds 1 and its record is freed
(R162, R173). -/
def appendDone (n : Fin 4) (i : Fin 24) (x : Summary) (s : State) : State :=
  freeRecord i
    (modifyDir n (fun d => { d with count := bump journalSize d.count })
      (modifySlot n (fun c => { c with journal := setCell c.journal (s.dir n).count (.written x) }) s))

/-- The effects of the end of a JOURNAL_APPEND: the blank check, then the write and its verify (R162,
R173 steps 2 and 3). -/
def journalAppendEffects (n : Fin 4) (i : Fin 24) (x : Summary) (verified : Bool) (s : State) : State :=
  if cellAt (s.nv.slots.get n).journal (s.dir n).count ≠ .blank then
    releaseUnjournalled i
      (degradeSlot n (recordFailure (.journalAppend n i) (some n) .blank s))
  else if verified then appendDone n i x s
  else
    releaseUnjournalled i
      (failWrite (.journalAppend n i) n .verify
        (modifySlot n
          (fun c => { c with
            journal := setCell c.journal (s.dir n).count (failedCell x (Config.failedSummary s.fresh)) })
          s))

/-- The effects of the end of a GEOMETRY_WRITE: one whose verify fails clears geometry validity and raises
STORE (R18, R170). -/
def geometryWriteEffects (g : Geometry) (verified : Bool) (s : State) : State :=
  if verified then { s with nv := { s.nv with geometry := .written g } }
  else
    (recordFailure (.geometryWrite g) none .verify
      (useFresh { s with
        nv := { s.nv with geometry := failedCell g (Config.failedGeometry s.fresh) }
        line := { s.line with geometryValid := false } })).raiseAll .store

/-- A slot's content after an erase that a cold reset interrupted: the records it reached are blank and the rest, the
header among them, are as they were (R169). -/
def partlyErased (event : Nat) (c : SlotContent) : SlotContent :=
  { header := c.header
    recipe := if Config.eraseReached event 0 then .blank else c.recipe
    batches := c.batches.filter (fun x => !Config.eraseReached event x.1)
    journal := c.journal.filter (fun x => !Config.eraseReached event (x.1 + 17)) }

/-- A slot's content after an erase that ended failed: the records it made blank are so and the rest are as they were
(R179). R179 does not say that it stops ahead of the header, so whether that is among the blank ones is free too
(assumption 9). -/
def failedErase (event : Nat) (c : SlotContent) : SlotContent :=
  { partlyErased event c with header := if Config.eraseTookHeader event then .blank else c.header }

/-- An erased slot (R165, R179). -/
def SlotContent.erased : SlotContent :=
  { header := .blank, recipe := .blank, batches := [], journal := [] }

/-- The effects of the end of a SLOT_ERASE (R179). -/
def slotEraseEffects (n : Fin 4) (verified : Bool) (s : State) : State :=
  if verified then
    modifyDir n (fun _ => .cleared) (modifySlot n (fun _ => .erased) s)
  else
    modifyDir n (fun d => { d with erasePending := false })
      (failWrite (.slotErase n) n .blank (modifySlot n (failedErase s.fresh) s))

/-- What a cold reset leaves of a store operation in progress (R169): a write leaves every record it was
changing failing to verify, and an erase leaves what it had reached blank. -/
def interruptStore (s : State) : State :=
  match s.store.head, s.store.queue with
  | .running _, .headerWrite n _ :: _ => modifySlot n (fun c => { c with header := .broken }) s
  | .running _, .recipeWrite n _ :: _ => modifySlot n (fun c => { c with recipe := .broken }) s
  | .running _, .batchWrite n k :: _ =>
    modifySlot n (fun c => { c with batches := setCell c.batches k .broken }) s
  | .running _, .journalAppend n _ :: _ =>
    if cellAt (s.nv.slots.get n).journal (s.dir n).count = .blank then
      modifySlot n (fun c => { c with journal := setCell c.journal (s.dir n).count .broken }) s
    else s
  | .running _, .geometryWrite _ :: _ => { s with nv := { s.nv with geometry := .broken } }
  | .running _, .slotErase n :: _ => useFresh (modifySlot n (partlyErased s.fresh) s)
  | _, _ => s

/-! ### Reading the journal (R175) -/

/-- The code of a reject cause in label records and summaries (R157). -/
def RejectCause.code : RejectCause → Byte
  | .splice => 1 | .brk => 2 | .cutFail => 3 | .short => 4 | .qcHold => 5 | .core => 6 | .defect => 7
  | .shaded => 8 | .unclassed => 9

/-- The two bytes of a grade and its reject cause (R157). -/
def Grade.codes : Grade → List Byte
  | .first => [0, 0]
  | .reject c => [1, c.code]

/-- The code of a label outcome in summaries and roll record images (R175). -/
def LabelOutcome.code : LabelOutcome → Byte
  | .applied => 1
  | .skipped => 2

/-- The 26-byte summary layout (R175). -/
def Summary.bytes (x : Summary) : List Byte :=
  let m := x.mean.getD ⟨0, 0, 0⟩
  bytesOfNat 4 x.roll ++ bytesOfNat 4 x.length ++ bytesOfNat 4 x.fault
    ++ bytesOfInt 2 m.l ++ bytesOfInt 2 m.a ++ bytesOfInt 2 m.b
    ++ [lowByte x.run] ++ x.grade.codes ++ [lowByte (x.batch.getD 0), x.flags]
    ++ [x.outcome.code, if x.mean.isSome then 1#8 else 0#8, 0#8]

/-- A JOURNAL_READ is answered on the port that waits for it (R175). When the FIFO has been turned to
TO_PART meanwhile, the answer is FIFO_DIR (assumption 14). After a port reset the request runs to its end all the
same, its summary written if the FIFO is TO_STATION again, and its answer is discarded (R194). -/
def answerJournal (p : Port) (bytes : List Byte) (s : State) : State :=
  match (s.port p).request with
  | some ⟨code, .journal, discard⟩ =>
    if bytes.isEmpty then respond p code .ok [0] s
    else if !(s.port p).toStation then respond p code .fifoDir [] s
    else
      s.modifyPort p (fun x => { x with request := some ⟨code, .words bytes [1], discard⟩ })
  | _ => s

/-- The effects of the end of a JOURNAL_READ (R175). -/
def journalReadEffects (n : Fin 4) (position : Nat) (p : Port) (verified : Bool) (s : State) : State :=
  match verified, cellAt (s.nv.slots.get n).journal position with
  | true, .written x => answerJournal p x.bytes s
  | true, .blank => answerJournal p [] s
  | _, _ =>
    answerJournal p []
      (degradeSlot n (recordFailure (.journalRead n position p) (some n) .verify s))

end Sys2Proof.Machine
end

