-- ==== Sys2Proof/Machine/Label.lean ====
section
/-!
DEFINITION. Labelling (09): the label queue, the label record, the label requests of port Q, and a labelled
roll's path to the journal.
-/

namespace Sys2Proof.Machine

/-! ### The queue (R153 to R155) -/

/-- The label queue holds at most 8 rolls (R153). -/
def labelLimit : Nat := 8

/-- The head of the label queue. -/
def labelHead (s : State) : Option LabelEntry := s.label.entries.head?

/-- A GRADED record enters the queue at the newest place and becomes LABEL_PENDING; one that becomes the head
raises LABEL on port Q (R154, R155). -/
def pushLabel (i : Fin 24) (s : State) : State :=
  let entry : LabelEntry := ⟨i, (s.record i).saleNumber.getD 0⟩
  let s1 := modifyRecord i (fun r => { r with state := .labelPending }) s
  let s2 := { s1 with label := { s1.label with entries := s1.label.entries ++ [entry] } }
  if s.label.entries.isEmpty then s2.raise .quality .label else s2

/-- Another record than `i` is GRADED (R154). -/
def otherGraded (i : Fin 24) (s : State) : Bool :=
  (allRows 24).any (fun j => decide (j ≠ i) && (s.record j).state == .graded)

/-- A record that has entered GRADED enters the label queue or waits, and LABELS is re-evaluated (R154,
R19). -/
def joinLabel (i : Fin 24) (s : State) : State :=
  evalHolds
    (if s.label.entries.length < labelLimit ∧ ¬ otherGraded i s then pushLabel i s else s)

/-- The GRADED record that waits with the lowest roll number (R155 step 2). -/
def oldestGraded (s : State) : Option (Fin 24) :=
  leastBy (fun i => (s.record i).saleNumber.getD 0)
    (s.roll.records.which (fun r => r.state == .graded))

/-- The head is removed; the oldest waiting roll enters, and LABEL is raised when the queue has a head
(R155). -/
def removeHead (s : State) : State :=
  let s1 := { s with label := { s.label with entries := s.label.entries.tail } }
  let s2 := match oldestGraded s1 with
    | some i => pushLabel i s1
    | none => s1
  evalHolds (if s2.label.entries.isEmpty then s2 else s2.raise .quality .label)

/-! ### The journal path (R160) -/

/-- Whether a LABELLED record may take a store place now (R160). -/
def mayAppend (i : Fin 24) (s : State) : Bool :=
  !s.storeFull && (lowestUnsaved s).isNone
    && !(allRows 24).any (fun j =>
      decide (j ≠ i) && (s.record j).state == .labelled && (s.record j).journal == some .waiting)

/-- A record that enters LABELLED is freed, queued for its append, or left WAITING (R160). -/
def takeJournalPath (i : Fin 24) (s : State) : State :=
  match journalSlot s with
  | none => releaseUnjournalled i s
  | some n =>
    if mayAppend i s then
      enqueue (.journalAppend n i) (modifyRecord i (fun r => { r with journal := some .queued }) s)
    else modifyRecord i (fun r => { r with journal := some .waiting }) s

/-- A change made by a label report, which adds 1 to the revision count in any case (R158, R159). -/
def reportRecord (i : Fin 24) (f : RollRecord → RollRecord) (s : State) : State :=
  { s with
    roll := { s.roll with
      records := s.roll.records.set i
        { f (s.record i) with revision := bump max32 (s.record i).revision } } }

/-- The head leaves the queue with an outcome: the record enters LABELLED and takes its path to the journal,
and CLOSING goes on if it can (R155, R158, R159, R160, R16). -/
def finishLabel (i : Fin 24) (f : RollRecord → RollRecord) (s : State) : State :=
  advanceClosing
    (takeJournalPath i (removeHead (reportRecord i (fun r => { f r with state := .labelled }) s)))

/-! ### The requests of port Q -/

/-- The 24-byte label record of a roll record (R157). -/
def labelBytes (order : Nat) (i : Fin 24) (r : RollRecord) : List Byte :=
  bytesOfNat 4 order ++ bytesOfNat 4 (r.saleNumber.getD 0) ++ bytesOfInt 4 r.length
    ++ bytesOfNat 4 r.faultLength ++ [lowByte r.run, lowByte i.val]
    ++ (r.grade.getD .first).codes ++ [lowByte (r.batch.getD 0)]
    ++ [lowByte (bitsOf [r.lowConfidence, r.unmatched, r.unconfirmedCut]), lowByte r.attempts, 0#8]

/-- LABEL_FETCH (R157). The result bytes give the roll number in four bytes, low byte first (assumption 48). -/
def labelFetchBody (p : Port) (s : State) : State :=
  if !(s.port p).toStation then answer .labelFetch p .fifoDir s
  else
    match labelHead s with
    | none => answer .labelFetch p .notFound s
    | some e =>
      sendRecords p Req.labelFetch.role.code
        (labelBytes (s.line.order.getD 0) e.record (s.record e.record)) (bytesOfNat 4 e.roll) s

/-- LABEL_FETCH (R157). -/
def execLabelFetch (p : Port) (args : List Byte) (s : State) : Host.Outcome State Fault Refusal :=
  .next (takeRequest .labelFetch p args (labelFetchBody p) s)

/-- One more label attempt, holding at 255 (R158). -/
def RollRecord.attempted (r : RollRecord) : RollRecord := { r with attempts := bump 255 r.attempts }

/-- LABEL_DONE(roll number, outcome) (R158). -/
def labelDoneBody (p : Port) (args : List Byte) (s : State) : State :=
  if 1 < argNat args 4 1 then answer .labelDone p .range s
  else
    match labelHead s with
    | none => answer .labelDone p .notFound s
    | some e =>
      if e.roll ≠ argNat args 0 4 then answer .labelDone p .notHead s
      else if argNat args 4 1 = 0 then
        answerOk .labelDone p
          (finishLabel e.record (fun r => { r.attempted with outcome := some .applied }) s)
      else answerOk .labelDone p (reportRecord e.record RollRecord.attempted s)

/-- LABEL_DONE (R158). -/
def execLabelDone (p : Port) (args : List Byte) (s : State) : Host.Outcome State Fault Refusal :=
  .next (takeRequest .labelDone p args (labelDoneBody p args) s)

/-- LABEL_SKIP(roll number) (R159). -/
def labelSkipBody (p : Port) (args : List Byte) (s : State) : State :=
  match labelHead s with
  | none => answer .labelSkip p .notFound s
  | some e =>
    if e.roll ≠ argNat args 0 4 then answer .labelSkip p .notHead s
    else
      answerOk .labelSkip p (finishLabel e.record (fun r => { r with outcome := some .skipped }) s)

/-- LABEL_SKIP (R159). -/
def execLabelSkip (p : Port) (args : List Byte) (s : State) : Host.Outcome State Fault Refusal :=
  .next (takeRequest .labelSkip p args (labelSkipBody p args) s)

end Sys2Proof.Machine
end

