-- ==== Sys2Proof/Machine/Shade.lean ====
section
/-!
DEFINITION. Shade batches (08): the sample queue and its draining into rolls, the shade accumulator, the
classification of a roll against the batch table, the saving of batches, and the requests that act on them.
-/

namespace Sys2Proof.Machine

/-! ### Shade samples (R135, R136) -/

/-- The sample queue holds at most 128 samples (R136). -/
def sampleLimit : Nat := 128

/-- Samples that reach no roll are counted, holding at 4,294,967,295 (R136, R137, R139). -/
def wasteSamples (n : Nat) (s : State) : State :=
  { s with shade := { s.shade with wasteSamples := addHeld max32 s.shade.wasteSamples n } }

/-- The sample queue is emptied: each sample counts as waste and the thin mark is cleared (R136). -/
def emptySamples (s : State) : State :=
  let s1 := wasteSamples s.shade.queue.length s
  { s1 with shade := { s1.shade with queue := [], thin := false } }

/-- A shade brought into the coordinate ranges, and the sum of the codes of the coordinates so replaced
(R135). -/
def clampShade (x : Shade) : Shade × Nat :=
  let y : Shade :=
    { l := clampInt 0 10000 x.l, a := clampInt (-12800) 12700 x.a, b := clampInt (-12800) 12700 x.b }
  (y, bitsOf [decide (y.l ≠ x.l), decide (y.a ≠ x.a), decide (y.b ≠ x.b)])

/-- The shade that the arguments of SHADE_SAMPLE spell (R135). -/
def shadeOfArgs (args : List Byte) : Shade :=
  { l := (argNat args 0 2 : Int), a := argInt args 2 2, b := argInt args 4 2 }

/-- SHADE_SAMPLE(L, a, b) (R135, R136). -/
def shadeSampleBody (p : Port) (args : List Byte) (s : State) : State :=
  let x := clampShade (shadeOfArgs args)
  if sampleLimit ≤ s.shade.queue.length then
    respond p Req.shadeSample.role.code .full [lowByte x.2, lowByte sampleLimit]
      { s with shade := { s.shade with thin := true } }
  else
    let queue := s.shade.queue ++ [⟨(s.web.w : Int) - s.geometry.dQ, x.1⟩]
    respond p Req.shadeSample.role.code .ok [lowByte x.2, lowByte queue.length]
      { s with shade := { s.shade with queue := queue } }

/-- SHADE_SAMPLE (R135). -/
def execShadeSample (p : Port) (args : List Byte) (s : State) : Host.Outcome State Fault Refusal :=
  .next (takeRequest .shadeSample p args (shadeSampleBody p args) s)

/-! ### The shade accumulator (R139, R140) -/

/-- The coordinatewise sum of two shades. -/
def Shade.add (x y : Shade) : Shade := ⟨x.l + y.l, x.a + y.a, x.b + y.b⟩

/-- The coordinatewise smaller of two shades. -/
def Shade.least (x y : Shade) : Shade := ⟨min x.l y.l, min x.a y.a, min x.b y.b⟩

/-- The coordinatewise larger of two shades. -/
def Shade.greatest (x y : Shade) : Shade := ⟨max x.l y.l, max x.a y.a, max x.b y.b⟩

/-- The range that covers two ranges, either of which may be absent (R139, R140). -/
def joinRange : Option ShadeRange → Option ShadeRange → Option ShadeRange
  | some x, some y => some ⟨x.least.least y.least, x.greatest.greatest y.greatest⟩
  | some x, none => some x
  | none, y => y

/-- A sample accumulated into an accumulator (R139). -/
def Accumulator.take (a : Accumulator) (x : Shade) : Accumulator :=
  { n := a.n + 1, sum := a.sum.add x, range := joinRange a.range (some ⟨x, x⟩) }

/-- The accumulator of a merged record, and the number of samples of the plan's record that are not combined
(R140). -/
def Accumulator.combine (old plan : Accumulator) : Accumulator × Nat :=
  if max16 < old.n + plan.n then (old, plan.n)
  else ({ n := old.n + plan.n, sum := old.sum.add plan.sum, range := joinRange old.range plan.range }, 0)

/-- One drained sample of a segment that starts at `start`: it reaches a SALE record that has room for it, and
is waste otherwise (R137, R139). -/
def drainSample (record : Option (Fin 24)) (start : Pos) (x : Sample) (s : State) : State :=
  match record with
  | some i =>
    if start ≤ x.position ∧ (s.record i).kind = .sale ∧ (s.record i).shade.n < max16 then
      modifyRecord i (fun r => { r with shade := r.shade.take x.shade }) s
    else wasteSamples 1 s
  | none => wasteSamples 1 s

/-- The segment's record takes the thin-sampling flag when the thin mark is set (R137). -/
def markThin (record : Option (Fin 24)) (s : State) : State :=
  match record with
  | some i => if s.shade.thin then modifyRecord i (fun r => { r with thinSampling := true }) s else s
  | none => s

/-- The queue is drained for the segment `[start, c)` (R137, R138). -/
def drainSamples (record : Option (Fin 24)) (start c : Pos) (s : State) : State :=
  let removed := s.shade.queue.filter (fun x => decide (x.position < c))
  let s1 := removed.foldl (fun s x => drainSample record start x s)
    { s with shade := { s.shade with queue := s.shade.queue.filter (fun x => !decide (x.position < c)) } }
  let s2 := markThin record s1
  { s2 with shade := { s2.shade with thin := false } }

/-! ### Saving batches (R149) -/

/-- No lower-numbered batch is UNSAVED (R149). -/
def noLowerUnsaved (k : Nat) (s : State) : Bool :=
  s.shade.batches.all (fun b => !(decide (b.number < k) && b.save == .unsaved))

/-- A change to batch `k` is saved (R149). -/
def saveBatch (k : Nat) (s : State) : State :=
  match s.batch k with
  | some b =>
    if b.save = .queued then s
    else
      let s1 := modifyBatch k (fun b => { b with save := .unsaved }) s
      match writableSlot s1 with
      | some n =>
        if noLowerUnsaved k s1 && !s1.storeFull then
          enqueue (.batchWrite n k) (modifyBatch k (fun b => { b with save := .queued }) s1)
        else s1
      | none => s1
  | none => s

/-! ### Classification (R141 to R145) -/

/-- The means of an accumulator, rounded nearest (R141). -/
def Accumulator.mean (a : Accumulator) : Shade :=
  ⟨roundNearest a.sum.l a.n, roundNearest a.sum.a a.n, roundNearest a.sum.b a.n⟩

/-- The greatest of the three coordinate ranges (R141). -/
def ShadeRange.spread (x : ShadeRange) : Int :=
  max (x.greatest.l - x.least.l) (max (x.greatest.a - x.least.a) (x.greatest.b - x.least.b))

/-- The spread of an accumulator (R141). -/
def Accumulator.spread (a : Accumulator) : Int := (a.range.map ShadeRange.spread).getD 0

/-- The weighted distance from a roll's means to a reference, rounded down (R143). -/
def shadeDistance (r : Recipe) (x y : Shade) : Int :=
  (r.weightL * mag (x.l - y.l) + r.weightC * (mag (x.a - y.a) + mag (x.b - y.b))) / 16

/-- The OPEN batches, each with its distance from a mean, ascending by number (R143). -/
def candidates (r : Recipe) (mean : Shade) (bs : List Batch) : List (Batch × Int) :=
  (bs.filter (fun b => !b.isClosed)).map (fun b => (b, shadeDistance r mean b.reference))

/-- The nearest candidate: the least distance, and of equal distances the lowest number (R143). -/
def nearest (r : Recipe) (mean : Shade) (bs : List Batch) : Option (Batch × Int) :=
  leastBy (fun x => x.2.toNat) (candidates r mean bs)

/-- The roll's classification is written into its record: the result, the batch number and the low-confidence
flag (R141 to R145). -/
def writeResult (i : Fin 24) (result : ShadeResult) (batch : Option Nat) (low : Bool) (s : State) : State :=
  modifyRecord i (fun r => { r with result := some result, batch := batch, lowConfidence := low }) s

/-- The roll is assigned to a batch (R143). -/
def assignBatch (i : Fin 24) (b : Batch) (s : State) : State :=
  saveBatch b.number
    (modifyBatch b.number
      (fun b => { b with
        rolls := bump max16 b.rolls, lastRoll := (s.record i).saleNumber.getD 0 }) s)

/-- A batch founded by a roll (R144). -/
def foundedBatch (number : Nat) (mean : Shade) (roll run : Nat) : Batch :=
  { number := number, reference := mean, foundingRoll := roll, foundingRun := run, rolls := 1
    lastRoll := roll, isClosed := false, save := .unsaved }

/-- The roll founds a batch (R144). -/
def foundBatch (i : Fin 24) (mean : Shade) (s : State) : State :=
  let k := s.shade.batches.length + 1
  let b := foundedBatch k mean ((s.record i).saleNumber.getD 0) (s.line.run.getD 0)
  saveBatch k
    ({ s with shade := { s.shade with batches := s.shade.batches ++ [b] } }.raise .quality .batch)

/-- A roll that no candidate takes founds a batch or is UNCLASSED (R144). -/
def foundOrUnclassed (i : Fin 24) (mean : Shade) (spread : Int) (distance : Option Int) (low : Bool)
    (s : State) : State :=
  if s.shade.batches.length < 16 ∧ s.recipe.foundingMinimum ≤ (s.record i).shade.n then
    foundBatch i mean
      (writeResult i ⟨some mean, some spread, .founded, distance⟩ (some (s.shade.batches.length + 1)) low s)
  else writeResult i ⟨some mean, some spread, .unclassed, distance⟩ none low s

/-- A roll whose spread is within the uniformity limit is matched against the batch table (R143, R144). -/
def matchBatches (i : Fin 24) (mean : Shade) (spread : Int) (s : State) : State :=
  let low := decide (((s.record i).shade.n : Int) < s.recipe.confidenceMinimum)
  match nearest s.recipe mean s.shade.batches with
  | some (b, d) =>
    if d ≤ s.recipe.shadeTolerance then
      assignBatch i b (writeResult i ⟨some mean, some spread, .assigned, some d⟩ (some b.number) low s)
    else foundOrUnclassed i mean spread (some d) low s
  | none => foundOrUnclassed i mean spread none low s

/-- A SALE record is classified (R141 to R144). -/
def classify (i : Fin 24) (s : State) : State :=
  let a := (s.record i).shade
  if a.n = 0 then writeResult i ⟨none, none, .unclassed, none⟩ none false s
  else if s.recipe.uniformityLimit < a.spread then
    writeResult i ⟨some a.mean, some a.spread, .shaded, none⟩ none false s
  else matchBatches i a.mean a.spread s

/-! ### The requests -/

/-- BATCH_CLOSE(number) (R147). -/
def batchCloseBody (p : Port) (args : List Byte) (s : State) : State :=
  let k := argNat args 0 1
  if ¬ (1 ≤ k ∧ k ≤ 16) then answer .batchClose p .range s
  else
    match s.batch k with
    | none => answer .batchClose p .notFound s
    | some b =>
      if b.isClosed then answer .batchClose p .state s
      else
        answerOk .batchClose p (saveBatch k (modifyBatch k (fun b => { b with isClosed := true }) s))

/-- BATCH_CLOSE (R147). -/
def execBatchClose (p : Port) (args : List Byte) (s : State) : Host.Outcome State Fault Refusal :=
  .next (takeRequest .batchClose p args (batchCloseBody p args) s)

/-- The code of a save state in a batch image (R148). -/
def SaveState.code : SaveState → Byte
  | .saved => 0 | .queued => 1 | .writing => 2 | .unsaved => 3

/-- The 20-byte batch image (R148). -/
def Batch.bytes (b : Batch) : List Byte :=
  [lowByte b.number, lowByte (bitOf b.isClosed), b.save.code, lowByte b.foundingRun]
    ++ bytesOfInt 2 b.reference.l ++ bytesOfInt 2 b.reference.a ++ bytesOfInt 2 b.reference.b
    ++ bytesOfNat 2 b.rolls ++ bytesOfNat 4 b.foundingRoll ++ bytesOfNat 4 b.lastRoll

/-- READ_BATCH(number) (R148). -/
def readBatchBody (p : Port) (args : List Byte) (s : State) : State :=
  let k := argNat args 0 1
  if ¬ (1 ≤ k ∧ k ≤ 16) then answer .readBatch p .range s
  else
    match s.batch k with
    | none => answer .readBatch p .notFound s
    | some b =>
      if !(s.port p).toStation then answer .readBatch p .fifoDir s
      else sendRecords p Req.readBatch.role.code b.bytes [] s

/-- READ_BATCH (R148). -/
def execReadBatch (p : Port) (args : List Byte) (s : State) : Host.Outcome State Fault Refusal :=
  .next (takeRequest .readBatch p args (readBatchBody p args) s)

end Sys2Proof.Machine
end

