-- ==== Sys2Proof/Machine/Roll.lean ====
section
/-!
DEFINITION. The roll former (07): match points, the segment plan, roll records, the cut with its due point,
strobe and report, grading and release, and the commands that act on them.
-/

namespace Sys2Proof.Machine

/-! ### Match points (R113) -/

/-- The match arithmetic is used: MATCHED cut mode with k0 defined (R113). -/
def usesMatch (s : State) : Bool := s.recipe.matchedMode && s.clock.k0.isSome

/-- A match point: k0 plus the cut offset; the fixed arithmetic does not read it. -/
def matchOrigin (s : State) : Pos := s.clock.k0.getD 0 + s.recipe.cutOffset

/-- First match at or after `x` (R113). -/
def firstMatch (s : State) (x : Pos) : Pos :=
  if usesMatch s then x + ((matchOrigin s - x) % s.recipe.repeatLength) else x

/-- Last match at or before `y` (R113). -/
def lastMatch (s : State) (y : Pos) : Pos :=
  if usesMatch s then y - ((y - matchOrigin s) % s.recipe.repeatLength) else y

/-- The knife frame position w − D_K (R26). -/
def knifeFrame (s : State) : Pos := (s.web.w : Int) - s.geometry.dK

/-! ### Taking a record (R111) -/

/-- CUT is raised on port W. -/
def raiseCut (s : State) : State := s.raise .winder .cut

/-- The part with the segment plan replaced. -/
def putPlan (p : Option Plan) (s : State) : State := { s with roll := { s.roll with plan := p } }

/-- The parts of a record just taken for a plan (07, last column of the roll record table). The record's mark is
as R113 gives it: unmatched when fixed arithmetic placed or moved the plan's end at some time. -/
def takenRecord (p : Plan) (run revision : Nat) : RollRecord :=
  { RollRecord.freed revision with
    state := .winding, kind := p.kind, run := run, start := p.start, stop := p.stop
    unmatched := p.unmatched }

/-- A segment is planned: it takes the lowest FREE record, or is untracked and counted as lost (R111). -/
def installPlan (p : Plan) (s : State) : State :=
  match lowestFree s with
  | some i =>
    evalHolds
      (putPlan (some { p with record := some i })
        (modifyRecord i (fun r => takenRecord p (s.line.run.getD 0) r.revision) s))
  | none =>
    { s with roll := { s.roll with
        plan := some { p with record := none }
        lostSegments := bump max16 s.roll.lostSegments } }

/-- The plan's end is placed or moved, and the record's end follows it; fixed arithmetic marks the record
unmatched (R111, R113). -/
def placeEnd (p : Plan) (c : Pos) (s : State) : State :=
  let s1 := putPlan
    (some { p with
      stop := some c, matched := usesMatch s, unmatched := p.unmatched || !usesMatch s }) s
  match p.record with
  | some i =>
    modifyRecord i
      (fun r => { r with stop := some c, unmatched := r.unmatched || !usesMatch s }) s1
  | none => s1

/-! ### Planning (R114) -/

/-- An open-ended WASTE plan from `start` (R10, R110), before it is known whether its limit lies ahead. That its pending
end cause is PLANNED is the model's choice (assumption 61). -/
def openWaste (start : Pos) : Plan :=
  { kind := .waste, start := start, stop := none, matched := false, unmatched := false, limited := false
    record := none, phase := .winding, following := none, cause := .planned }

/-- The farthest an open-ended waste segment runs, 2,000,000 counts (R115). -/
def wasteReach : Int := 2000000

/-- The point at which an open-ended waste segment is ended without clean web (R115). -/
def forcedPoint (s : State) (start : Pos) : Pos :=
  start + wasteReach + s.geometry.dK - s.recipe.cutLead

/-- START begins an open-ended WASTE segment at `start` (R10, R110). Its limit is in force when it lies ahead of w; one
that w has passed is never reached (R24, R115). -/
def beginWaste (start : Pos) (s : State) : State :=
  installPlan { openWaste start with limited := decide ((s.web.w : Int) < forcedPoint s start) } s

/-- A later splice moves the end of a planned waste segment when it lies within the guard of it (R114). -/
def guardWaste (s : State) (e p : Pos) : Pos :=
  if p < e + s.recipe.spliceGuard then max e (firstMatch s (p + s.recipe.spliceGuard)) else e

/-- The end to which a splice at `p` can be dodged by a SALE segment that starts at `start` (R114, R116). -/
def dodgeEnd (s : State) (start p : Pos) : Option Pos :=
  let c' := lastMatch s (p - s.recipe.spliceGuard)
  if start + s.recipe.minLength + s.recipe.spliceGuard ≤ p ∧ start + s.recipe.minLength ≤ c' ∧
      (s.web.w : Int) ≤ c' + s.geometry.dK - s.recipe.cutLead then some c'
  else none

/-- The end of the waste that follows a roll ended at `c'` to dodge a splice at `p` (R114, R116). -/
def followingEnd (s : State) (p c' : Pos) : Pos := firstMatch s (max (p + s.recipe.spliceGuard) (c' + 1))

/-- The plan of a SALE segment at `start`, with its first splice dodged or the segment converted to waste (R114). That
the pending end cause of a converted segment is PLANNED is the model's choice (assumption 61). -/
def salePlan (s : State) (start : Pos) : Plan :=
  let c := firstMatch s (start + s.recipe.targetLength)
  let plan : Plan :=
    { kind := .sale, start := start, stop := some c, matched := usesMatch s, unmatched := !usesMatch s
      limited := false, record := none, phase := .winding, following := none, cause := .planned }
  match (splices s.map).filter (fun p => decide (start ≤ p)) with
  | [] => plan
  | p :: later =>
    if c + s.recipe.spliceGuard ≤ p then plan
    else
      match dodgeEnd s start p with
      | some c' =>
        { plan with
          stop := some c'
          cause := .spliceDodge
          following := some
            { stop := later.foldl (guardWaste s) (followingEnd s p c'), matched := usesMatch s
              unmatched := !usesMatch s } }
      | none =>
        { plan with
          kind := .waste
          stop := some
            (later.foldl (guardWaste s)
              (firstMatch s (max (p + s.recipe.spliceGuard) (start + 1)))) }

/-- The plan of the segment after a strobe at `c`: the following waste that was held, or a SALE segment
(R121 step 5). That the pending end cause of the following waste is PLANNED is the model's choice (assumption 61). -/
def nextPlan (s : State) (c : Pos) (following : Option FollowingWaste) : Plan :=
  match following with
  | some f => { openWaste c with stop := some f.stop, matched := f.matched, unmatched := f.unmatched }
  | none => salePlan s c

/-! ### Grading and release (R130, R131) -/

/-- Length added to the order's waste total (R131). -/
def addWaste (length : Int) (s : State) : State :=
  { s with roll := { s.roll with wasteTotal := addHeld max32 s.roll.wasteTotal length.toNat } }

/-- The faults that grading compares with the max defect length per roll (R130). -/
def RollRecord.faultSum (r : RollRecord) : Nat := r.defectTotal + r.registerOff + r.embossOff

/-- The verdict that a record's shade result gives. -/
def RollRecord.verdict (r : RollRecord) : Option Verdict := r.result.map ShadeResult.verdict

/-- The reject causes with whether each applies to a record, in the order of R130. -/
def rejectTests (k : Recipe) (r : RollRecord) : List (RejectCause × Bool) := [
  (.splice, r.splice),
  (.brk, r.endCause == some .brk),
  (.cutFail, r.endCause == some .cutFail),
  (.short, decide (r.length < k.minLength)),
  (.qcHold, r.flags.getLsbD 4),
  (.core, r.flags.getLsbD 2),
  (.defect, decide (0 < r.defectOverflow) || decide (k.maxDefect < r.faultSum)),
  (.shaded, r.verdict == some .shaded),
  (.unclassed, r.verdict == some .unclassed)]

/-- The grade of a record: REJECT with the first cause that applies, otherwise FIRST (R130 steps 3 and 4). -/
def gradeOf (k : Recipe) (r : RollRecord) : Grade :=
  match (rejectTests k r).find? (·.2) with
  | some (cause, _) => .reject cause
  | none => .first

/-- The sale roll number counter adds 1 and numbers the record (R130 step 1). -/
def numberRoll (i : Fin 24) (s : State) : State :=
  let n := bump max32 s.roll.saleCounter
  modifyRecord i (fun r => { r with saleNumber := some n }) { s with roll := { s.roll with saleCounter := n } }

/-- A SALE record is graded and passes to the label queue (R130); `unconfirmed` says that its ending cut was
not confirmed. -/
def gradeRecord (i : Fin 24) (unconfirmed : Bool) (s : State) : State :=
  let s1 := classify i (numberRoll i s)
  joinLabel i
    (modifyRecord i
      (fun r => { r with
        state := .graded
        grade := some (gradeOf s1.recipe r)
        unconfirmedCut := r.unconfirmedCut || unconfirmed }) s1)

/-- A WASTE record is freed and its length counted (R131). -/
def freeWaste (i : Fin 24) (s : State) : State := freeRecord i (addWaste (s.record i).length s)

/-- A record whose segment is finished is graded or freed, by its kind (R130, R131). -/
def finishRecord (i : Fin 24) (unconfirmed : Bool) (s : State) : State :=
  match (s.record i).kind with
  | .sale => gradeRecord i unconfirmed s
  | .waste => freeWaste i s

/-- The segment that a cut ended is finished: its record, or for an untracked WASTE segment its length
(R125, R127, R131). -/
def finishCut (x : CutRecord) (unconfirmed : Bool) (s : State) : State :=
  match x.ending with
  | some i => finishRecord i unconfirmed s
  | none =>
    match x.kindEnding with
    | .sale => s
    | .waste => addWaste (x.cut - x.segmentStart) s

/-! ### The cut records (R117) -/

/-- The cut record in a state. -/
def cutIn (st : CutState) (s : State) : Option CutRecord := s.roll.cuts.find? (fun x => x.state == st)

/-- The cut records in a state, changed by `f`. -/
def modifyCuts (st : CutState) (f : CutRecord → CutRecord) (s : State) : State :=
  { s with roll := { s.roll with
      cuts := s.roll.cuts.map (fun x => if x.state = st then f x else x) } }

/-- A new cut record joins the list at the newest end; the oldest of two is dropped (R117, R119). -/
def pushCut (x : CutRecord) (s : State) : State :=
  { s with roll := { s.roll with cuts := lastN 2 (s.roll.cuts ++ [x]), cutCount := x.number } }

/-- An AWAITING cut becomes UNCONFIRMED, and its record is graded with the unconfirmed-cut flag or freed (R121
step 1, R127). -/
def endAwaiting (s : State) : State :=
  match cutIn .awaiting s with
  | some x =>
    let s1 := modifyCuts .awaiting (fun x => { x with state := .unconfirmed }) s
    finishCut x true { s1 with roll := { s1.roll with lastUnconfirmed := some x.number } }
  | none => s

/-- An ISSUED cut is withdrawn (R129, R132). -/
def withdrawCut (s : State) : State := modifyCuts .issued (fun x => { x with state := .withdrawn }) s

/-- The kind a plan's segment has on the winder: its record's, which may differ from the plan's after a failed
cut (R126, R137), or the plan's when it is untracked. -/
def windingKind (p : Plan) (s : State) : SegmentKind :=
  match p.record with
  | some i => (s.record i).kind
  | none => p.kind

/-- The mean transport error τ̄ (R118). -/
def transportMean (s : State) : Int := meanNearest s.roll.transport

/-- An accepted MKW capture adds a transport error value (R118). -/
def takeTransport (c : Pos) (s : State) : State :=
  match s.clock.k0 with
  | some k0 =>
    let error := reduceMod s.recipe.repeatLength (c - s.geometry.dW - k0)
    { s with roll := { s.roll with transport := lastN 4 (s.roll.transport ++ [error]) } }
  | none => s

/-! ### Cut due (R119) -/

/-- The point at which cut due is made for a planned end (R119). -/
def duePoint (s : State) (c : Pos) : Pos := c + s.geometry.dK - s.recipe.cutLead

/-- The planned end as cut due fixes it: re-anchored to the match points when match arithmetic placed it
(R119 step 1). -/
def reanchored (s : State) (p : Plan) (c : Pos) : Pos :=
  let c' := c - reduceMod s.recipe.repeatLength (c - matchOrigin s)
  if p.matched ∧ s.clock.k0.isSome ∧ p.start < c' then c' else c

/-- The strobe position of a cut at `c`, not before w (R119 step 3). -/
def strobePosition (s : State) (c : Pos) : Pos :=
  max (s.web.w : Int)
    (c + s.geometry.dK + clampInt (-s.recipe.window) s.recipe.window (transportMean s))

/-- The record's part of cut due: it enters CLOSING with its end fixed and its pending end cause (R119 step
2). -/
def closeRecord (p : Plan) (c : Pos) (s : State) : State :=
  match p.record with
  | some i =>
    modifyRecord i
      (fun r => { r with
        state := .closing
        stop := some c
        endCause := if r.endCause = some .cutFail then r.endCause else some p.cause }) s
  | none => s

/-- The end cause that a cut record carries: its record's, or the plan's when untracked (R117). -/
def causeOf (p : Plan) (s : State) : EndCause :=
  match p.record with
  | some i => (s.record i).endCause.getD p.cause
  | none => p.cause

/-- The cut record that cut due builds (R119 step 3). -/
def issuedCut (p : Plan) (c : Pos) (s : State) : CutRecord :=
  { number := bump max32 s.roll.cutCount
    state := .issued
    ending := p.record
    kindEnding := windingKind p s
    kindNext := some (if p.following.isSome then .waste else .sale)
    cause := causeOf p s
    cut := c
    strobe := strobePosition s c
    segmentStart := p.start
    confirm := none }

/-- Cut due of a WINDING plan with end `c` (R119 steps 1 to 4). -/
def fixCut (p : Plan) (c : Pos) (s : State) : State :=
  let c1 := reanchored s p c
  let s1 := closeRecord p c1 (putPlan (some { p with stop := some c1, phase := .closing }) s)
  raiseCut (pushCut (issuedCut p c1 s1) s1)

/-! ### The strobe (R121) -/

/-- CUT_STROBE is asserted until the strobe position plus the RPO pulse width in force (R121 step 2). -/
def assertStrobe (position : Pos) (s : State) : State :=
  { s with roll := { s.roll with strobeOff := some (position + s.recipe.pulseWidth) } }

/-- The plan's record changed by `f`, if the segment is tracked. -/
def modifyTracked (p : Plan) (f : RollRecord → RollRecord) (s : State) : State :=
  match p.record with
  | some i => modifyRecord i f s
  | none => s

/-- The segment's share of the web map and of the sample queue (R103, R137). -/
def consumeSegment (p : Plan) (c : Pos) (s : State) : State :=
  drainSamples p.record p.start c (consumeMap p.record p.start c s)

/-- The strobe of the ISSUED cut `x` for the plan `p` (R121). -/
def strobeFor (p : Plan) (x : CutRecord) (s : State) : State :=
  let s1 := assertStrobe x.strobe (endAwaiting s)
  let s2 := modifyCuts .issued
    (fun x => { x with state := .awaiting, confirm := some (x.strobe + s1.recipe.confirmDistance) }) s1
  let s3 := consumeSegment p x.cut (modifyTracked p (fun r => { r with state := .cutWait }) s2)
  let next := nextPlan s3 x.cut p.following
  raiseCut
    (modifyCuts .awaiting (fun x => { x with kindNext := some next.kind }) (installPlan next s3))

/-- The strobe, when a plan stands and a cut is ISSUED (R121). -/
def strobeNow (s : State) : State :=
  match s.roll.plan, cutIn .issued s with
  | some p, some x => strobeFor p x s
  | _, _ => s

/-- The planned end of a WINDING plan whose cut due point has been reached (R119). -/
def dueNow (s : State) : Option (Plan × Pos) :=
  match s.roll.plan with
  | some p =>
    match p.phase, p.stop with
    | .winding, some c => if duePoint s c ≤ s.web.w then some (p, c) else none
    | _, _ => none
  | none => none

/-- The ISSUED cut whose strobe position has been reached (R121). -/
def strobeDue (s : State) : Bool :=
  match cutIn .issued s with
  | some x => decide (x.strobe ≤ s.web.w)
  | none => false

/-- Cut due is made at once for a plan whose cut due point lies at or below w, with the strobe at once when its
position is w, and so on for the segments planned by those strobes (R119). -/
def settlePlan : (fuel : Nat) → State → State
  | 0, s => s
  | fuel + 1, s =>
    match dueNow s with
    | some (p, c) =>
      let s1 := fixCut p c s
      if strobeDue s1 then settlePlan fuel (strobeNow s1) else s1
    | none => s

/-- The number of segments that one event can plan in turn, more than any event needs: each starts beyond the one
before it, and a strobe made at once ends its segment at most a capture window beyond the knife frame position, which
lies below 2^32 (assumption 39). -/
def planFuel : Nat := 8589934592

/-- CUT_DUE (R119). -/
def cutDue (s : State) : State := settlePlan planFuel s

/-- CUT_DUE (R119). -/
def execCutDue (s : State) : Host.Outcome State Fault Refusal := .next (cutDue s)

/-- CUT_STROBE (R121). -/
def strobe (s : State) : State := if strobeDue s then settlePlan planFuel (strobeNow s) else s

/-- CUT_STROBE (R121). -/
def execCutStrobe (s : State) : Host.Outcome State Fault Refusal := .next (strobe s)

/-- CUT_STROBE is deasserted when w reaches the end of its pulse (R121, R132). -/
def strobeDeassert (s : State) : State :=
  match s.roll.strobeOff with
  | some x => if x ≤ s.web.w then { s with roll := { s.roll with strobeOff := none } } else s
  | none => s

/-- CUT_STROBE_DEASSERT (R121, R132). -/
def execCutStrobeDeassert (s : State) : Host.Outcome State Fault Refusal := .next (strobeDeassert s)

/-- The confirm point of the AWAITING cut is reached (R127). -/
def confirmTimeout (s : State) : State :=
  match (cutIn .awaiting s).bind CutRecord.confirm with
  | some x => if x ≤ s.web.w then raiseCut (endAwaiting s) else s
  | none => s

/-- CONFIRM_TIMEOUT (R127). -/
def execConfirmTimeout (s : State) : Host.Outcome State Fault Refusal := .next (confirmTimeout s)

/-! ### The end of an open-ended waste segment (R115) -/

/-- The conditions of R115 for clean web. -/
def webIsClean (s : State) : Bool :=
  s.capture.mk0.state == .track && !hasOpenFault .register s.map
    && (!s.recipe.embossEnabled || !hasOpenFault .emboss s.map)

/-- The end planned at a clean position (R115). -/
def cleanEnd (s : State) (start clean : Pos) : Pos :=
  let nearKnife := knifeFrame s + s.recipe.cutLead
  let e := firstMatch s (max (max clean (start + s.recipe.startupWaste)) nearKnife)
  if wasteReach < e - start then firstMatch s (max (start + wasteReach) nearKnife) else e

/-- The roll former takes a frame close: at the first clean one it plans the end of an open-ended waste
segment (R115). -/
def endWasteAt (clean : Pos) (s : State) : State :=
  match s.roll.plan with
  | some p =>
    if p.stop.isNone && webIsClean s then
      settlePlan planFuel (placeEnd p (cleanEnd s p.start clean) s)
    else s
  | none => s

/-- WASTE_END_FORCED: w has reached the point that lay ahead of it when the segment was planned, with the end still
absent (R24, R115). -/
def forceWasteEnd (s : State) : State :=
  match s.roll.plan with
  | some p =>
    if p.stop.isNone ∧ p.limited = true ∧ forcedPoint s p.start ≤ s.web.w then
      settlePlan planFuel (placeEnd p (firstMatch s (p.start + wasteReach)) s)
    else s
  | none => s

/-- WASTE_END_FORCED (R115). -/
def execWasteEndForced (s : State) : Host.Outcome State Fault Refusal := .next (forceWasteEnd s)

/-! ### Splices (R102, R116) -/

/-- The end of a following waste is moved to `e` (R113, R116). -/
def FollowingWaste.moved (f : FollowingWaste) (s : State) (e : Pos) : FollowingWaste :=
  { stop := e, matched := usesMatch s, unmatched := f.unmatched || !usesMatch s }

/-- The following-waste row of R116. -/
def spliceFollowing (x : Pos) (s : State) : State :=
  match s.roll.plan with
  | some p =>
    match p.stop, p.following with
    | some c, some f =>
      let e := firstMatch s (x + s.recipe.spliceGuard)
      if c ≤ x ∧ x < f.stop + s.recipe.spliceGuard ∧ f.stop < e then
        putPlan (some { p with following := some (f.moved s e) }) s
      else s
    | _, _ => s
  | none => s

/-- The following waste held after a dodge: one that was held stays at or beyond its former end (R116). -/
def dodgeFollowing (s : State) (x c' : Pos) (former : Option FollowingWaste) : FollowingWaste :=
  let e := followingEnd s x c'
  match former with
  | some f => if f.stop < e then f.moved s e else f
  | none => { stop := e, matched := usesMatch s, unmatched := !usesMatch s }

/-- A splice at `x` handed to the roll former is dealt with against the plan as it stands (R116). -/
def handSplice (x : Pos) (s : State) : State :=
  match s.roll.plan with
  | some p =>
    match p.stop, p.phase, p.kind with
    | some c, .winding, .sale =>
      if p.start ≤ x ∧ x < c + s.recipe.spliceGuard then
        match dodgeEnd s p.start x with
        | some c' =>
          settlePlan planFuel
            (placeEnd
              { p with cause := .spliceDodge, following := some (dodgeFollowing s x c' p.following) } c' s)
        | none => spliceFollowing x s
      else spliceFollowing x s
    | some c, .winding, .waste =>
      if c ≤ x ∧ x < c + s.recipe.spliceGuard then
        settlePlan planFuel (placeEnd p (firstMatch s (x + s.recipe.spliceGuard)) s)
      else spliceFollowing x s
    | some _, .closing, _ => spliceFollowing x s
    | none, _, _ => s
  | none => s

/-- SPLICE(distance) (R102). The four bytes of the distance are read as an unsigned number, by the model's choice
(assumption 57). -/
def spliceBody (p : Port) (args : List Byte) (s : State) : State :=
  let d : Int := argNat args 0 4
  let given := clampInt 0 400000 d
  let position : Pos := (s.web.w : Int) + given
  match addEntry (newEntry .splice position (some position) .nothing (decide (given ≠ d))) s.map with
  | some (m, disposition) =>
    respond p Req.splice.role.code .ok (reportResult disposition (decide (given ≠ d)))
      (handSplice position { s with map := m })
  | none => answer .splice p .full s

/-- SPLICE (R102). -/
def execSplice (p : Port) (args : List Byte) (s : State) : Host.Outcome State Fault Refusal :=
  .next (takeRequest .splice p args (spliceBody p args) s)

/-! ### Reports from the winder (R122 to R126) -/

/-- The code of a cut state (R123). -/
def CutState.code : CutState → Byte
  | .issued => 0 | .awaiting => 1 | .done => 2 | .failed => 3 | .unconfirmed => 4 | .withdrawn => 5

/-- The code of a segment kind (R123). -/
def SegmentKind.code : SegmentKind → Byte
  | .sale => 0 | .waste => 1

/-- The code of an end cause (R123). -/
def EndCause.code : EndCause → Byte
  | .planned => 0 | .spliceDodge => 1 | .brk => 2 | .orderEnd => 3 | .cutFail => 4

/-- The 18-byte cut record (R123). -/
def CutRecord.bytes (x : CutRecord) : List Byte :=
  bytesOfNat 4 x.number
    ++ [x.state.code, match x.ending with
        | some i => lowByte i.val
        | none => 255#8]
    ++ [x.kindEnding.code, match x.kindNext with
        | some k => k.code
        | none => 255#8]
    ++ [x.cause.code, 0#8] ++ bytesOfInt 4 x.cut ++ bytesOfInt 4 x.strobe

/-- CUT_FETCH (R123). -/
def cutFetchBody (p : Port) (s : State) : State :=
  if !(s.port p).toStation then answer .cutFetch p .fifoDir s
  else
    sendRecords p Req.cutFetch.role.code (s.roll.cuts.map CutRecord.bytes).flatten
      [lowByte s.roll.cuts.length] s

/-- CUT_FETCH (R123). -/
def execCutFetch (p : Port) (args : List Byte) (s : State) : Host.Outcome State Fault Refusal :=
  .next (takeRequest .cutFetch p args (cutFetchBody p) s)

/-- How a report that names a cut number is judged: the AWAITING cut it is taken for, or its refusal (R124). -/
def judgeReport (n : Nat) (s : State) : Status ⊕ CutRecord :=
  match s.roll.cuts.find? (fun x => x.number == n && x.state == .awaiting) with
  | some x => .inr x
  | none =>
    if s.roll.lastUnconfirmed = some n
        ∨ s.roll.cuts.any (fun x => x.number == n && x.state == .unconfirmed) then .inl .tooLate
    else .inl .state

/-- The closing cut is the one whose kind next is absent (R117). -/
def CutRecord.isClosing (x : CutRecord) : Bool := x.kindNext.isNone

/-- Step 2 of CLOSING: the web map and the sample queue are emptied, and the line waits for step 3 (R16). -/
def enterDrain (s : State) : State :=
  let s1 := emptySamples { s with map := emptyMap s.map }
  { s1 with line := { s1.line with closing := .drain } }

/-- A report of the closing cut deasserts CUT_STROBE and lets CLOSING go on (R16, R132); one of another cut
does neither. -/
def afterReport (x : CutRecord) (s : State) : State :=
  if x.isClosing then
    let s1 := { s with roll := { s.roll with strobeOff := none } }
    if s1.line.closing = .cutReport then advanceClosing (enterDrain s1) else s1
  else s

/-- A CUT_DONE that is taken (R125). -/
def takeCutDone (x : CutRecord) (s : State) : State :=
  afterReport x
    (raiseCut (finishCut x false (modifyCuts .awaiting (fun x => { x with state := .done }) s)))

/-- CUT_DONE(cut number) (R124, R125). -/
def cutDoneBody (p : Port) (args : List Byte) (s : State) : State :=
  match judgeReport (argNat args 0 4) s with
  | .inl status => answer .cutDone p status s
  | .inr x => answerOk .cutDone p (takeCutDone x s)

/-- CUT_DONE (R125). -/
def execCutDone (p : Port) (args : List Byte) (s : State) : Host.Outcome State Fault Refusal :=
  .next (takeRequest .cutDone p args (cutDoneBody p args) s)

/-- The plan's record merged into the old record (R126, R140). -/
def mergeRecord (old plan : RollRecord) : RollRecord :=
  let r := plan.defects.foldl RollRecord.addItem old
  { r with
    defectOverflow := addHeld max16 r.defectOverflow plan.defectOverflow
    registerOff := addHeld max32 old.registerOff plan.registerOff
    embossOff := addHeld max32 old.embossOff plan.embossOff
    defectTotal := addHeld max32 old.defectTotal plan.defectTotal
    splice := old.splice || plan.splice
    flags := old.flags ||| plan.flags
    unmatched := old.unmatched || plan.unmatched
    shade := (old.shade.combine plan.shade).1
    thinSampling := old.thinSampling || plan.thinSampling }

/-- The plan's record, if any, is merged into the old record and freed (R126). -/
def mergePlan (i : Fin 24) (p : Plan) (s : State) : State :=
  match p.record with
  | some j =>
    let plan := s.record j
    let uncombined := ((s.record i).shade.combine plan.shade).2
    freeRecord j (wasteSamples uncombined (modifyRecord i (fun r => mergeRecord r plan) s))
  | none => s

/-- The state a record has while its plan is in a phase (R126). -/
def PlanPhase.recordState : PlanPhase → RecordState
  | .winding => .winding
  | .closing => .closing

/-- The old record takes over the plan (R126). -/
def takeOver (i : Fin 24) (p : Plan) (s : State) : State :=
  let s1 := putPlan (some { p with record := some i }) (mergePlan i p s)
  let s2 := modifyRecord i
    (fun r => { r with
      state := p.phase.recordState
      stop := p.stop
      endCause := some .cutFail
      unmatched := r.unmatched || p.unmatched }) s1
  modifyCuts .issued (fun x => { x with ending := some i, kindEnding := (s2.record i).kind }) s2

/-- A failed cut that ended a tracked record: the record takes over the plan, or with no plan is finished with
end cause CUT_FAIL (R126, R132). -/
def failTracked (i : Fin 24) (s : State) : State :=
  match s.roll.plan with
  | some p => takeOver i p s
  | none => finishRecord i false (modifyRecord i (fun r => { r with endCause := some .cutFail }) s)

/-- A failed cut that ended an untracked segment: the plan's record, if any, takes end cause CUT_FAIL (R126),
and an untracked WASTE segment's length is counted at its report (R131). -/
def failUntracked (x : CutRecord) (s : State) : State :=
  let s1 := finishCut x false s
  match s1.roll.plan with
  | some p => modifyTracked p (fun r => { r with endCause := some .cutFail }) s1
  | none => s1

/-- A CUT_FAILED that is taken (R126). -/
def takeCutFailed (x : CutRecord) (s : State) : State :=
  let s1 := modifyCuts .awaiting (fun x => { x with state := .failed }) s
  afterReport x
    (raiseCut
      (match x.ending with
        | some i => failTracked i s1
        | none => failUntracked x s1))

/-- CUT_FAILED(cut number) (R124, R126). -/
def cutFailedBody (p : Port) (args : List Byte) (s : State) : State :=
  match judgeReport (argNat args 0 4) s with
  | .inl status => answer .cutFailed p status s
  | .inr x => answerOk .cutFailed p (takeCutFailed x s)

/-- CUT_FAILED (R126). -/
def execCutFailed (p : Port) (args : List Byte) (s : State) : Host.Outcome State Fault Refusal :=
  .next (takeRequest .cutFailed p args (cutFailedBody p args) s)

/-! ### Segments ended by a break or the closing cut (R129, R132) -/

/-- The end that a break or the closing cut gives the winding segment: the knife frame position, or the
segment's start if that is greater (R129, R132). -/
def knifeEnd (p : Plan) (s : State) : Pos := max (knifeFrame s) p.start

/-- The record of a segment ended by a break (R129 step 2, R113, R131). -/
def breakRecord (p : Plan) (e : Pos) (s : State) : State :=
  match p.record with
  | some i =>
    finishRecord i false
      (modifyRecord i
        (fun r => { r with
          stop := some e
          unmatched := true
          endCause := if r.endCause = some .cutFail then r.endCause else some .brk }) s)
  | none =>
    match p.kind with
    | .sale => s
    | .waste => addWaste (e - p.start) s

/-- Step 2 of a break: the segment of the plan ends (R129). -/
def breakPlan (s : State) : State :=
  match s.roll.plan with
  | some p =>
    putPlan none (breakRecord p (knifeEnd p s) (consumeSegment p (knifeEnd p s) (withdrawCut s)))
  | none => s

/-- Steps 1, 2 and 4 of a break, with the transport error list emptied (R129). -/
def breakRolls (s : State) : State :=
  let s1 := breakPlan (endAwaiting s)
  let s2 := { s1 with roll := { s1.roll with transport := [] } }
  if (cutIn .awaiting s).isSome || ((cutIn .issued s).isSome && s.roll.plan.isSome) then raiseCut s2
  else s2

/-- The cut record of the closing cut (R132). -/
def closingRecord (p : Plan) (c : Pos) (s : State) : CutRecord :=
  { number := bump max32 s.roll.cutCount
    state := .awaiting
    ending := p.record
    kindEnding := windingKind p s
    kindNext := none
    cause := .orderEnd
    cut := c
    strobe := s.web.w
    segmentStart := p.start
    confirm := none }

/-- The closing cut of a plan (R132). -/
def closingCutOf (p : Plan) (s : State) : State :=
  let c := knifeEnd p s
  let s1 := withdrawCut (endAwaiting s)
  let s2 := assertStrobe s.web.w (pushCut (closingRecord p c s1) s1)
  let s3 := modifyTracked p
    (fun r => { r with
      state := .cutWait, stop := some c, endCause := some .orderEnd, unmatched := true }) s2
  raiseCut (putPlan none (consumeSegment p c s3))

/-- The closing cut, and the first step of CLOSING that then stands: with no segment winding the report is done
at entry (R15, R16, R132). -/
def closingCut (s : State) : State :=
  match s.roll.plan with
  | some p =>
    let s1 := closingCutOf p s
    { s1 with line := { s1.line with closing := .cutReport } }
  | none => enterDrain s

/-! ### Station flags and reading rolls (R133, R134) -/

/-- The station flags a port owns (R133). -/
def ownedFlags : Port → BitVec 8
  | .press => 0x01#8
  | .emboss => 0x02#8
  | .winder => 0x0C#8
  | .quality => 0x30#8

/-- The owned bits in the clear mask are cleared and then those in the set mask are set (R133). -/
def setFlags (p : Port) (setMask clearMask flags : BitVec 8) : BitVec 8 :=
  (flags &&& ~~~(clearMask &&& ownedFlags p)) ||| (setMask &&& ownedFlags p)

/-- ROLL_FLAG(record, set mask, clear mask) (R133). -/
def rollFlagBody (p : Port) (args : List Byte) (s : State) : State :=
  match recordOfNumber (argNat args 0 1) with
  | none => answer .rollFlag p .range s
  | some i =>
    if (s.record i).state = .free then answer .rollFlag p .notFound s
    else
      respond p Req.rollFlag.role.code .ok
        [(argByte args 1 ||| argByte args 2) &&& ~~~(ownedFlags p)]
        (modifyRecord i
          (fun r => { r with flags := setFlags p (argByte args 1) (argByte args 2) r.flags }) s)

/-- ROLL_FLAG (R133). -/
def execRollFlag (p : Port) (args : List Byte) (s : State) : Host.Outcome State Fault Refusal :=
  .next (takeRequest .rollFlag p args (rollFlagBody p args) s)

/-- The code of a record state (11, "Roll record image"). -/
def RecordState.code : RecordState → Byte
  | .free => 0 | .winding => 1 | .closing => 2 | .cutWait => 3 | .graded => 4 | .labelPending => 5
  | .labelled => 6

/-- The code of a verdict (11, "Roll record image"). -/
def Verdict.code : Verdict → Byte
  | .assigned => 0 | .founded => 1 | .shaded => 2 | .unclassed => 3

/-- The code of a journal state (11, "Roll record image"). -/
def JournalState.code : JournalState → Byte
  | .waiting => 1 | .queued => 2 | .writing => 3

/-- The code of a map kind (11, "Roll record image"). -/
def MapKind.code : MapKind → Byte
  | .register => 0 | .emboss => 1 | .defect => 2 | .splice => 3

/-- The detail byte of a defect list item (11, "Roll record image"). -/
def Detail.code : Detail → Byte
  | .unit k => lowByte (k.val + 1)
  | .defectClass c => lowByte c.val
  | .overflow => 16 | .unverified => 17 | .notClosed => 18 | .outOfRegister => 19 | .nothing => 255

/-- The 10 bytes of a defect list item (11, "Roll record image"). -/
def DefectItem.bytes (x : DefectItem) : List Byte :=
  [x.kind.code, x.detail.code] ++ bytesOfInt 4 x.offset ++ bytesOfInt 4 x.length

/-- The three coordinates of a shade in two bytes each. -/
def Shade.bytes (x : Shade) : List Byte := bytesOfInt 2 x.l ++ bytesOfInt 2 x.a ++ bytesOfInt 2 x.b

/-- A byte code that may be absent. -/
def codeOr {α : Type} (absent : Byte) (f : α → Byte) : Option α → Byte
  | some a => f a
  | none => absent

/-- Bytes 4 to 27 of the roll record image, after the revision count. An absent end reads 0 (assumption 45). -/
def RollRecord.headBytes (r : RollRecord) : List Byte :=
  [r.state.code, r.kind.code, codeOr 0xFF#8 EndCause.code r.endCause]
    ++ (match r.grade with
      | some g => g.codes
      | none => [0xFF#8, 0#8])
    ++ [lowByte (r.batch.getD 0),
      lowByte (bitsOf [r.unmatched, r.splice, r.lowConfidence, r.thinSampling, r.unconfirmedCut,
        r.stop.isSome]),
      r.flags, lowByte r.run, lowByte r.attempts, codeOr 0#8 LabelOutcome.code r.outcome,
      codeOr 0#8 JournalState.code r.journal]
    ++ bytesOfNat 4 (r.saleNumber.getD 0) ++ bytesOfInt 4 r.start ++ bytesOfInt 4 (r.stop.getD 0)

/-- Bytes 28 to 67 of the roll record image: totals, counts, sums and ranges. -/
def RollRecord.totalBytes (r : RollRecord) : List Byte :=
  let range := r.shade.range.getD ⟨⟨0, 0, 0⟩, ⟨0, 0, 0⟩⟩
  bytesOfNat 4 r.registerOff ++ bytesOfNat 4 r.embossOff ++ bytesOfNat 4 r.defectTotal
    ++ bytesOfNat 2 r.defectOverflow ++ bytesOfNat 2 r.shade.n
    ++ bytesOfInt 4 r.shade.sum.l ++ bytesOfInt 4 r.shade.sum.a ++ bytesOfInt 4 r.shade.sum.b
    ++ range.least.bytes ++ range.greatest.bytes

/-- Bytes 68 to 161 of the roll record image: the shade result and the defect list, whose places beyond the number
held read 0 (assumption 45). -/
def RollRecord.resultBytes (r : RollRecord) : List Byte :=
  ((r.result.bind ShadeResult.mean).getD ⟨0, 0, 0⟩).bytes
    ++ bytesOfInt 2 ((r.result.bind ShadeResult.spread).getD 0)
    ++ (match r.result.bind ShadeResult.distance with
      | some d => bytesOfInt 4 d
      | none => [0xFF#8, 0xFF#8, 0xFF#8, 0xFF#8])
    ++ [codeOr 0xFF#8 Verdict.code r.verdict, lowByte r.defects.length]
    ++ ((r.defects.map DefectItem.bytes).flatten ++ List.replicate 80 0#8).take 80

/-- The 192-byte roll record image (11, "Roll record image"). -/
def RollRecord.image (r : RollRecord) : List Byte :=
  bytesOfNat 4 r.revision ++ r.headBytes ++ r.totalBytes ++ r.resultBytes
    ++ List.replicate 26 0#8 ++ bytesOfNat 4 r.revision

/-- READ_ROLL(record) (R134). -/
def readRollBody (p : Port) (args : List Byte) (s : State) : State :=
  match recordOfNumber (argNat args 0 1) with
  | none => answer .readRoll p .range s
  | some i =>
    if !(s.port p).toStation then answer .readRoll p .fifoDir s
    else sendRecords p Req.readRoll.role.code (s.record i).image [] s

/-- READ_ROLL (R134). -/
def execReadRoll (p : Port) (args : List Byte) (s : State) : Host.Outcome State Fault Refusal :=
  .next (takeRequest .readRoll p args (readRollBody p args) s)

end Sys2Proof.Machine
end

