-- ==== Sys2Proof/Machine/Capture.lean ====
section
/-!
DEFINITION. Mark capture (03): channel records and windows, the key-type, unit and phased channels, frames, and
the commands of the capture unit and of the coasting repeat clock.
-/

namespace Sys2Proof.Machine

/-! ### Channels -/

/-- The record of a channel. -/
def Capture.get (x : Capture) : Channel → ChannelRecord
  | .mk0 => x.mk0
  | .unit k => x.units.get k
  | .mke => x.mke
  | .idx => x.idx
  | .mkw => x.mkw

/-- The capture unit with the record of a channel replaced. -/
def Capture.set (x : Capture) (ch : Channel) (c : ChannelRecord) : Capture :=
  match ch with
  | .mk0 => { x with mk0 := c }
  | .unit k => { x with units := x.units.set k c }
  | .mke => { x with mke := c }
  | .idx => { x with idx := c }
  | .mkw => { x with mkw := c }

/-- The record of a channel. -/
def State.channel (s : State) (ch : Channel) : ChannelRecord := s.capture.get ch

/-- The part with a channel record replaced. -/
def putChannel (ch : Channel) (c : ChannelRecord) (s : State) : State :=
  { s with capture := s.capture.set ch c }

/-- A channel's bit of the polarity mask (01, "Geometry"). -/
def Channel.bit : Channel → Nat
  | .mk0 => 0
  | .unit k => k.val + 1
  | .mke => 8
  | .idx => 9
  | .mkw => 10

/-- The window half-width of a channel (03, channel table). -/
def halfWidth (r : Recipe) : Channel → Int
  | .mk0 | .unit _ | .mke | .mkw => r.window
  | .idx => r.embossWindow

/-- The step of a key-type channel: R for MK0 and m × R for IDX (03, "Key-type channels"). -/
def keyStep (r : Recipe) : Channel → Int
  | .idx => r.embossRatio * r.repeatLength
  | .mk0 | .unit _ | .mke | .mkw => r.repeatLength

/-- The path distance of a phased channel's sensor (R49). -/
def pathDistance (g : Geometry) : Channel → Nat
  | .mke => g.dE
  | .mkw => g.dW
  | .mk0 | .unit _ | .idx => 0

/-! ### Windows (R39) -/

/-- A window is armed at a centre; it opens at once when w has reached its lower bound, but not at the position
just accepted (R39). -/
def ChannelRecord.arm (w v centre : Int) (c : ChannelRecord) : ChannelRecord :=
  { c with
    centre := some centre
    window := if centre - v ≤ w ∧ c.lastAccepted ≠ some w then .opened else .armed }

/-- A window is closed; a closed window has no centre. -/
def ChannelRecord.shut (c : ChannelRecord) : ChannelRecord := { c with window := .closed, centre := none }

/-- Whether an edge at `w` is accepted by the channel's window (R39). -/
def ChannelRecord.accepts (w v : Int) (c : ChannelRecord) : Bool :=
  match c.window, c.centre with
  | .closed, _ => false
  | _, some x => decide (x - v ≤ w ∧ w ≤ x + v ∧ c.lastAccepted ≠ some w)
  | _, none => false

/-- An accepted edge is recorded; consecutive misses return to 0 (R37). -/
def ChannelRecord.accept (position : Pos) (c : ChannelRecord) : ChannelRecord :=
  { c with lastAccepted := some position, run := 0 }

/-- One more stray (R37). -/
def ChannelRecord.stray (c : ChannelRecord) : ChannelRecord := { c with strays := bump max16 c.strays }

/-- One more miss (R37). -/
def ChannelRecord.miss (c : ChannelRecord) : ChannelRecord :=
  { c with misses := bump max16 c.misses, run := bump max16 c.run }

/-- The armed window has reached its lower bound (R39). -/
def windowOpenDue (ch : Channel) (s : State) : Bool :=
  let c := s.channel ch
  match c.window, c.centre with
  | .armed, some x =>
    c.enabled && decide (x - halfWidth s.recipe ch ≤ s.web.w ∧ c.lastAccepted ≠ some (s.web.w : Int))
  | _, _ => false

/-- The window's upper bound plus one is reached (R39). -/
def windowEndDue (ch : Channel) (s : State) : Bool :=
  let c := s.channel ch
  match c.window, c.centre with
  | .closed, _ => false
  | _, some x => c.enabled && decide (x + halfWidth s.recipe ch + 1 ≤ s.web.w)
  | _, none => false

/-! ### Phased channels (R49) -/

/-- The least centre at or after a starting limit (R49). -/
def leastCentre (r : Recipe) (distance : Nat) (k0 limit : Pos) : Pos :=
  limit + ((distance + k0 - limit) % r.repeatLength)

/-- A phased channel arms its window from a starting limit, while k0 is defined (R49). -/
def armPhased (ch : Channel) (limit : Pos) (s : State) : State :=
  match s.clock.k0 with
  | some k0 =>
    let x := leastCentre s.recipe (pathDistance s.geometry ch) k0 limit
    putChannel ch { (s.channel ch).arm s.web.w s.recipe.window x with limit := limit } s
  | none => putChannel ch (s.channel ch).shut s

/-- What a phased channel does when k0 becomes defined or changes (R49). -/
def phasedFollow (before : Option Pos) (ch : Channel) (s : State) : State :=
  let c := s.channel ch
  if !c.enabled then s
  else if before.isNone then armPhased ch ((s.web.w : Int) - s.recipe.window) s
  else
    match c.window with
    | .armed => armPhased ch c.limit s
    | .opened | .closed => s

/-- Both phased channels follow a change of k0; `before` is the value it had (R49). -/
def phasedFollowAll (before : Option Pos) (s : State) : State :=
  if s.clock.k0 = before then s else phasedFollow before .mkw (phasedFollow before .mke s)

/-- Both phased channels drop their windows when k0 becomes undefined (R49). -/
def phasedDrop (s : State) : State :=
  putChannel .mkw (s.channel .mkw).shut (putChannel .mke (s.channel .mke).shut s)

/-- The next window of a phased channel after the one centred at `x` (R49). -/
def phasedNext (ch : Channel) (x : Pos) (s : State) : State := armPhased ch (x + s.recipe.half + 1) s

/-! ### Frames (R45 to R47) -/

/-- A unit's window at the opening of a frame at `c0` (R45). -/
def unitCentre (r : Recipe) (c0 : Pos) (k : Fin 7) : Pos := c0 + r.unitOffset k

/-- The part with a unit's result in the open frame set (R46). -/
def setResult (k : Fin 7) (position : Pos) (s : State) : State :=
  { s with capture := { s.capture with
      frame := s.capture.frame.map (fun f => { f with results := f.results.set k (some position) }) } }

/-- A unit's accepted edge finishes its window and is its result in the frame (R46). -/
def acceptUnit (k : Fin 7) (position : Pos) (c : ChannelRecord) (s : State) : State :=
  setResult k position (putChannel (.unit k) (c.accept position).shut s)

/-- Strays for a number of pending edges (R46). -/
def ChannelRecord.strayed (n : Nat) (c : ChannelRecord) : ChannelRecord :=
  { c with strays := addHeld max16 c.strays n }

/-- A unit's pending list is judged against its window at the opening of a frame, and then emptied (R45, R46). A
pending position equal to the last accepted one is judged by the bounds alone (assumption 51). -/
def openUnit (c0 : Pos) (k : Fin 7) (s : State) : State :=
  let c := s.channel (.unit k)
  let v := s.recipe.window
  let x := unitCentre s.recipe c0 k
  if !c.enabled then s
  else
    match c.edges.find? (fun p => decide (x - v ≤ p ∧ p ≤ x + v)) with
    | some p => acceptUnit k p ({ c with edges := [] }.strayed (c.edges.length - 1)) s
    | none =>
      let c1 := { c with edges := [] }.strayed c.edges.length
      putChannel (.unit k) (if x + v < s.web.w then c1.shut else c1.arm s.web.w v x) s

/-- An accepted key capture opens a frame (R45). -/
def openFrame (c0 : Pos) (s : State) : State :=
  (allRows 7).foldl (fun s k => openUnit c0 k s)
    { s with capture := { s.capture with frame := some ⟨c0, Table.replicate 7 none⟩ } }

/-- The point at which the open frame closes has been reached (R47). -/
def frameDue (s : State) : Option Frame :=
  match s.capture.frame with
  | some f => if f.c0 + s.recipe.half ≤ s.web.w then some f else none
  | none => none

/-- A unit channel at a frame close: a result of none counts a miss, and no window stands (R47). -/
def closeUnit (f : Frame) (k : Fin 7) (s : State) : State :=
  let c := s.channel (.unit k)
  if !c.enabled then s
  else
    let c1 := if (f.results.get k).isNone then c.miss else c
    putChannel (.unit k) c1.shut s

/-- The frame's unit channels are closed and no frame is open (R47). -/
def finishFrame (f : Frame) (s : State) : State :=
  let s1 := (allRows 7).foldl (fun s k => closeUnit f k s) s
  { s1 with capture := { s1.capture with frame := none } }

/-- A frame closes: it is handed to the register controller, and then to the roll former (R47, R115). -/
def closeFrame (s : State) : State :=
  match frameDue s with
  | some f => endWasteAt f.c0 (registerFrame f (finishFrame f s))
  | none => s

/-- FRAME_CLOSE (R47). -/
def execFrameClose (s : State) : Host.Outcome State Fault Refusal := .next (closeFrame s)

/-! ### Key-type channels (R40 to R44) -/

/-- A key-type channel's record after an acceptance at `c`: TRACK, with the next window one step on (R40,
R41). -/
def trackAt (r : Recipe) (ch : Channel) (c : Pos) (x : ChannelRecord) : ChannelRecord :=
  ({ x with state := .track }.accept c).arm c (halfWidth r ch) (c + keyStep r ch)

/-- An accepted MK0 capture: the repeat clock takes it, it opens a frame, and the phased channels follow k0
(R42, R45, R49). -/
def acceptKey (s : State) : State :=
  let c : Pos := s.web.w
  let x := s.channel .mk0
  let s1 := keyCapture c x (putChannel .mk0 (trackAt s.recipe .mk0 c x) s)
  phasedFollowAll s.clock.k0 (openFrame c s1)

/-- An accepted IDX capture is an emboss frame (R44). -/
def acceptIndex (s : State) : State :=
  let c : Pos := s.web.w
  embossFrame c (putChannel .idx (trackAt s.recipe .idx c (s.channel .idx)) s)

/-- MK0 returns to SEEK: k0 becomes undefined, the units go to ACQUIRE, an UNVERIFIED span opens, and the phased
channels drop their windows (R43, R49, R71). -/
def keyReturned (s : State) : State :=
  phasedDrop
    (openUnverified
      (eachUnit (fun _ c => reacquire c) { s with clock := { s.clock with k0 := none } }))

/-- A key-type channel's return to SEEK reaches the blocks it feeds (R43, R44). -/
def returned (ch : Channel) (s : State) : State :=
  match ch with
  | .mk0 => keyReturned s
  | .idx => idxReturned s
  | .unit _ | .mke | .mkw => s

/-- A key-type channel's record in SEEK, with its window closed (R41, R48). -/
def ChannelRecord.seek (c : ChannelRecord) : ChannelRecord := { c.shut with state := .seek }

/-- A key-type window that ended with no accepted edge, centred at `x` (R41). -/
def missKey (ch : Channel) (x : Pos) (s : State) : State :=
  let c := (s.channel ch).miss
  if 4 ≤ c.run then returned ch (putChannel ch c.seek s)
  else
    putChannel ch
      ({ c with state := .coast }.arm s.web.w (halfWidth s.recipe ch) (x + keyStep s.recipe ch)) s

/-! ### WINDOW_OPEN and WINDOW_END (R39) -/

/-- An armed window opens (R39). -/
def openWindow (ch : Channel) (s : State) : State :=
  if windowOpenDue ch s then putChannel ch { s.channel ch with window := .opened } s else s

/-- WINDOW_OPEN (R39). -/
def execWindowOpen (ch : Channel) (s : State) : Host.Outcome State Fault Refusal := .next (openWindow ch s)

/-- A window ends with no accepted edge, by the rule of the channel's kind (R41, R46, R50). -/
def endWindow (ch : Channel) (s : State) : State :=
  if windowEndDue ch s then
    let x := (s.channel ch).centre.getD 0
    match ch with
    | .mk0 => missKey .mk0 x s
    | .idx => missKey .idx x s
    | .unit k => putChannel (.unit k) (s.channel (.unit k)).shut s
    | .mke => phasedNext .mke x (putChannel .mke (s.channel .mke).miss s)
    | .mkw => phasedNext .mkw x (putChannel .mkw (s.channel .mkw).miss s)
  else s

/-- WINDOW_END (R39). -/
def execWindowEnd (ch : Channel) (s : State) : Host.Outcome State Fault Refusal := .next (endWindow ch s)

/-! ### MARK_EDGE (R38, R39) -/

/-- An edge taken by a key-type channel: the first one in SEEK, or one in the window, is accepted (R39 to
R41). In SEEK it is accepted wherever it falls, also at the position that the channel accepted last
(assumption 56). -/
def keyEdge (ch : Channel) (accept : State → State) (s : State) : State :=
  let c := s.channel ch
  if c.state = .seek ∨ c.accepts s.web.w (halfWidth s.recipe ch) then accept s
  else putChannel ch c.stray s

/-- An edge joins a unit's pending list; the oldest of 4 is dropped as a stray (R46). -/
def ChannelRecord.pend (w : Pos) (c : ChannelRecord) : ChannelRecord :=
  if 4 ≤ c.edges.length then { c with edges := c.edges.drop 1 ++ [w] }.stray
  else { c with edges := c.edges ++ [w] }

/-- An edge taken by a unit channel (R46). -/
def unitEdge (k : Fin 7) (s : State) : State :=
  let c := s.channel (.unit k)
  if s.capture.frame.isNone then putChannel (.unit k) (c.pend s.web.w) s
  else if c.accepts s.web.w s.recipe.window then acceptUnit k s.web.w c s
  else putChannel (.unit k) c.stray s

/-- An accepted capture of a phased channel is handed on, and the next window is armed (R49, R50). -/
def acceptPhased (ch : Channel) (hand : State → State) (s : State) : State :=
  let c := s.channel ch
  hand (phasedNext ch (c.centre.getD 0) (putChannel ch (c.accept s.web.w) s))

/-- An edge taken by a phased channel (R50). -/
def phasedEdge (ch : Channel) (hand : State → State) (s : State) : State :=
  let c := s.channel ch
  if c.accepts s.web.w s.recipe.window then acceptPhased ch hand s else putChannel ch c.stray s

/-- An edge of the selected polarity on an enabled channel (R38). -/
def takeEdge (ch : Channel) (s : State) : State :=
  match ch with
  | .mk0 => keyEdge .mk0 acceptKey s
  | .idx => keyEdge .idx acceptIndex s
  | .unit k => unitEdge k s
  | .mke => phasedEdge .mke (holdMke s.web.w) s
  | .mkw => phasedEdge .mkw (takeTransport s.web.w) s

/-- Whether the channel takes an edge: enabled, no reverse debt, and the polarity its bit selects (R22,
R38). -/
def takesEdge (ch : Channel) (falling : Bool) (s : State) : Bool :=
  (s.channel ch).enabled && decide (s.web.debt = 0) && s.geometry.polarity.getLsbD ch.bit == falling

/-- An edge on a mark input (R38). -/
def markEdge (ch : Channel) (falling : Bool) (s : State) : State :=
  if takesEdge ch falling s then takeEdge ch s else s

/-- MARK_EDGE (R38, R39). -/
def execMarkEdge (ch : Channel) (falling : Bool) (s : State) : Host.Outcome State Fault Refusal :=
  .next (markEdge ch falling s)

/-! ### COASTING_BOUNDARY (R28) -/

/-- The coasting boundary of a RUNNING clock has been reached (R28). -/
def coastDue (s : State) : Bool := s.clock.state == .running && decide (coastPoint s ≤ s.web.w)

/-- A coasting boundary, after which armed phased windows are placed with the new k0 (R28, R49). -/
def coastingBoundary (s : State) : State :=
  if coastDue s then phasedFollowAll s.clock.k0 (coast s) else s

/-- COASTING_BOUNDARY (R28). -/
def execCoastingBoundary (s : State) : Host.Outcome State Fault Refusal := .next (coastingBoundary s)

/-! ### Enabling, disabling and breaks (R36, R48) -/

/-- A channel's record with the channel enabled. -/
def ChannelRecord.enable (c : ChannelRecord) : ChannelRecord := { c with enabled := true }

/-- A channel's record with the channel disabled: no window stands and pending edges are discarded uncounted
(R36). -/
def ChannelRecord.disable (c : ChannelRecord) : ChannelRecord := { c.shut with enabled := false, edges := [] }

/-- START from SETUP enables MK0, MKW, the units in use, and with emboss enabled MKE and IDX (R36). -/
def enableChannels (s : State) : State :=
  let emboss := s.recipe.embossEnabled
  let x := s.capture
  { s with capture := { x with
      mk0 := x.mk0.enable
      mkw := x.mkw.enable
      mke := if emboss then x.mke.enable else x.mke
      idx := if emboss then x.idx.enable else x.idx
      units := (allRows 7).foldl
        (fun t k => if s.recipe.usesUnit k then t.modify k ChannelRecord.enable else t) x.units } }

/-- Every channel is disabled and a frame that stands open is abandoned (R36, R48). -/
def disableChannels (s : State) : State :=
  let x := s.capture
  { s with capture :=
    { mk0 := x.mk0.disable, units := x.units.map ChannelRecord.disable, mke := x.mke.disable
      idx := x.idx.disable, mkw := x.mkw.disable, frame := none } }

/-- A unit channel at a break: its window closes and its pending edges are strays (R48). -/
def ChannelRecord.broken (c : ChannelRecord) : ChannelRecord :=
  { c with edges := [] }.strayed c.edges.length |>.shut

/-- A break acts on the capture unit: the frame is abandoned, pending edges are strays, and MK0 and IDX return
to SEEK (R48). -/
def breakChannels (s : State) : State :=
  let x := s.capture
  idxReturned
    (keyReturned
      { s with capture := { x with
          mk0 := x.mk0.seek, idx := x.idx.seek, units := x.units.map ChannelRecord.broken, frame := none } })

end Sys2Proof.Machine
end

