-- ==== Sys2Proof/Machine/Encoder.lean ====
section
/-!
DEFINITION. The web counter (02): forward, reverse and fault steps of the encoder, and the events of the web
position that a forward step finds reached and not yet taken.
-/

namespace Sys2Proof.Machine

/-- The next state of the pair in its forward cycle (R20). -/
def EncoderPair.forward : EncoderPair → EncoderPair
  | .bothLow => .aHigh | .aHigh => .bothHigh | .bothHigh => .bHigh | .bHigh => .bothLow

/-- The state before it in the cycle (R20). -/
def EncoderPair.backward : EncoderPair → EncoderPair
  | .bothLow => .bHigh | .aHigh => .bothLow | .bothHigh => .aHigh | .bHigh => .bothHigh

/-- Both inputs changed together (R20). -/
def EncoderPair.flipped : EncoderPair → EncoderPair
  | .bothLow => .bothHigh | .aHigh => .bHigh | .bothHigh => .bothLow | .bHigh => .aHigh

/-- The web counter changed by `f`. -/
def modifyWeb (f : WebCounter → WebCounter) (s : State) : State := { s with web := f s.web }

/-- Every channel, in the order of the channel table. -/
def allChannels : List Channel := [.mk0] ++ (allRows 7).map Channel.unit ++ [.mke, .idx, .mkw]

/-- Each event of the web position that is reached at the present w and has not been taken is taken, in one fixed
order of those that R24 allows (assumption 2). -/
def settleEvents (s : State) : State :=
  let s1 := coastingBoundary (allChannels.foldl (fun s ch => openWindow ch s) (reachWatches s))
  let s2 := closeFrame (allChannels.foldl (fun s ch => endWindow ch s) s1)
  let s3 := confirmTimeout (endPulse s2)
  forceWasteEnd (strobeDeassert (strobe (cutDue s3)))

/-- A forward step pays off reverse debt; the limit flag is cleared when none is left (R21, R22). -/
def payDebt (x : WebCounter) : WebCounter :=
  { x with debt := x.debt - 1, reverseLimit := x.reverseLimit && decide (x.debt ≠ 1) }

/-- The web position advances by 1, the phase with it, and LENGTH is re-evaluated; a step beyond the greatest
position is discarded and sets the length-limit flag (R23, R28, R19). -/
def advanceWeb (s : State) : State :=
  if s.web.w < max32 then
    evalHolds
      { s with
        web := { s.web with w := s.web.w + 1 }
        clock := s.clock.advance s.recipe }
  else modifyWeb (fun x => { x with lengthLimit := true }) s

/-- A forward step of the pair (R20, R21). -/
def forwardStep (s : State) : State :=
  let s1 := modifyWeb (fun x => { x with pair := x.pair.forward }) s
  if s.line.state = .noOrder then s1
  else if 0 < s.web.debt then modifyWeb payDebt s1
  else advanceWeb (settleEvents s1)

/-- FORWARD_STEP (R21). -/
def execForwardStep (s : State) : Host.Outcome State Fault Refusal := .next (forwardStep s)

/-- The reverse debt increases by 1; at its limit the step is discarded and sets the reverse-limit flag
(R22). -/
def addDebt (x : WebCounter) : WebCounter :=
  if x.debt < max16 then { x with debt := x.debt + 1 } else { x with reverseLimit := true }

/-- A reverse step of the pair (R20 to R22). -/
def reverseStep (s : State) : State :=
  let s1 := modifyWeb (fun x => { x with pair := x.pair.backward }) s
  if s.line.state = .noOrder then s1 else modifyWeb addDebt s1

/-- REVERSE_STEP (R22). -/
def execReverseStep (s : State) : Host.Outcome State Fault Refusal := .next (reverseStep s)

/-- A fault step adds 1 to the encoder fault count (R20). -/
def faultStep (s : State) : State :=
  modifyWeb (fun x => { x with pair := x.pair.flipped, faults := bump max16 x.faults }) s

/-- FAULT_STEP (R20). -/
def execFaultStep (s : State) : Host.Outcome State Fault Refusal := .next (faultStep s)

end Sys2Proof.Machine
end

