-- ==== Sys2Proof/Machine/LineControl.lean ====
section
/-!
DEFINITION. Line control (01): opening and closing an order, the recipe and geometry writes, tuning, START,
STOP and BREAK, and the cold reset.
-/

namespace Sys2Proof.Machine

/-! ### ORDER_OPEN (R3, R4) -/

/-- The GEOMETRY_READ of cold reset has not ended (R3, R17). -/
def geometryReadPending (s : State) : Bool := s.store.queue.contains .geometryRead

/-- The lowest slot whose header holds the order number in a state other than EMPTY; one that is erase pending
is passed over (R3 path 1, R178). -/
def slotHolding (order : Nat) (s : State) : Option (Fin 4) :=
  (s.store.directory.which
    (fun d => d.state != .empty && d.order == some order && !d.erasePending)).head?

/-- The lowest EMPTY slot; one that is erase pending is passed over (R3 path 2, R178). -/
def emptySlot (s : State) : Option (Fin 4) :=
  (s.store.directory.which (fun d => d.state == .empty && !d.erasePending)).head?

/-- An order opens in SETUP without a read: run 1, the default recipe and an empty batch table (R3 paths 2
and 3, R5). -/
def openFresh (order : Nat) (slot : Option (Fin 4)) (s : State) : State :=
  enterLineState .setup
    (initRun [] 0
      { s with
        recipe := .default
        line := { s.line with
          order := some order, run := some 1, slot := slot, journalling := slot.isSome } })

/-- The directory entry of a claimed slot (R172). -/
def claimEntry (order : Nat) (d : DirectoryEntry) : DirectoryEntry :=
  { d with state := .active, order := some order, run := 1, count := 0, full := false }

/-- An EMPTY slot is claimed: its HEADER_WRITE and the RECIPE_WRITE of the default recipe are queued (R3 path
2). -/
def claimSlot (order : Nat) (n : Fin 4) (s : State) : State :=
  enqueue (.recipeWrite n .default)
    (enqueue (.headerWrite n .active)
      (headerContent n (claimEntry order) (openFresh order (some n) s)))

/-- An order is resumed from a slot: the line enters OPENING and a SLOT_READ is queued (R4). -/
def resumeSlot (p : Port) (order : Nat) (n : Fin 4) (s : State) : State :=
  enqueue (.slotRead n)
    (keepExecuting p Req.orderOpen.role.code .opening
      (enterLineState .opening
        { s with line := { s.line with order := some order, slot := some n } }))

/-- ORDER_OPEN(order number, unstored flag) (R3). -/
def orderOpenBody (p : Port) (args : List Byte) (s : State) : State :=
  let order := argNat args 0 4
  if ¬ (1 ≤ order ∧ order ≤ 999999) ∨ 1 < argNat args 4 1 then answer .orderOpen p .range s
  else if geometryReadPending s then answer .orderOpen p .busy s
  else
    match slotHolding order s with
    | some n => if s.storeFull then answer .orderOpen p .busy s else resumeSlot p order n s
    | none =>
      match emptySlot s with
      | some n =>
        if 7 ≤ s.storeCount then answer .orderOpen p .busy s
        else answerOk .orderOpen p (claimSlot order n s)
      | none =>
        if argNat args 4 1 = 1 then answerOk .orderOpen p (openFresh order none s)
        else answer .orderOpen p .noSlot s

/-- ORDER_OPEN (R3). -/
def execOrderOpen (p : Port) (args : List Byte) (s : State) : Host.Outcome State Fault Refusal :=
  .next (takeRequest .orderOpen p args (orderOpenBody p args) s)

/-! ### ORDER_CLOSE (R15, R16) -/

/-- The emboss channel enters OFF and the nip is PARKED (R15, R75, R86). -/
def parkEmboss (s : State) : State := enterNip .parked (putEmboss (switchOff s.emboss.channel) s)

/-- The line enters CLOSING (R15). -/
def enterClosing (s : State) : State :=
  let s1 := enterLineState .closing
    { s with line := { s.line with breakFlag := false, stagedTune := none } }
  closingCut (haltClock (parkEmboss (eachUnit (fun _ c => switchOff c) (disableChannels s1))))

/-- ORDER_CLOSE (R15). -/
def orderCloseBody (p : Port) (s : State) : State :=
  advanceClosing (enterClosing (answerOk .orderClose p s))

/-- ORDER_CLOSE (R15). -/
def execOrderClose (p : Port) (args : List Byte) (s : State) : Host.Outcome State Fault Refusal :=
  .next (takeRequest .orderClose p args (orderCloseBody p) s)

/-! ### RECIPE_WRITE (R7) -/

/-- The order has a slot and the store queue is full (R7). -/
def storeRefuses (s : State) : Bool := s.line.slot.isSome && s.storeFull

/-- A clamped recipe comes into force, and is queued for the order's slot (R7). -/
def putRecipe (r : Recipe) (s : State) : State :=
  let s1 := { s with recipe := r }
  match s.line.slot with
  | some n => enqueue (.recipeWrite n r) s1
  | none => s1

/-- RECIPE_WRITE (R7). -/
def recipeWriteBody (p : Port) (s : State) : State :=
  let words := (s.port p).wholeWords
  if (s.port p).toStation then answer .recipeWrite p .fifoDir s
  else if words.length ≠ 128 then answer .recipeWrite p .fifoCount s
  else if storeRefuses s then answer .recipeWrite p .busy s
  else
    let given := Recipe.ofBytes words
    respond p Req.recipeWrite.role.code .ok
      (clampReport (clampedIds 1 given.fields.rows given.clamp.fields.rows)) (putRecipe given.clamp s)

/-- RECIPE_WRITE (R7). -/
def execRecipeWrite (p : Port) (args : List Byte) (s : State) : Host.Outcome State Fault Refusal :=
  .next (takeRequest .recipeWrite p args (recipeWriteBody p) s)

/-! ### RECIPE_TUNE (R12) -/

/-- The identifiers whose value a clamp replaced. -/
def tuneClamped (given clamped : Tune) : List Nat :=
  (given.zip clamped).filterMap (fun x => if x.1.2 = x.2.2 then none else some x.1.1)

/-- A clamped tune is applied at once in STOPPED and staged in RUN (R12). -/
def takeTune (t : Tune) (s : State) : State :=
  if s.line.state = .run then
    { s with line := { s.line with stagedTune := some (mergeTune (s.line.stagedTune.getD []) t) } }
  else applyTune t s

/-- RECIPE_TUNE (R12). -/
def recipeTuneBody (p : Port) (s : State) : State :=
  let words := (s.port p).wholeWords
  let ids := presentIds (natOfBytes (words.take 8))
  if (s.port p).toStation then answer .recipeTune p .fifoDir s
  else if words.length < 8 ∨ words.length ≠ 8 + 2 * ids.length then answer .recipeTune p .fifoCount s
  else if ids.any (fun id => (softRow id).isNone) then answer .recipeTune p .range s
  else
    let given := readTune ids (words.drop 8)
    respond p Req.recipeTune.role.code .ok (clampReport (tuneClamped given (clampTune given)))
      (if ids.isEmpty then s else takeTune (clampTune given) s)

/-- RECIPE_TUNE (R12). -/
def execRecipeTune (p : Port) (args : List Byte) (s : State) : Host.Outcome State Fault Refusal :=
  .next (takeRequest .recipeTune p args (recipeTuneBody p) s)

/-! ### GEOMETRY_WRITE (R17) -/

/-- A clamped geometry comes into use and is queued for the store (R17, R18). -/
def putGeometry (g : Geometry) (s : State) : State :=
  enqueue (.geometryWrite g)
    { s with geometry := g, line := { s.line with geometryValid := true } }

/-- GEOMETRY_WRITE (R17). -/
def geometryWriteBody (p : Port) (s : State) : State :=
  let words := (s.port p).wholeWords
  if (s.port p).toStation then answer .geometryWrite p .fifoDir s
  else if words.length ≠ 50 then answer .geometryWrite p .fifoCount s
  else if geometryReadPending s || s.storeFull then answer .geometryWrite p .busy s
  else
    let given := Geometry.ofBytes words
    match given.clamp.brokenOrder with
    | some id => respond p Req.geometryWrite.role.code .range [lowByte id] s
    | none =>
      respond p Req.geometryWrite.role.code .ok
        (clampReport (clampedIds 1 given.values given.clamp.values)) (putGeometry given.clamp s)

/-- GEOMETRY_WRITE (R17). -/
def execGeometryWrite (p : Port) (args : List Byte) (s : State) : Host.Outcome State Fault Refusal :=
  .next (takeRequest .geometryWrite p args (geometryWriteBody p) s)

/-! ### START, STOP and BREAK (R9 to R11, R129) -/

/-- A unit channel at a START from SETUP: units in use enter ACQUIRE and the rest stay OFF (R10, R52). -/
def startUnit (r : Recipe) (k : Fin 7) (c : RegisterChannel) : ChannelStep :=
  if r.usesUnit k then enterState .acquire (c, .none) else (c, .none)

/-- The emboss channel and the nip at a START from SETUP, with the first judgment of the order (R10, R75, R86,
R92). -/
def startEmboss (s : State) : State :=
  if s.recipe.embossEnabled then
    judgeEmboss
      (enterNip .opened (putEmboss (enterState .acquire (s.emboss.channel, .none)) s))
  else s

/-- START taken from SETUP (R10). -/
def startFromSetup (s : State) : State :=
  let s1 := eachUnit (startUnit s.recipe) (enableChannels (enterLineState .run s))
  beginWaste 0 (startClock (startEmboss s1))

/-- START taken from STOPPED (R10). -/
def startFromStopped (s : State) : State :=
  if s.line.breakFlag then
    beginWaste (knifeFrame s) (setBreakFlag false (enterLineState .run s))
  else enterLineState .run s

/-- START (R9, R10). -/
def startBody (p : Port) (s : State) : State :=
  match startFailure s.recipe s.geometry s.line.geometryValid with
  | some (check, unit) =>
    respond p Req.start.role.code .invalid [lowByte check, lowByte unit] s
  | none =>
    answerOk .start p (if s.line.state = .setup then startFromSetup s else startFromStopped s)

/-- START (R10). -/
def execStart (p : Port) (args : List Byte) (s : State) : Host.Outcome State Fault Refusal :=
  .next (takeRequest .start p args (startBody p) s)

/-- STOP (R11). -/
def stopBody (p : Port) (s : State) : State :=
  answerOk .stop p (enterLineState .stopped (setBreakFlag false (discardTune s)))

/-- STOP (R11). -/
def execStop (p : Port) (args : List Byte) (s : State) : Host.Outcome State Fault Refusal :=
  .next (takeRequest .stop p args (stopBody p) s)

/-- The nip and the emboss tracker at a break: the held capture becomes absent, the nip is ordered open unless it
is PARKED, and the tracker judges after the emptying of the map (R77, R90, R92). -/
def breakEmboss (s : State) : State :=
  let s1 := { s with emboss := { s.emboss with held := none } }
  judgeEmboss (if s1.emboss.nip.state = .parked then s1 else orderNipOpen .brk s1)

/-- Step 3 of a break: the map and the sample queue are emptied and the other blocks act (R129, R105, R48, R90,
R35). -/
def breakBlocks (s : State) : State :=
  forgetMeasured
    (breakEmboss (breakChannels (emptySamples { s with map := emptyMap s.map })))

/-- A break taken in STOPPED with no plan, which only sets the break flag (R129). -/
def onlyBreakFlag (s : State) : Bool := s.line.state == .stopped && s.roll.plan.isNone

/-- A break that is taken (R129, R11). -/
def takeBreak (s : State) : State :=
  if onlyBreakFlag s then setBreakFlag true s
  else
    setBreakFlag true (enterLineState .stopped (discardTune (breakBlocks (breakRolls s))))

/-- BREAK (R129). -/
def brkBody (p : Port) (s : State) : State := answerOk .brk p (takeBreak s)

/-- BREAK (R129). -/
def execBrk (p : Port) (args : List Byte) (s : State) : Host.Outcome State Fault Refusal :=
  .next (takeRequest .brk p args (brkBody p) s)

/-! ### COLD_RESET (R1) -/

/-- The part after a cold reset: every block at its cold reset values, the non-volatile content as an
interrupted operation leaves it (R165, R169). The levels of the input pins, the numbering of free values and the
commands that wait are not the part's to reset (assumption 3). -/
def resetPart (s : State) : State :=
  let s1 := interruptStore s
  { State.reset with
    web := { WebCounter.initial with pair := s.web.pair }
    store := .initial s.store.enabled
    nv := s1.nv
    fresh := s1.fresh
    pending := s.pending }

/-- COLD_RESET (R1). -/
def execColdReset (s : State) : Host.Outcome State Fault Refusal := .next (resetPart s)

end Sys2Proof.Machine
end

