-- ==== Sys2Proof/Machine/View.lean ====
section
/-!
DEFINITION. The view space (11): the read-only images of the part's state, word by word. The line status block
and the record images that have a layout of their own follow it. The other images give the parts of their
records in the order of the record tables, a value that may be absent behind a word that says whether it is present
(11). That a value that is absent takes no word but that one, and a list its number and the elements it holds, is the
model's choice (assumption 11). A named value for which the manual gives no code takes a free one (assumption 12).
-/

namespace Sys2Proof.Machine

/-! ### Words -/

/-- A number in one word. -/
def word (n : Nat) : List Word16 := [BitVec.ofNat 16 n]

/-- A number in two words, low word first. -/
def word2 (n : Nat) : List Word16 := [BitVec.ofNat 16 n, BitVec.ofNat 16 (n / 65536)]

/-- A signed number in one word, two's complement. -/
def wordInt (v : Int) : List Word16 := [BitVec.ofInt 16 v]

/-- A position in two words, low word first. One beyond 4,294,967,295, as a window centre, a splice or a planned end can
be (R24), shows its low 32 bits, and a negative one its two's complement: the model's choice (assumption 59). -/
def wordPos (v : Pos) : List Word16 := [BitVec.ofInt 16 v, BitVec.ofInt 16 (v / 65536)]

/-- A flag in one word. -/
def wordFlag (b : Bool) : List Word16 := word (bitOf b)

/-- A value that may be absent: a word that says whether it is present, and its words while it is (11). That an absent
value takes the presence word alone is the model's choice (assumption 11). -/
def wordsOpt {α : Type} (f : α → List Word16) : Option α → List Word16
  | some a => word 1 ++ f a
  | none => word 0

/-- A list: the number held, and the elements in order. That no place beyond them is shown is the model's choice
(assumption 11). -/
def wordsList {α : Type} (f : α → List Word16) (xs : List α) : List Word16 :=
  word xs.length ++ (xs.map f).flatten

/-- Bytes taken in pairs, low byte first, as words. -/
def wordsOfBytes : List Byte → List Word16
  | a :: b :: rest => (b ++ a) :: wordsOfBytes rest
  | [a] => [(0#8 ++ a)]
  | [] => []

/-- The code of a named value that the manual gives no code: enumeration `kind`, value `value`. -/
def codeWord (kind value : Nat) : List Word16 := [Config.viewCode kind value]

/-! ### Line status block (11) -/

/-- The code of a line state (11, "Line status block"). -/
def LineState.code : LineState → Nat
  | .noOrder => 0 | .opening => 1 | .setup => 2 | .run => 3 | .stopped => 4 | .closing => 5

/-- The code of a clock state (11, "Line status block"). -/
def ClockState.code : ClockState → Nat
  | .idle => 0 | .running => 1 | .halted => 2

/-- Word 1 of the line status block. -/
def lineFlags (s : State) : Nat :=
  bitsOf [s.line.breakFlag, s.line.stagedTune.isSome, s.line.geometryValid, s.line.journalling,
    s.line.holds.rolls, s.line.holds.labels, s.line.holds.length, s.web.reverseLimit, s.web.lengthLimit,
    s.clock.stretchOver, s.clock.k0.isSome, s.clock.stretch.isSome, s.rpo, s.cutStrobe, s.lineHold]

/-- The slot number of an order, 0 while absent. -/
def slotNumber (n : Option (Fin 4)) : Nat := (n.map (fun n => n.val + 1)).getD 0

/-- Word 35 of the line status block. -/
def planFlags (p : Plan) : Nat :=
  bitsOf [true, p.kind == .waste, p.phase == .closing, !p.matched, p.stop.isSome, p.following.isSome]

/-- The code of a roll record number, 255 for NONE. -/
def recordCode (i : Option (Fin 24)) : Nat := (i.map Fin.val).getD 255

/-- Words 35 to 42 of the line status block. A position that the plan does not hold reads 0 (assumption 45). -/
def planWords (p : Option Plan) : List Word16 :=
  match p with
  | some p =>
    word (planFlags p) ++ wordPos p.start ++ wordPos (p.stop.getD 0) ++ word (recordCode p.record)
      ++ wordPos ((p.following.map FollowingWaste.stop).getD 0)
  | none => word 0 ++ wordPos 0 ++ wordPos 0 ++ word 255 ++ wordPos 0

/-- The first places of a list of signed numbers, 0 beyond the number held, which the table states of the measured
repeats alone (assumption 45). -/
def placesOf (count : Nat) (xs : List Int) : List Word16 :=
  ((xs.map wordInt).flatten ++ List.replicate count 0).take count

/-- The 64-word line status block (11). Words 13 and 14 read 0 while k0 is undefined and word 15 reads 0 while the
stretch is absent, for which the table gives no value (assumption 45). -/
def lineBlock (s : State) : List Word16 :=
  word s.line.state.code ++ word (lineFlags s) ++ word2 (s.line.order.getD 0)
    ++ word (s.line.run.getD 0 + 256 * slotNumber s.line.slot)
    ++ word2 s.web.w ++ word s.web.debt ++ word s.web.faults
    ++ word s.clock.state.code ++ word s.clock.phase ++ word2 s.clock.index
    ++ wordPos (s.clock.k0.getD 0) ++ wordInt (s.clock.stretch.getD 0) ++ word s.clock.measured.length
    ++ placesOf 8 s.clock.measured
    ++ [0#0 ++ s.ports.quality.nibble ++ s.ports.winder.nibble ++ s.ports.emboss.nibble
        ++ s.ports.press.nibble]
    ++ wordInt (transportMean s) ++ word s.roll.transport.length ++ placesOf 4 s.roll.transport
    ++ word2 s.roll.wasteTotal ++ word s.roll.lostSegments ++ planWords s.roll.plan
    ++ word2 s.roll.cutCount ++ word2 (s.roll.lastUnconfirmed.getD 0) ++ List.replicate 17 0

/-! ### Channel table (R51) -/

/-- The number of a window state. -/
def WindowState.index : WindowState → Nat
  | .closed => 0 | .armed => 1 | .opened => 2

/-- The number of a key-type channel state. -/
def KeyState.index : KeyState → Nat
  | .seek => 0 | .track => 1 | .coast => 2

/-- A channel record in the order of R37; the state stands for the key-type channels alone and the pending edges
for the unit channels. -/
def channelWords (ch : Channel) (c : ChannelRecord) : List Word16 :=
  let state : List Word16 := match ch with
    | .mk0 | .idx => codeWord 1 c.state.index
    | .unit _ | .mke | .mkw => []
  let edges : List Word16 := match ch with
    | .unit _ => wordsList wordPos c.edges
    | .mk0 | .idx | .mke | .mkw => []
  wordFlag c.enabled ++ state ++ codeWord 0 c.window.index ++ wordsOpt wordPos c.centre
    ++ wordsOpt wordPos c.lastAccepted ++ edges ++ word c.strays ++ word c.misses ++ word c.run

/-- The unit channels of the channel table. -/
def unitChannelWords (s : State) : List Word16 :=
  ((allRows 7).map (fun k => channelWords (.unit k) (s.channel (.unit k)))).flatten

/-- The channel table (R51): the eleven channels in the order of the table at the head of 03, MK0 with the c0 of the
open frame. That this is their order in the view, and that c0 stands right after MK0's record, is the model's choice
(assumption 54). -/
def channelTable (s : State) : List Word16 :=
  channelWords .mk0 s.capture.mk0 ++ wordsOpt wordPos (s.capture.frame.map Frame.c0)
    ++ unitChannelWords s ++ channelWords .mke s.capture.mke ++ channelWords .idx s.capture.idx
    ++ channelWords .mkw s.capture.mkw

/-! ### Unit and emboss channel table (R74, R93) -/

/-- The number of a register channel state. -/
def RegisterState.index : RegisterState → Nat
  | .off => 0 | .acquire => 1 | .locked => 2 | .hold => 3 | .limit => 4

/-- An outstanding trim. -/
def Trim.words (t : Trim) : List Word16 :=
  word t.sequence.toNat ++ wordInt t.delta ++ word2 t.postedAt ++ wordFlag t.timedOut

/-- A register channel record in the order of its table (04). -/
def RegisterChannel.words (c : RegisterChannel) : List Word16 :=
  codeWord 2 c.state.index ++ wordsList wordInt c.samples ++ word c.sinceEvaluation ++ word c.lockCount
    ++ word c.misses ++ wordInt c.trim ++ wordsOpt Trim.words c.outstanding ++ wordPos c.settleBoundary
    ++ wordsOpt wordInt c.lastError ++ word c.discarded ++ word c.withheld ++ word c.sequence.toNat

/-- The number of a nip state. -/
def NipState.index : NipState → Nat
  | .parked => 0 | .opened => 1 | .ready => 2 | .closed => 3 | .opening => 4

/-- The number of a closed verdict. -/
def ClosedVerdict.index : ClosedVerdict → Nat
  | .nothing => 0 | .within => 1 | .exceeded => 2

/-- The number of a close cause. -/
def CloseCause.index : CloseCause → Nat
  | .permitted => 0 | .unpermitted => 1

/-- The number of an order reason. -/
def OrderReason.index : OrderReason → Nat
  | .tolerance => 0 | .acquire => 1 | .brk => 2

/-- The number of an open cause. -/
def OpenCause.index : OpenCause → Nat
  | .ordered => 0 | .operator => 1

/-- The nip record in the order of its table (05). -/
def Nip.words (n : Nip) : List Word16 :=
  codeWord 4 n.state.index ++ word n.closeRun ++ codeWord 5 n.verdict.index ++ word n.toleranceRun
    ++ wordsOpt (fun x => codeWord 6 (CloseCause.index x)) n.closeCause
    ++ wordsOpt (fun x => codeWord 7 (OrderReason.index x)) n.orderReason
    ++ wordsOpt (fun x => codeWord 8 (OpenCause.index x)) n.openCause

/-- The emboss channel's row and the tracker's own records (R93): unpaired count and held capture, as in the table of
05, then the emboss frame record and the nip. That the held capture stands before the frame record, which R93 names
first, is the model's choice (assumption 55). -/
def EmbossTracker.words (x : EmbossTracker) : List Word16 :=
  x.channel.words ++ word x.unpaired
    ++ wordsOpt (fun h => wordPos (HeldCapture.position h) ++ wordFlag h.used) x.held
    ++ word2 x.frameIndex ++ wordsOpt wordPos x.lastCi ++ wordsOpt wordPos x.lastCe
    ++ wordsOpt wordInt x.frameError ++ x.nip.words

/-- The frame record and the two suspending functions (R74). The c0 of the last frame has a presence word, since it
is absent before the first one (assumption 46). -/
def frameRecordWords (x : RegisterControl) : List Word16 :=
  word2 x.frameIndex ++ wordsOpt wordPos x.lastC0 ++ wordsOpt wordFlag x.verdict
    ++ wordsOpt (fun k => word (Fin.val k + 1)) x.offender ++ wordFlag x.trimHold
    ++ wordFlag x.sampleFlush

/-- The unit and emboss channel table (R74, R93). The emboss channel is its last row (05); that the frame record and
the two functions stand between unit 7 and that row is the model's choice (assumption 55). -/
def unitTable (s : State) : List Word16 :=
  (s.register.units.rows.map RegisterChannel.words).flatten ++ frameRecordWords s.register
    ++ s.emboss.words

/-! ### Web map, batch table and label queue images (R108, R152, R164) -/

/-- The number of a map kind. -/
def MapKind.index : MapKind → Nat
  | .register => 0 | .emboss => 1 | .defect => 2 | .splice => 3

/-- A detail in one word: the unit number or the defect class, or the code of a name. The detail none of a SPLICE is
such a name, with a code and no presence word, by the model's choice (assumption 58). -/
def Detail.words : Detail → List Word16
  | .unit k => word (k.val + 1)
  | .defectClass c => word c.val
  | .overflow => codeWord 10 0
  | .unverified => codeWord 10 1
  | .notClosed => codeWord 10 2
  | .outOfRegister => codeWord 10 3
  | .nothing => codeWord 10 4

/-- The kinds for which an entry stands in: absent, REGISTER, EMBOSS or both. -/
def MapEntry.standIn (e : MapEntry) : Option Nat :=
  match e.forRegister, e.forEmboss with
  | false, false => none
  | true, false => some 0
  | false, true => some 1
  | true, true => some 2

/-- The stand-in kinds and the pending end of an entry. An OVERFLOW entry holds them while it stands in for a kind (06),
which is while it is open; that any other entry takes no word for them is the model's choice (assumption 11). -/
def MapEntry.standInWords (e : MapEntry) : List Word16 :=
  match e.standIn with
  | some kinds => wordsOpt (codeWord 11) (some kinds) ++ wordsOpt wordPos e.pendingEnd
  | none => []

/-- A map entry in the order of the entry table (06): kind, start, end, detail, clamped, stand-in kinds and pending end
where it holds them, and age. A closed entry takes 10 words. -/
def MapEntry.words (e : MapEntry) : List Word16 :=
  codeWord 9 e.kind.index ++ wordPos e.start ++ wordsOpt wordPos e.stop ++ e.detail.words
    ++ wordFlag e.clamped ++ e.standInWords ++ word2 e.age

/-- The web map image (R108): the number of entries, the two counts, and each entry in map order. The 512 words that 11
gives it hold the 48 entries of a full map (`mapImage_length_le`). -/
def mapImage (m : WebMap) : List Word16 :=
  word m.entries.length ++ word2 m.additions ++ word m.overflows ++ (m.entries.map MapEntry.words).flatten

/-- The batch table image (R152). That a batch lies there as the 20 bytes of R148, two to a word, low byte first, is the
model's choice (assumption 64). -/
def batchImage (x : ShadeClassifier) : List Word16 :=
  word x.batches.length ++ word x.queue.length ++ wordFlag x.thin ++ word2 x.wasteSamples
    ++ (x.batches.map (fun b => wordsOfBytes b.bytes)).flatten

/-- The number of LABELLED records in a journal state (R164). -/
def journalCount (j : JournalState) (s : State) : Nat :=
  (s.roll.records.which (fun r => r.state == .labelled && r.journal == some j)).length

/-- The label queue image (R164). -/
def labelImage (s : State) : List Word16 :=
  wordsList (fun e => word (LabelEntry.record e).val ++ word2 e.roll) s.label.entries
    ++ word (s.roll.records.which (fun r => r.state == .graded)).length
    ++ word (journalCount .waiting s) ++ word (journalCount .queued s) ++ word (journalCount .writing s)
    ++ word s.label.unjournalled

/-! ### Store status (R181) -/

/-- The number of a directory state. -/
def SlotState.index : SlotState → Nat
  | .empty => 0 | .active => 1 | .closed => 2 | .degraded => 3

/-- A directory entry in the order of its table (10). -/
def DirectoryEntry.words (d : DirectoryEntry) : List Word16 :=
  codeWord 12 d.state.index ++ wordsOpt word2 d.order ++ word d.run ++ word d.count ++ wordFlag d.full
    ++ wordFlag d.erasePending

/-- The number of a port. -/
def Port.index : Port → Nat
  | .press => 0 | .emboss => 1 | .winder => 2 | .quality => 3

/-- The number of a stored header state. -/
def StoredState.index : StoredState → Nat
  | .empty => 0 | .active => 1 | .closed => 2

/-- The number of an operation. -/
def StoreOp.index : StoreOp → Nat
  | .geometryRead => 0 | .slotRead _ => 1 | .journalRead _ _ _ => 2 | .headerWrite _ _ => 3
  | .recipeWrite _ _ => 4 | .batchWrite _ _ => 5 | .journalAppend _ _ => 6 | .geometryWrite _ => 7
  | .slotErase _ => 8

/-- An operation's subject, for the four operations that have one (R167). -/
def StoreOp.subject : StoreOp → Option (List Word16)
  | .journalRead _ position p => some (word position ++ codeWord 18 p.index)
  | .headerWrite _ st => some (codeWord 17 st.index)
  | .batchWrite _ k => some (word k)
  | .journalAppend _ i => some (word i.val)
  | .geometryRead | .slotRead _ | .recipeWrite _ _ | .geometryWrite _ | .slotErase _ => none

/-- The target of an operation in one word: a slot's number, or the geometry record, a name to which the manual gives
no code and which takes a free one (assumption 12). -/
def targetWords : Option (Fin 4) → List Word16
  | some n => word (n.val + 1)
  | none => codeWord 16 0

/-- An operation with its target and its subject (R181). That an operation without a subject shows it as an absent
value is the model's choice (assumption 11). -/
def StoreOp.words (op : StoreOp) : List Word16 :=
  codeWord 13 op.index ++ targetWords op.slot? ++ wordsOpt id op.subject

/-- The number of the head's condition (R181). -/
def HeadState.index : HeadState → Nat
  | .absent => 0 | .waiting => 1 | .running _ => 2

/-- The number of a failure kind. -/
def FailureKind.index : FailureKind → Nat
  | .verify => 0 | .blank => 1 | .full => 2 | .degradedTarget => 3

/-- The last failure, its target as an operation's (R181). -/
def Failure.words (f : Failure) : List Word16 :=
  codeWord 13 f.op.index ++ targetWords f.target ++ codeWord 15 f.kind.index

/-- The purge progress in the coding of the status read (R186). -/
def Purge.code : Purge → Nat
  | .nothing => 0
  | .begun n => 1 + 16 * (n.val + 1)
  | .confirmed n => 2 + 16 * (n.val + 1)

/-- The store status image (R181). That the ports stand in it in the order P, E, W, Q is the model's choice
(assumption 62). -/
def storeImage (s : State) : List Word16 :=
  (s.store.directory.rows.map DirectoryEntry.words).flatten ++ wordFlag s.line.geometryValid
    ++ wordsList StoreOp.words s.store.queue ++ codeWord 14 s.store.head.index
    ++ wordFlag s.store.sampled ++ wordsOpt Failure.words s.store.lastFailure
    ++ (allPorts.map (fun p => wordFlag (s.port p).protect ++ word (s.port p).purge.code)).flatten

/-! ### The view space (11, "The view space"; R190) -/

/-- The word of the roll table at an offset from 1000h. -/
def rollWord (s : State) (offset : Nat) : Word16 :=
  match recordOfNumber (offset / 96) with
  | some i => (wordsOfBytes (s.record i).image).getD (offset % 96) 0
  | none => 0

/-- The word of an image of `size` words that starts at `start`, when it holds the address. -/
def imageWord (address start size : Nat) (image : List Word16) : Option Word16 :=
  if start ≤ address ∧ address < start + size then some ((image.take size).getD (address - start) 0) else none

/-- The word at an address of the view space (11, "The view space"). -/
def viewWord (s : State) (address : Word16) : Word16 :=
  let a := address.toNat
  if 0x1000 ≤ a then rollWord s (a - 0x1000)
  else
    ((imageWord a 0x0000 64 (lineBlock s)).or
      ((imageWord a 0x0040 64 (wordsOfBytes s.recipe.toBytes)).or
        ((imageWord a 0x0080 25 (wordsOfBytes s.geometry.toBytes)).or
          ((imageWord a 0x0100 256 (channelTable s)).or
            ((imageWord a 0x0200 512 (unitTable s)).or
              ((imageWord a 0x0400 512 (mapImage s.map)).or
                ((imageWord a 0x0600 256 (batchImage s.shade)).or
                  ((imageWord a 0x0700 128 (labelImage s)).or
                    (imageWord a 0x0780 128 (storeImage s)))))))))).getD 0

end Sys2Proof.Machine
end

