-- ==== Sys2Proof/WellFormed.lean ====
section
/-!
DEFINITION. Which commands can be spelled at all: the limits a request frame, an access byte and a
clocked-out reply keep.
-/

namespace Sys2Proof

open Sys2Proof.Machine (roleCodes)

/-- A request frame carries 0 to 8 argument bytes (11, "Requests and responses"). -/
def frameBytesOk (args : List Byte) : Bool := decide (args.length ≤ 8)

/-- The access bytes of the table of R182. -/
def isAccessByte (b : Byte) : Bool := decide (1 ≤ b.toNat ∧ b.toNat ≤ 12)

/-- The argument bytes of the request frame a command writes; none for every other command. -/
def Instr.frameBytes : Instr → List Byte
  | .orderOpen _ args | .orderClose _ args | .recipeWrite _ args | .recipeTune _ args
  | .geometryWrite _ args | .start _ args | .stop _ args | .trimFetch _ args | .trimApplied _ args
  | .trimHold _ args | .sampleFlush _ args | .embFetch _ args | .embApplied _ args
  | .nipClosed _ args | .nipOpened _ args | .defect _ args | .splice _ args | .cutFetch _ args
  | .cutDone _ args | .cutFailed _ args | .brk _ args | .rollFlag _ args | .readRoll _ args
  | .shadeSample _ args | .batchClose _ args | .readBatch _ args | .labelFetch _ args
  | .labelDone _ args | .labelSkip _ args | .purgeBegin _ args | .purgeConfirm _ args
  | .purgeCommit _ args | .clearProtect _ args | .journalRead _ args | .watchSet _ args
  | .requestUnknownCode _ _ args | .requestDiscarded _ args => args
  | .coldReset | .portReset _ | .forwardStep | .reverseStep | .faultStep | .markEdge _ _
  | .storeEnRise | .windowOpen _ | .windowEnd _ | .frameClose | .coastingBoundary | .rpoPulseEnd
  | .cutDue | .cutStrobe | .cutStrobeDeassert | .confirmTimeout | .wasteEndForced
  | .watchReached _ | .trimTimeout _ | .embTimeout | .geometryReadEnd _ | .slotReadEnd _
  | .journalReadEnd _ | .headerWriteEnd _ | .recipeWriteEnd _ | .batchWriteEnd _
  | .journalAppendEnd _ | .geometryWriteEnd _ | .slotEraseEnd _ | .responseRead _ _
  | .statusRead _ _ | .noticeClear _ _ | .noticeMaskWrite _ _ | .fifoDirection _ _ | .fifoFlush _
  | .fifoData _ _ | .viewPointerLoad _ _ | .viewDataRead _ _ | .stationFlagNibbleWrite _ _
  | .accessByteInvalid _ _ | .transactionCutShort _ _ | .fifoWordWritten _ | .storeEnFall => []

/-- The limits beyond the frame's length: a code that REQUEST_UNKNOWN_CODE names is in no row of the
role table (R183), an access byte that ACCESS_BYTE_INVALID names is outside the table of R182, a status
is 4 bytes (R186), and a response frame is at most 23 bytes (R185). -/
def Instr.codesOk : Instr → Bool
  | .requestUnknownCode _ code _ => !roleCodes.contains code
  | .accessByteInvalid _ access => !isAccessByte access
  | .statusRead _ count => decide (count ≤ 4)
  | .responseRead _ count => decide (count ≤ 23)
  | _ => true

/-- A command that a station or the line can make. -/
def Instr.wellFormed (i : Instr) : Bool := frameBytesOk i.frameBytes && i.codesOk

end Sys2Proof
end

