-- ==== Sys2Proof/Machine/Ports.lean ====
section
/-!
DEFINITION. The station ports (11): the access kinds other than a request write, the discarded and unknown
requests, the position watch, the purge sequence and journal reads of the order store, and the port reset.
-/

namespace Sys2Proof.Machine

/-! ### Responses and status (R185, R186) -/

/-- The value of a status code (R185). -/
def Status.code : Status → Byte
  | .ok => 0 | .okDegraded => 1 | .role => 2 | .state => 3 | .range => 4 | .busy => 5 | .full => 6
  | .notFound => 7 | .notHead => 8 | .tooLate => 9 | .fifoDir => 10 | .fifoCount => 11 | .noSlot => 12
  | .invalid => 13

/-- The response frame: code, status, result length and result bytes (R185). -/
def Response.frame (r : Response) : List Byte := [r.code, r.status.code, lowByte r.result.length] ++ r.result

/-- What a response read of an EMPTY slot returns (R185). -/
def emptyFrame : List Byte := [0x00#8, 0xFF#8]

/-- A response read in which `count` bytes are clocked out: the slot becomes EMPTY when the last byte of the
frame has been shifted out (R185). -/
def responseRead (p : Port) (count : Nat) (s : State) : State :=
  match (s.port p).response with
  | some r =>
    let s1 := s.shiftOut p (r.frame.take count)
    if r.frame.length ≤ count then s1.modifyPort p (fun x => { x with response := none }) else s1
  | none => s.shiftOut p (emptyFrame.take count)

/-- RESPONSE_READ (R185). -/
def execResponseRead (p : Port) (count : Nat) (s : State) : Host.Outcome State Fault Refusal :=
  .next (responseRead p count s)

/-- The unpaired byte is present: an odd number of bytes in a TO_PART FIFO (R187). -/
def PortState.unpaired (x : PortState) : Bool := !x.toStation && x.fifo.length % 2 == 1

/-- The flags byte of the status (R186). -/
def PortState.flagsByte (x : PortState) : Byte :=
  lowByte (bitsOf [x.overrun, x.frame, x.protect, x.unpaired])

/-- The four status bytes (R186). -/
def PortState.status (x : PortState) : List Byte :=
  [x.flagsByte] ++ bytesOfNat 2 x.fifo.length ++ [lowByte x.purge.code]

/-- A status read in which `count` bytes are clocked out: the overrun and frame flags are cleared once the flags
byte has been shifted out (R186). -/
def statusRead (p : Port) (count : Nat) (s : State) : State :=
  let s1 := s.shiftOut p ((s.port p).status.take count)
  if count = 0 then s1 else s1.modifyPort p (fun x => { x with overrun := false, frame := false })

/-- STATUS_READ (R186). -/
def execStatusRead (p : Port) (count : Nat) (s : State) : Host.Outcome State Fault Refusal :=
  .next (statusRead p count s)

/-! ### Notices (R191) -/

/-- What a notice read returns: the pending set and then the mask, two bytes each, low byte first (R182). -/
def PortState.notices (x : PortState) : List Byte :=
  bytesOfNat 2 x.pending.toNat ++ bytesOfNat 2 x.mask.toNat

/-- A notice read (access 04h) in which `count` bytes are clocked out; it changes nothing but the bytes shifted out
(R182, R191). The table of commands has no row for it (assumption 31). -/
def noticeRead (p : Port) (count : Nat) (s : State) : State :=
  s.shiftOut p ((s.port p).notices.take count)

/-- A notice clear removes each kind whose bit is set in the clear mask (R191). -/
def noticeClear (p : Port) (kinds : Word16) (s : State) : State :=
  (s.shiftOut p [0, 0]).modifyPort p (fun x => { x with pending := x.pending &&& ~~~kinds })

/-- NOTICE_CLEAR (R191). -/
def execNoticeClear (p : Port) (kinds : Word16) (s : State) : Host.Outcome State Fault Refusal :=
  .next (noticeClear p kinds s)

/-- A notice mask write replaces the mask (R191). -/
def noticeMaskWrite (p : Port) (mask : Word16) (s : State) : State :=
  (s.shiftOut p [0, 0]).modifyPort p (fun x => { x with mask := mask })

/-- NOTICE_MASK_WRITE (R191). -/
def execNoticeMaskWrite (p : Port) (mask : Word16) (s : State) : Host.Outcome State Fault Refusal :=
  .next (noticeMaskWrite p mask s)

/-! ### The FIFO (R187 to R189) -/

/-- A request that is still writing records ends with FIFO_DIR when the FIFO is flushed or turned, and its words not
yet written are dropped (R189); it counts as still writing before its first word too (assumption 20). -/
def dropTransfer (p : Port) (s : State) : State :=
  match (s.port p).request with
  | some ⟨code, .words _ _, _⟩ => respond p code .fifoDir [] s
  | some _ => s
  | none => s

/-- The word whose writing can fall beside a flush: the next one of a request that writes records, with at least two
bytes of room free (R188, R189). -/
def PortState.wordBeside (x : PortState) : List Byte :=
  match x.request with
  | some ⟨_, .words rest _, _⟩ => if 254 < x.fifo.length then [] else rest.take 2
  | some _ => []
  | none => []

/-- The FIFO is emptied in its present direction, the unpaired byte included (R189). The word whose writing falls
beside the flush may yet be written into the empty FIFO; it is the one word that is not dropped (assumption 20). -/
def flushFifo (p : Port) (s : State) : State :=
  dropTransfer p (s.modifyPort p (fun x => { x with fifo := [], late := x.wordBeside }))

/-- The port's frame flag is set. -/
def setFrameFlag (p : Port) (s : State) : State := s.modifyPort p (fun x => { x with frame := true })

/-- A FIFO direction access (R189). No word is written after a turn: the words of records go into a TO_STATION FIFO
alone (R188; assumption 20). -/
def fifoDirection (p : Port) (direction : Byte) (s : State) : State :=
  let s1 := s.shiftOut p [0]
  let toStation := direction == 1#8
  if 1 < direction.toNat then setFrameFlag p s1
  else if (s.port p).toStation = toStation then s1
  else (flushFifo p s1).modifyPort p (fun x => { x with toStation := toStation, late := [] })

/-- FIFO_DIRECTION (R189). -/
def execFifoDirection (p : Port) (direction : Byte) (s : State) : Host.Outcome State Fault Refusal :=
  .next (fifoDirection p direction s)

/-- FIFO_FLUSH (R189). -/
def fifoFlush (p : Port) (s : State) : State := flushFifo p (s.shiftOut p [])

/-- FIFO_FLUSH (R189). -/
def execFifoFlush (p : Port) (s : State) : Host.Outcome State Fault Refusal := .next (fifoFlush p s)

/-- One data byte of a FIFO data transaction, with the byte returned (R187, R188). -/
def PortState.dataByte (x : PortState) (b : Byte) : PortState × Byte :=
  if x.toStation then
    match x.fifo with
    | head :: rest => ({ x with fifo := rest }, head)
    | [] => ({ x with overrun := true }, 0)
  else if x.fifo.length < 256 then ({ x with fifo := x.fifo ++ [b] }, 0)
  else ({ x with overrun := true }, 0)

/-- The data bytes of a FIFO data transaction in turn, with the bytes returned (R187, R188). -/
def PortState.dataBytes (x : PortState) : List Byte → PortState × List Byte
  | [] => (x, [])
  | b :: rest =>
    let y := x.dataByte b
    let z := y.1.dataBytes rest
    (z.1, y.2 :: z.2)

/-- A FIFO data access (R187, R188). -/
def fifoData (p : Port) (bytes : List Byte) (s : State) : State :=
  (s.shiftOut p ((s.port p).dataBytes bytes).2).modifyPort p (fun x => (x.dataBytes bytes).1)

/-- FIFO_DATA (R187). -/
def execFifoData (p : Port) (bytes : List Byte) (s : State) : Host.Outcome State Fault Refusal :=
  .next (fifoData p bytes s)

/-- With no request writing records, the word whose writing fell beside a flush is written into the FIFO, which the
flush had emptied (R189). -/
def writeLate (p : Port) (s : State) : State :=
  if 254 < (s.port p).fifo.length then s
  else s.modifyPort p (fun x => { x with fifo := x.fifo ++ x.late.take 2, late := [] })

/-- The next word of a request's records is written into the FIFO when at least two bytes of room stand free;
with the last word the request ends OK (R188). A word that fell beside a flush and is not written by then is dropped
(R189). -/
def writeWord (p : Port) (s : State) : State :=
  match (s.port p).request with
  | some ⟨code, .words rest result, discard⟩ =>
    if 254 < (s.port p).fifo.length then s
    else
      let s1 := s.modifyPort p (fun x => { x with
        fifo := x.fifo ++ rest.take 2
        late := []
        request := some ⟨code, .words (rest.drop 2) result, discard⟩ })
      if (rest.drop 2).isEmpty then respond p code .ok result s1 else s1
  | some _ => writeLate p s
  | none => writeLate p s

/-- FIFO_WORD_WRITTEN (R188). -/
def execFifoWordWritten (p : Port) (s : State) : Host.Outcome State Fault Refusal := .next (writeWord p s)

/-! ### The view pointer (R190) -/

/-- A view pointer load sets the pointer and prefetches (R190). -/
def viewPointerLoad (p : Port) (address : Word16) (s : State) : State :=
  (s.shiftOut p [0, 0]).modifyPort p (fun x =>
    { x with pointer := address, prefetch := viewWord s address })

/-- VIEW_POINTER_LOAD (R190). -/
def execViewPointerLoad (p : Port) (address : Word16) (s : State) : Host.Outcome State Fault Refusal :=
  .next (viewPointerLoad p address s)

/-- The pointer after a word has been shifted out; it holds at FFFFh (R190). -/
def nextPointer (a : Word16) : Word16 := if a = 0xFFFF#16 then a else a + 1

/-- The low byte of a word. -/
def lowHalf (x : Word16) : Byte := x.extractLsb' 0 8

/-- The high byte of a word. -/
def highHalf (x : Word16) : Byte := x.extractLsb' 8 8

/-- A view data read of `count` bytes from a pointer and a prefetched word: the new pointer and prefetch, and the
bytes returned, low byte first. A word whose second byte is not shifted out does not advance the pointer
(R190). -/
def readView (s : State) : (count : Nat) → (pointer prefetch : Word16) → (Word16 × Word16) × List Byte
  | 0, a, x => ((a, x), [])
  | 1, a, x => ((a, x), [lowHalf x])
  | count + 2, a, x =>
    let rest := readView s count (nextPointer a) (viewWord s (nextPointer a))
    (rest.1, lowHalf x :: highHalf x :: rest.2)

/-- A view data read in which `count` bytes are clocked out (R190). -/
def viewDataRead (p : Port) (count : Nat) (s : State) : State :=
  let r := readView s count (s.port p).pointer (s.port p).prefetch
  (s.shiftOut p r.2).modifyPort p (fun x => { x with pointer := r.1.1, prefetch := r.1.2 })

/-- VIEW_DATA_READ (R190). -/
def execViewDataRead (p : Port) (count : Nat) (s : State) : Host.Outcome State Fault Refusal :=
  .next (viewDataRead p count s)

/-! ### Station flags, bad accesses and discarded requests (R182, R183, R193) -/

/-- A station flag nibble write (R193). -/
def nibbleWrite (p : Port) (value : Byte) (s : State) : State :=
  (s.shiftOut p [0]).modifyPort p (fun x => { x with nibble := value.extractLsb' 0 4 })

/-- STATION_FLAG_NIBBLE_WRITE (R193). -/
def execStationFlagNibbleWrite (p : Port) (value : Byte) (s : State) : Host.Outcome State Fault Refusal :=
  .next (nibbleWrite p value s)

/-- A transaction that the port ignores: the summary byte has been shifted out and the frame flag is set
(R182). -/
def ignoredTransaction (p : Port) (s : State) : State := setFrameFlag p (s.shiftOut p [])

/-- ACCESS_BYTE_INVALID (R182). An access byte of the table names another command. -/
def execAccessByteInvalid (p : Port) (access : Byte) (s : State) : Host.Outcome State Fault Refusal :=
  if isAccessByte access then .refused .otherCommand else .next (ignoredTransaction p s)

/-- TRANSACTION_CUT_SHORT (R182): the access is ignored whatever its kind. -/
def execTransactionCutShort (p : Port) (_access : FixedAccess) (s : State) : Host.Outcome State Fault Refusal :=
  .next (ignoredTransaction p s)

/-- The bytes a request write shifts out (R182). -/
def requestShift (p : Port) (args : List Byte) (s : State) : State :=
  s.shiftOut p (List.replicate (args.length + 2) 0)

/-- A request whose code is in no row of the role table is refused with ROLE; it is a purge mistake when the
port's progress is not none (R183, R177). -/
def unknownRequest (p : Port) (code : Byte) (args : List Byte) (s : State) : State :=
  let s0 := requestShift p args s
  if (s.port p).busy then discardRequest p s0
  else respond p code .role [] (if (s.port p).purge = .nothing then s0 else purgeMistake p s0)

/-- REQUEST_UNKNOWN_CODE (R183). A code of the role table names another command. -/
def execRequestUnknownCode (p : Port) (code : Byte) (args : List Byte) (s : State) :
    Host.Outcome State Fault Refusal :=
  if roleCodes.contains code then .refused .otherCommand else .next (unknownRequest p code args s)

/-- A request write that finds the port busy is discarded unexamined (R183). One that does not is no discarded
request, and changes nothing. -/
def discardedRequest (p : Port) (args : List Byte) (s : State) : State :=
  if (s.port p).busy then discardRequest p (requestShift p args s) else s

/-- REQUEST_DISCARDED (R183). -/
def execRequestDiscarded (p : Port) (args : List Byte) (s : State) : Host.Outcome State Fault Refusal :=
  .next (discardedRequest p args s)

/-! ### The position watch (R192) -/

/-- WATCH_SET(position) (R192). -/
def watchSetBody (p : Port) (args : List Byte) (s : State) : State :=
  let x := argNat args 0 4
  answerOk .watchSet p
    (reachWatch p (s.modifyPort p (fun y => { y with watch := if x = 0 then none else some x })))

/-- WATCH_SET (R192). -/
def execWatchSet (p : Port) (args : List Byte) (s : State) : Host.Outcome State Fault Refusal :=
  .next (takeRequest .watchSet p args (watchSetBody p args) s)

/-- WATCH_REACHED (R192). -/
def execWatchReached (p : Port) (s : State) : Host.Outcome State Fault Refusal := .next (reachWatch p s)

/-! ### The purge sequence (R176 to R180) -/

/-- The port's purge progress takes a value. -/
def setPurge (p : Port) (x : Purge) (s : State) : State := s.modifyPort p (fun y => { y with purge := x })

/-- A purge step refused as a mistake (R177). -/
def refusePurge (r : Req) (p : Port) (status : Status) (s : State) : State :=
  answer r p status (purgeMistake p s)

/-- The slot belongs to the open order (R177). -/
def isOpenSlot (n : Fin 4) (s : State) : Bool := s.line.slot == some n

/-- PURGE_BEGIN(slot) (R177, R178). -/
def purgeBeginBody (p : Port) (args : List Byte) (s : State) : State :=
  match slotOfNumber (argNat args 0 1) with
  | none => refusePurge .purgeBegin p .range s
  | some n =>
    if (s.port p).purge ≠ .nothing ∨ isOpenSlot n s then refusePurge .purgeBegin p .state s
    else answerOk .purgeBegin p (setPurge p (.begun n) s)

/-- PURGE_BEGIN (R178). -/
def execPurgeBegin (p : Port) (args : List Byte) (s : State) : Host.Outcome State Fault Refusal :=
  .next (takeRequest .purgeBegin p args (purgeBeginBody p args) s)

/-- PURGE_CONFIRM(value) (R177, R178). -/
def purgeConfirmBody (p : Port) (args : List Byte) (s : State) : State :=
  match (s.port p).purge with
  | .begun n =>
    if argNat args 0 1 + (n.val + 1) = 255 then answerOk .purgeConfirm p (setPurge p (.confirmed n) s)
    else refusePurge .purgeConfirm p .invalid s
  | .nothing | .confirmed _ => refusePurge .purgeConfirm p .state s

/-- PURGE_CONFIRM (R178). -/
def execPurgeConfirm (p : Port) (args : List Byte) (s : State) : Host.Outcome State Fault Refusal :=
  .next (takeRequest .purgeConfirm p args (purgeConfirmBody p args) s)

/-- A SLOT_ERASE is queued and its slot marked erase pending (R178). -/
def queueErase (n : Fin 4) (s : State) : State :=
  enqueue (.slotErase n) (modifyDir n (fun d => { d with erasePending := true }) s)

/-- PURGE_COMMIT of the CONFIRMED slot, with no mistake (R178 step 3). -/
def commitPurge (p : Port) (n : Fin 4) (s : State) : State :=
  if (s.dir n).erasePending then answerOk .purgeCommit p (setPurge p .nothing s)
  else if s.storeFull then answer .purgeCommit p .busy s
  else answerOk .purgeCommit p (queueErase n (setPurge p .nothing s))

/-- PURGE_COMMIT(slot) (R177, R178). -/
def purgeCommitBody (p : Port) (args : List Byte) (s : State) : State :=
  match slotOfNumber (argNat args 0 1) with
  | none => refusePurge .purgeCommit p .range s
  | some n =>
    match (s.port p).purge with
    | .confirmed m =>
      if n ≠ m then refusePurge .purgeCommit p .invalid s
      else if isOpenSlot n s then refusePurge .purgeCommit p .state s
      else commitPurge p n s
    | .nothing | .begun _ => refusePurge .purgeCommit p .state s

/-- PURGE_COMMIT (R178). -/
def execPurgeCommit (p : Port) (args : List Byte) (s : State) : Host.Outcome State Fault Refusal :=
  .next (takeRequest .purgeCommit p args (purgeCommitBody p args) s)

/-- CLEAR_PROTECT (R180). -/
def clearProtectBody (p : Port) (s : State) : State :=
  answerOk .clearProtect p (s.modifyPort p (fun x => { x with protect := false }))

/-- CLEAR_PROTECT (R180). -/
def execClearProtect (p : Port) (args : List Byte) (s : State) : Host.Outcome State Fault Refusal :=
  .next (takeRequest .clearProtect p args (clearProtectBody p) s)

/-! ### JOURNAL_READ (R175) -/

/-- JOURNAL_READ(slot, position) (R175). -/
def journalReadBody (p : Port) (args : List Byte) (s : State) : State :=
  match slotOfNumber (argNat args 0 1) with
  | none => answer .journalRead p .range s
  | some n =>
    let position := argNat args 1 2
    if (s.dir n).count ≤ position then answer .journalRead p .range s
    else if !(s.port p).toStation then answer .journalRead p .fifoDir s
    else if s.storeFull then answer .journalRead p .busy s
    else
      enqueue (.journalRead n position p) (keepExecuting p Req.journalRead.role.code .journal s)

/-- JOURNAL_READ (R175). -/
def execJournalRead (p : Port) (args : List Byte) (s : State) : Host.Outcome State Fault Refusal :=
  .next (takeRequest .journalRead p args (journalReadBody p args) s)

/-! ### PORT_RESET (R194) -/

/-- What becomes of a request in execution at a port reset: one that writes records ends, and any other runs to
its end with its response discarded (R194). -/
def Executing.afterReset (e : Executing) : Option Executing :=
  match e.waiting with
  | .words _ _ => none
  | .opening | .journal => some { e with discard := true }

/-- A port reset (R194). -/
def resetPort (p : Port) (s : State) : State :=
  s.modifyPort p (fun x =>
    { x with
      request := x.request.bind Executing.afterReset
      response := none, overrun := false, frame := false, pending := resetPending, toStation := false
      fifo := [], late := [], pointer := 0, prefetch := viewWord s 0, watch := none, purge := .nothing })

/-- PORT_RESET (R194). -/
def execPortReset (p : Port) (s : State) : Host.Outcome State Fault Refusal := .next (resetPort p s)

end Sys2Proof.Machine
end

