-- ==== Sys2Proof/Machine/StoreEvents.lean ====
section
/-!
DEFINITION. The events of the order store: the level of STORE_EN and the ends of the operations (10). An end
that names another operation than the one in progress changes nothing (assumption 1).
-/

namespace Sys2Proof.Machine

/-- The operation in progress, with the content it took when it started. -/
def inProgress (s : State) : Option (StoreOp × InFlight) :=
  match s.store.head, s.store.queue with
  | .running c, op :: _ => some (op, c)
  | _, _ => none

/-- STORE_EN takes a level. -/
def setEnable (level : Bool) (s : State) : State := { s with store := { s.store with enabled := level } }

/-- STORE_EN rises: a head that waits for it starts (R168). -/
def storeEnRise (s : State) : State :=
  let s1 := setEnable true s
  match s.store.head with
  | .waiting => advanceClosing (dealHead headFuel s1)
  | .absent | .running _ => s1

/-- STORE_EN_RISE (R168). -/
def execStoreEnRise (s : State) : Host.Outcome State Fault Refusal := .next (storeEnRise s)

/-- STORE_EN falls; an operation in progress runs to its end (R168). -/
def storeEnFall (s : State) : State := setEnable false s

/-- STORE_EN_FALL (R168). -/
def execStoreEnFall (s : State) : Host.Outcome State Fault Refusal := .next (storeEnFall s)

/-- The end of GEOMETRY_READ (R166). -/
def geometryReadEnd (faults : BitVec 5) (s : State) : State :=
  match inProgress s with
  | some (.geometryRead, _) => endHead (geometryReadEffects faults) id s
  | _ => s

/-- GEOMETRY_READ_END (R166). -/
def execGeometryReadEnd (faults : BitVec 5) (s : State) : Host.Outcome State Fault Refusal :=
  .next (geometryReadEnd faults s)

/-- The end of a SLOT_READ (R4, R174). -/
def slotReadEnd (verified : Bool) (s : State) : State :=
  match inProgress s with
  | some (.slotRead n, _) => endHead (slotReadEffects n verified) (resumeHeader n) s
  | _ => s

/-- SLOT_READ_END (R4). -/
def execSlotReadEnd (verified : Bool) (s : State) : Host.Outcome State Fault Refusal :=
  .next (slotReadEnd verified s)

/-- The end of a JOURNAL_READ (R175). -/
def journalReadEnd (verified : Bool) (s : State) : State :=
  match inProgress s with
  | some (.journalRead n position p, _) => endHead (journalReadEffects n position p verified) id s
  | _ => s

/-- JOURNAL_READ_END (R175). -/
def execJournalReadEnd (verified : Bool) (s : State) : Host.Outcome State Fault Refusal :=
  .next (journalReadEnd verified s)

/-- The end of a HEADER_WRITE (R172). -/
def headerWriteEnd (verified : Bool) (s : State) : State :=
  match inProgress s with
  | some (.headerWrite n written, .header h) => endHead (headerWriteEffects n written h verified) id s
  | _ => s

/-- HEADER_WRITE_END (R172). -/
def execHeaderWriteEnd (verified : Bool) (s : State) : Host.Outcome State Fault Refusal :=
  .next (headerWriteEnd verified s)

/-- The end of a RECIPE_WRITE (R172). -/
def recipeWriteEnd (verified : Bool) (s : State) : State :=
  match inProgress s with
  | some (.recipeWrite n r, _) => endHead (recipeWriteEffects n r verified) id s
  | _ => s

/-- RECIPE_WRITE_END (R172). -/
def execRecipeWriteEnd (verified : Bool) (s : State) : Host.Outcome State Fault Refusal :=
  .next (recipeWriteEnd verified s)

/-- The end of a BATCH_WRITE (R150). -/
def batchWriteEnd (verified : Bool) (s : State) : State :=
  match inProgress s with
  | some (.batchWrite n _, .batch b) => endHead (batchWriteEffects n b verified) id s
  | _ => s

/-- BATCH_WRITE_END (R150). -/
def execBatchWriteEnd (verified : Bool) (s : State) : Host.Outcome State Fault Refusal :=
  .next (batchWriteEnd verified s)

/-- The end of a JOURNAL_APPEND (R162, R173). -/
def journalAppendEnd (verified : Bool) (s : State) : State :=
  match inProgress s with
  | some (.journalAppend n i, .summary x) => endHead (journalAppendEffects n i x verified) id s
  | _ => s

/-- JOURNAL_APPEND_END (R162). -/
def execJournalAppendEnd (verified : Bool) (s : State) : Host.Outcome State Fault Refusal :=
  .next (journalAppendEnd verified s)

/-- The end of a GEOMETRY_WRITE (R18). -/
def geometryWriteEnd (verified : Bool) (s : State) : State :=
  match inProgress s with
  | some (.geometryWrite g, _) => endHead (geometryWriteEffects g verified) id s
  | _ => s

/-- GEOMETRY_WRITE_END (R18). -/
def execGeometryWriteEnd (verified : Bool) (s : State) : Host.Outcome State Fault Refusal :=
  .next (geometryWriteEnd verified s)

/-- The end of a SLOT_ERASE (R179). -/
def slotEraseEnd (verified : Bool) (s : State) : State :=
  match inProgress s with
  | some (.slotErase n, _) => endHead (slotEraseEffects n verified) id s
  | _ => s

/-- SLOT_ERASE_END (R179). -/
def execSlotEraseEnd (verified : Bool) (s : State) : Host.Outcome State Fault Refusal :=
  .next (slotEraseEnd verified s)

end Sys2Proof.Machine
end

