-- ==== Sys2Proof/Machine/Dispatch.lean ====
section
/-! DEFINITION. The meaning of each command: one arm per constructor of Instr. -/

namespace Sys2Proof.Machine

def exec (i : Instr) (s : State) : Host.Outcome State Fault Refusal :=
  match i with
  | .coldReset => Sys2Proof.Machine.execColdReset s
  | .portReset p => Sys2Proof.Machine.execPortReset p s
  | .forwardStep => Sys2Proof.Machine.execForwardStep s
  | .reverseStep => Sys2Proof.Machine.execReverseStep s
  | .faultStep => Sys2Proof.Machine.execFaultStep s
  | .markEdge channel falling => Sys2Proof.Machine.execMarkEdge channel falling s
  | .storeEnRise => Sys2Proof.Machine.execStoreEnRise s
  | .windowOpen channel => Sys2Proof.Machine.execWindowOpen channel s
  | .windowEnd channel => Sys2Proof.Machine.execWindowEnd channel s
  | .frameClose => Sys2Proof.Machine.execFrameClose s
  | .coastingBoundary => Sys2Proof.Machine.execCoastingBoundary s
  | .rpoPulseEnd => Sys2Proof.Machine.execRpoPulseEnd s
  | .cutDue => Sys2Proof.Machine.execCutDue s
  | .cutStrobe => Sys2Proof.Machine.execCutStrobe s
  | .cutStrobeDeassert => Sys2Proof.Machine.execCutStrobeDeassert s
  | .confirmTimeout => Sys2Proof.Machine.execConfirmTimeout s
  | .wasteEndForced => Sys2Proof.Machine.execWasteEndForced s
  | .watchReached p => Sys2Proof.Machine.execWatchReached p s
  | .trimTimeout unit => Sys2Proof.Machine.execTrimTimeout unit s
  | .embTimeout => Sys2Proof.Machine.execEmbTimeout s
  | .geometryReadEnd faults => Sys2Proof.Machine.execGeometryReadEnd faults s
  | .slotReadEnd verified => Sys2Proof.Machine.execSlotReadEnd verified s
  | .journalReadEnd verified => Sys2Proof.Machine.execJournalReadEnd verified s
  | .headerWriteEnd verified => Sys2Proof.Machine.execHeaderWriteEnd verified s
  | .recipeWriteEnd verified => Sys2Proof.Machine.execRecipeWriteEnd verified s
  | .batchWriteEnd verified => Sys2Proof.Machine.execBatchWriteEnd verified s
  | .journalAppendEnd verified => Sys2Proof.Machine.execJournalAppendEnd verified s
  | .geometryWriteEnd verified => Sys2Proof.Machine.execGeometryWriteEnd verified s
  | .slotEraseEnd verified => Sys2Proof.Machine.execSlotEraseEnd verified s
  | .orderOpen p args => Sys2Proof.Machine.execOrderOpen p args s
  | .orderClose p args => Sys2Proof.Machine.execOrderClose p args s
  | .recipeWrite p args => Sys2Proof.Machine.execRecipeWrite p args s
  | .recipeTune p args => Sys2Proof.Machine.execRecipeTune p args s
  | .geometryWrite p args => Sys2Proof.Machine.execGeometryWrite p args s
  | .start p args => Sys2Proof.Machine.execStart p args s
  | .stop p args => Sys2Proof.Machine.execStop p args s
  | .trimFetch p args => Sys2Proof.Machine.execTrimFetch p args s
  | .trimApplied p args => Sys2Proof.Machine.execTrimApplied p args s
  | .trimHold p args => Sys2Proof.Machine.execTrimHold p args s
  | .sampleFlush p args => Sys2Proof.Machine.execSampleFlush p args s
  | .embFetch p args => Sys2Proof.Machine.execEmbFetch p args s
  | .embApplied p args => Sys2Proof.Machine.execEmbApplied p args s
  | .nipClosed p args => Sys2Proof.Machine.execNipClosed p args s
  | .nipOpened p args => Sys2Proof.Machine.execNipOpened p args s
  | .defect p args => Sys2Proof.Machine.execDefect p args s
  | .splice p args => Sys2Proof.Machine.execSplice p args s
  | .cutFetch p args => Sys2Proof.Machine.execCutFetch p args s
  | .cutDone p args => Sys2Proof.Machine.execCutDone p args s
  | .cutFailed p args => Sys2Proof.Machine.execCutFailed p args s
  | .brk p args => Sys2Proof.Machine.execBrk p args s
  | .rollFlag p args => Sys2Proof.Machine.execRollFlag p args s
  | .readRoll p args => Sys2Proof.Machine.execReadRoll p args s
  | .shadeSample p args => Sys2Proof.Machine.execShadeSample p args s
  | .batchClose p args => Sys2Proof.Machine.execBatchClose p args s
  | .readBatch p args => Sys2Proof.Machine.execReadBatch p args s
  | .labelFetch p args => Sys2Proof.Machine.execLabelFetch p args s
  | .labelDone p args => Sys2Proof.Machine.execLabelDone p args s
  | .labelSkip p args => Sys2Proof.Machine.execLabelSkip p args s
  | .purgeBegin p args => Sys2Proof.Machine.execPurgeBegin p args s
  | .purgeConfirm p args => Sys2Proof.Machine.execPurgeConfirm p args s
  | .purgeCommit p args => Sys2Proof.Machine.execPurgeCommit p args s
  | .clearProtect p args => Sys2Proof.Machine.execClearProtect p args s
  | .journalRead p args => Sys2Proof.Machine.execJournalRead p args s
  | .watchSet p args => Sys2Proof.Machine.execWatchSet p args s
  | .requestUnknownCode p code args => Sys2Proof.Machine.execRequestUnknownCode p code args s
  | .requestDiscarded p args => Sys2Proof.Machine.execRequestDiscarded p args s
  | .responseRead p count => Sys2Proof.Machine.execResponseRead p count s
  | .statusRead p count => Sys2Proof.Machine.execStatusRead p count s
  | .noticeClear p kinds => Sys2Proof.Machine.execNoticeClear p kinds s
  | .noticeMaskWrite p mask => Sys2Proof.Machine.execNoticeMaskWrite p mask s
  | .fifoDirection p direction => Sys2Proof.Machine.execFifoDirection p direction s
  | .fifoFlush p => Sys2Proof.Machine.execFifoFlush p s
  | .fifoData p bytes => Sys2Proof.Machine.execFifoData p bytes s
  | .viewPointerLoad p address => Sys2Proof.Machine.execViewPointerLoad p address s
  | .viewDataRead p count => Sys2Proof.Machine.execViewDataRead p count s
  | .stationFlagNibbleWrite p value => Sys2Proof.Machine.execStationFlagNibbleWrite p value s
  | .accessByteInvalid p access => Sys2Proof.Machine.execAccessByteInvalid p access s
  | .transactionCutShort p access => Sys2Proof.Machine.execTransactionCutShort p access s
  | .fifoWordWritten p => Sys2Proof.Machine.execFifoWordWritten p s
  | .storeEnFall => Sys2Proof.Machine.execStoreEnFall s

end Sys2Proof.Machine
end

