-- ==== Sys2Proof/Safety.lean ====
section
/-!
DEFINITION. The terms in which statements about the LC-48 are made: the command that sends a request, when a
request is admitted, what a request leaves on the four ports, and the limits that every reachable state keeps.
-/

namespace Sys2Proof.Safety

open Sys2Proof.Machine

/-- The command in which port `p` sends request `r` with argument bytes `args`. -/
def requestInstr (r : Req) (p : Port) (args : List Byte) : Instr :=
  match r with
  | .orderOpen => .orderOpen p args
  | .orderClose => .orderClose p args
  | .recipeWrite => .recipeWrite p args
  | .recipeTune => .recipeTune p args
  | .geometryWrite => .geometryWrite p args
  | .start => .start p args
  | .stop => .stop p args
  | .trimFetch => .trimFetch p args
  | .trimApplied => .trimApplied p args
  | .trimHold => .trimHold p args
  | .sampleFlush => .sampleFlush p args
  | .embFetch => .embFetch p args
  | .embApplied => .embApplied p args
  | .nipClosed => .nipClosed p args
  | .nipOpened => .nipOpened p args
  | .defect => .defect p args
  | .splice => .splice p args
  | .cutFetch => .cutFetch p args
  | .cutDone => .cutDone p args
  | .cutFailed => .cutFailed p args
  | .brk => .brk p args
  | .rollFlag => .rollFlag p args
  | .readRoll => .readRoll p args
  | .shadeSample => .shadeSample p args
  | .batchClose => .batchClose p args
  | .readBatch => .readBatch p args
  | .labelFetch => .labelFetch p args
  | .labelDone => .labelDone p args
  | .labelSkip => .labelSkip p args
  | .purgeBegin => .purgeBegin p args
  | .purgeConfirm => .purgeConfirm p args
  | .purgeCommit => .purgeCommit p args
  | .clearProtect => .clearProtect p args
  | .journalRead => .journalRead p args
  | .watchSet => .watchSet p args

/-- Port `p` takes a request now: its request slot and its response slot are EMPTY (R183). -/
def Open (p : Port) (s : State) : Prop := (s.port p).request = none ∧ (s.port p).response = none

/-- Request `r` passes the checks that every request meets: an open port whose role includes it, a line state
that admits it, and the argument length of its row (R2, R183). -/
structure Admitted (r : Req) (p : Port) (args : List Byte) (s : State) : Prop where
  slots : Open p s
  role : p ∈ r.role.ports
  state : s.line.state ∈ r.role.admitted
  length : args.length = r.role.length

/-! ### What a command leaves on the ports -/

/-- The notice kinds that a command raises, port by port. -/
abbrev Raised := Port → Word16

/-- No notice. -/
def quiet : Raised := fun _ => 0#16

/-- One notice kind on one port. -/
def on (p : Port) (n : Notice) : Raised := fun q => if q = p then n.bit else 0#16

/-- One notice kind on every port. -/
def everywhere (n : Notice) : Raised := fun _ => n.bit

/-- One notice kind on one port, when a condition holds. -/
def onIf (c : Bool) (p : Port) (n : Notice) : Raised := if c then on p n else quiet

/-- One notice kind on every port, when a condition holds. -/
def everywhereIf (c : Bool) (n : Notice) : Raised := if c then everywhere n else quiet

/-- The kinds of two sets of raised notices together. -/
def both (x y : Raised) : Raised := fun q => x q ||| y q

/-- The kind is among those raised on the port. -/
def Has (raised : Raised) (p : Port) (n : Notice) : Prop := raised p &&& n.bit = n.bit

/-- Every port is as it was, but for the notices raised on it. -/
def Noticed (raised : Raised) (s t : State) : Prop :=
  ∀ q, t.port q = { s.port q with pending := (s.port q).pending ||| raised q }

/-- Every port but `p` is as it was. -/
def OthersKept (p : Port) (s t : State) : Prop := ∀ q, q ≠ p → t.port q = s.port q

/-- Whether a request is a purge mistake because the port's purge progress is not none (R177, last
paragraph). -/
def isMistake (r : Req) (x : PortState) : Bool := !r.isPurge && x.purge != .nothing

/-- What a request leaves on its own port: the slots given, the notices raised, the trace of a purge mistake, an
emptied FIFO where the request reads one that is TO_PART, and the bytes shifted out. -/
def portAfter (r : Req) (args : List Byte) (request : Option Executing) (response : Option Response)
    (raised : Word16) (summary : Byte) (x : PortState) : PortState :=
  { x with
    request := request
    response := response
    pending := x.pending ||| (if isMistake r x then Notice.protect.bit else 0#16) ||| raised
    purge := if isMistake r x then .nothing else x.purge
    protect := x.protect || isMistake r x
    fifo := if r.readsFifo && !x.toStation then [] else x.fifo
    sdo := summary :: List.replicate (args.length + 2) 0#8 }

/-- What a request of port `p` leaves on the four ports. -/
def Handled (r : Req) (p : Port) (args : List Byte) (request : Option Executing)
    (response : Option Response) (raised : Raised) (s t : State) : Prop :=
  ∀ q, t.port q =
    if q = p then portAfter r args request response (raised q) (s.summary p) (s.port q)
    else { s.port q with pending := (s.port q).pending ||| raised q }

/-- Request `r` of port `p` is answered with a status and result bytes, and the notices are raised. -/
def Answered (r : Req) (p : Port) (args : List Byte) (status : Status) (result : List Byte)
    (raised : Raised) (s t : State) : Prop :=
  Handled r p args none (some ⟨r.role.code, status, result⟩) raised s t

/-- Request `r` of port `p` has copied `bytes`, which wait to be written into the FIFO word by word, and is to be
answered OK with `result` (R188); with no bytes it is answered at once. -/
def Fetching (r : Req) (p : Port) (args : List Byte) (bytes result : List Byte) (s t : State) : Prop :=
  if bytes = [] then Answered r p args .ok result quiet s t
  else Handled r p args (some ⟨r.role.code, .words bytes result, false⟩) none quiet s t

/-- The state but for its ports. -/
def SameButPorts (s t : State) : Prop := t = { s with ports := t.ports }

/-! ### Events of the web position and hold causes (01, 02) -/

/-- The commands that stand for events of the web position, the watches and the windows apart. -/
def webEvents : List Instr :=
  [.coastingBoundary, .frameClose, .rpoPulseEnd, .confirmTimeout, .cutDue, .cutStrobe, .cutStrobeDeassert,
    .wasteEndForced]

/-- No event of the web position is due: each of their commands leaves the state as it is. -/
structure NothingDue (s : State) : Prop where
  watches : ∀ p, exec (.watchReached p) s = .next s
  windows : ∀ ch, exec (.windowOpen ch) s = .next s ∧ exec (.windowEnd ch) s = .next s
  events : ∀ i ∈ webEvents, exec i s = .next s

/-- An order is open: SETUP, RUN, STOPPED or CLOSING (R19). -/
def OrderStands (s : State) : Prop := s.line.state ≠ .noOrder ∧ s.line.state ≠ .opening

/-- The hold causes that are held are those whose conditions stand (R19); a GRADED record is one that waits, since one
that finds a place in the label queue enters it at once (R154). -/
structure HoldsStand (s : State) : Prop where
  none : ¬ OrderStands s → s.line.holds = ⟨false, false, false⟩
  rolls : OrderStands s →
    (s.line.holds.rolls = true ↔ 20 ≤ (s.roll.records.rows.filter (fun r => r.state != .free)).length)
  labels : OrderStands s → (s.line.holds.labels = true ↔ ∃ i, (s.record i).state = .graded)
  length : OrderStands s → (s.line.holds.length = true ↔ 4000000000 ≤ s.web.w)

/-- A notice kind is pending on a port. -/
def Pending (p : Port) (n : Notice) (s : State) : Prop := (s.port p).pending &&& n.bit = n.bit

/-! ### Register channels (04, 05) -/

/-- A sample whose frame has its reference capture at `reference` is usable (R55, R79). -/
def Usable (k : ChannelSettings) (reference : Pos) (c : RegisterChannel) : Prop :=
  k.flush = false ∧ c.outstanding = none ∧ c.settleBoundary ≤ reference

/-- No trim of the channel times out at a frame (R67, R85). -/
def NoTimeout (frame : Nat) (c : RegisterChannel) : Prop :=
  ∀ o, c.outstanding = some o → o.timedOut = true ∨ frame < o.postedAt + 16

/-- What becomes of a nonzero correction `x` computed in ACQUIRE or LOCKED (R61): the trim moves by it as far as the
limit lets it, and is posted, or withheld when the limit leaves nothing of it. -/
structure Corrected (k : ChannelSettings) (frame : Nat) (x : Int) (c d : RegisterChannel) : Prop where
  trim : d.trim = clampInt (-k.trimLimit) k.trimLimit (c.trim + x)
  withheld : d.trim = c.trim →
    d.withheld = min 65535 (c.withheld + 1) ∧ d.outstanding = none ∧ d.sequence = c.sequence
  posted : d.trim ≠ c.trim →
    d.withheld = c.withheld ∧ d.sequence = c.sequence + 1 ∧
      d.outstanding = some
        { sequence := c.sequence + 1, delta := d.trim - c.trim, postedAt := frame, timedOut := false }

/-- No correction is made. -/
def Uncorrected (c d : RegisterChannel) : Prop :=
  d.trim = c.trim ∧ d.outstanding = c.outstanding ∧ d.withheld = c.withheld ∧ d.sequence = c.sequence

/-- The list of a LOCKED or LIMIT channel once a frame's sample is dealt with (R58). -/
def listAfter (k : ChannelSettings) (usable : Option Int) (c : RegisterChannel) : List Int :=
  match usable with
  | some e => (c.samples ++ [e]).drop (c.samples.length + 1 - k.depth)
  | none => c.samples

/-- Frames since evaluation of a LOCKED or LIMIT channel at a frame (R58). -/
def framesAfter (c : RegisterChannel) : Nat := min 65535 (c.sinceEvaluation + 1)

/-- The channel is evaluated on the list `xs` (R59). -/
def Evaluated (k : ChannelSettings) (xs : List Int) (c : RegisterChannel) : Prop :=
  k.depth ≤ xs.length ∧ k.interval ≤ framesAfter c ∧ k.hold = false ∧ c.outstanding = none

/-- The correction that `x` is, computed from the mean of the list `xs` (R59 steps 1 to 3). -/
def IsCorrection (k : ChannelSettings) (xs : List Int) (x : Int) : Prop :=
  x =
    if mag (roundNearest (sumInts xs) k.depth) ≤ k.deadband then 0
    else clampInt (-k.maxStep) k.maxStep
      (-(roundTowardZero (roundNearest (sumInts xs) k.depth * k.gain) 16))

/-- A register channel's sample or miss (R54, R79). -/
structure SampleTaken (k : ChannelSettings) (reference : Pos) (result : Option Int) (c d : RegisterChannel) :
    Prop where
  off : c.state = .off → d = c
  sample : ∀ e, result = some e → c.state ≠ .off → d.lastError = some e ∧ d.misses = 0
  usable : ∀ e, result = some e → Usable k reference c → d.discarded = c.discarded
  discarded : ∀ e, result = some e → c.state ≠ .off → ¬ Usable k reference c →
    d.discarded = min 65535 (c.discarded + 1)
  miss : result = none → d.lastError = c.lastError ∧ d.discarded = c.discarded

/-- A frame in ACQUIRE (R56, R57). -/
structure AcquireFrame (k : ChannelSettings) (frame : Nat) (reference : Pos) (result : Option Int)
    (c d : RegisterChannel) : Prop where
  locks : ∀ e, result = some e → Usable k reference c → mag e ≤ k.lockWindow → 2 ≤ c.lockCount →
    d = { c with
      state := .locked, samples := [], sinceEvaluation := 0, lockCount := 0, misses := 0
      lastError := some e }
  stays : ∀ e, result = some e → Usable k reference c → (k.lockWindow < mag e ∨ c.lockCount < 2) →
    d.state = .acquire ∧ d.samples = c.samples ∧
      d.lockCount = (if mag e ≤ k.lockWindow then c.lockCount + 1 else 0) ∧
      ((k.hold = true ∨ clampInt (-k.acquireStep) k.acquireStep (-e) = 0) → Uncorrected c d) ∧
      (k.hold = false → clampInt (-k.acquireStep) k.acquireStep (-e) ≠ 0 →
        Corrected k frame (clampInt (-k.acquireStep) k.acquireStep (-e)) c d)
  discarded : ∀ e, result = some e → ¬ Usable k reference c → NoTimeout frame c →
    d.state = .acquire ∧ d.lockCount = c.lockCount ∧ Uncorrected c d
  miss : result = none → NoTimeout frame c →
    d.state = .acquire ∧ d.lockCount = 0 ∧ d.misses = min 255 (c.misses + 1) ∧ Uncorrected c d

/-- A frame in LOCKED or LIMIT, `xs` being the list after the frame's sample (R58 to R62). -/
structure LockedFrame (k : ChannelSettings) (frame : Nat) (result : Option Int) (xs : List Int)
    (c d : RegisterChannel) : Prop where
  secondMiss : result = none → 1 ≤ c.misses → d.state = .hold ∧ d.misses = 0 ∧ d.lockCount = 0
  gathers : (result ≠ none ∨ c.misses = 0) → ¬ Evaluated k xs c → NoTimeout frame c →
    d.state = c.state ∧ d.samples = xs ∧ d.sinceEvaluation = framesAfter c ∧ Uncorrected c d
  evaluated : (result ≠ none ∨ c.misses = 0) → Evaluated k xs c → ∀ x, IsCorrection k xs x →
    d.samples = [] ∧ d.sinceEvaluation = 0 ∧
      (x = 0 → d.state = c.state ∧ Uncorrected c d) ∧
      (x ≠ 0 → c.state = .locked → Corrected k frame x c d ∧
        d.state = (if d.trim = c.trim + x then .locked else .limit)) ∧
      (x ≠ 0 → c.state = .limit → mag c.trim < mag (c.trim + x) →
        d.state = .limit ∧ d.trim = c.trim ∧ d.outstanding = none ∧ d.sequence = c.sequence ∧
          d.withheld = min 65535 (c.withheld + 1)) ∧
      (x ≠ 0 → c.state = .limit → mag (c.trim + x) ≤ mag c.trim →
        d.state = .locked ∧ d.trim = c.trim + x ∧ d.sequence = c.sequence + 1 ∧
          d.outstanding = some
            { sequence := c.sequence + 1, delta := x, postedAt := frame, timedOut := false })

/-- A frame in HOLD (R63). -/
structure HoldFrame (k : ChannelSettings) (frame : Nat) (reference : Pos) (result : Option Int)
    (c d : RegisterChannel) : Prop where
  returns : ∀ e, result = some e → Usable k reference c → mag e ≤ k.lockWindow →
    d = { c with
      state := .locked, samples := [], sinceEvaluation := 0, lockCount := 0, misses := 0
      lastError := some e }
  stays : ∀ e, result = some e → (¬ Usable k reference c ∨ k.lockWindow < mag e) →
    d.state = .hold ∧ d.samples = c.samples
  miss : result = none → c.misses < 7 → d.state = .hold ∧ d.misses = c.misses + 1
  eighthMiss : result = none → 7 ≤ c.misses → NoTimeout frame c →
    d.state = .acquire ∧ d.samples = [] ∧ d.misses = 0 ∧ d.lockCount = 0

/-- The trim outstanding before a frame (R67, R85): it stays, times out when it is due, and its channel then enters
HOLD, SAMPLE_FLUSH being off. -/
structure TrimAfter (k : ChannelSettings) (frame : Nat) (c d : RegisterChannel) : Prop where
  kept : ∀ o, c.outstanding = some o → d.trim = c.trim ∧ (NoTimeout frame c → d.outstanding = some o)
  timesOut : ∀ o, c.outstanding = some o → o.timedOut = false → o.postedAt + 16 ≤ frame → c.state ≠ .off →
    d.outstanding = some { o with timedOut := true } ∧ (k.flush = false → d.state = .hold)

/-- What a frame makes of a register channel, with its frame index, the position of its reference capture, and its
error or none: the channel before and after (R54 to R63, R67; R79, R80, R85). -/
structure FrameTaken (k : ChannelSettings) (frame : Nat) (reference : Pos) (result : Option Int)
    (c d : RegisterChannel) : Prop where
  sample : SampleTaken k reference result c d
  acquire : c.state = .acquire → AcquireFrame k frame reference result c d
  gathering : c.state = .locked ∨ c.state = .limit →
    (∀ e, result = some e → Usable k reference c →
      LockedFrame k frame result (listAfter k (some e) c) c d) ∧
    ((∀ e, result = some e → ¬ Usable k reference c) → LockedFrame k frame result c.samples c d)
  hold : c.state = .hold → HoldFrame k frame reference result c d
  trim : TrimAfter k frame c d

/-- A register channel that is sent to ACQUIRE, unless it is OFF (R70, R71, R81). -/
def Reacquired (c : RegisterChannel) : RegisterChannel :=
  match c.state with
  | .off => c
  | .acquire => { c with samples := [], lockCount := 0, sinceEvaluation := 0 }
  | .locked | .hold | .limit =>
    { c with state := .acquire, samples := [], sinceEvaluation := 0, misses := 0, lockCount := 0 }

/-- A frame is in register for unit k + 1, its channel after the frame being `d` (R72). -/
def InRegister (r : Recipe) (f : Frame) (k : Fin 7) (d : RegisterChannel) : Prop :=
  (d.state = .locked ∨ d.state = .limit) ∧
    ∃ c, f.results.get k = some c ∧ mag (c - f.c0 - r.unitOffset k) ≤ r.registerTolerance

/-! ### A key capture's frame and tune (01, 03) -/

/-- The staged tune has been applied at a repeat boundary and is gone (R13, R14, R31): the recipe in force takes its
fields, and lists longer than a new filter depth lose their oldest samples. With none staged, nothing changes. -/
structure TuneApplied (s t : State) : Prop where
  line : t.line = { s.line with stagedTune := none }
  recipe : t.recipe = match s.line.stagedTune with
    | some tune => s.recipe.tuned tune
    | none => s.recipe
  unstaged : s.line.stagedTune = none → t.register = s.register ∧ t.emboss = s.emboss
  register : t.register = { s.register with units := t.register.units }
  units : s.line.stagedTune ≠ none → ∀ k, t.unit k = { s.unit k with
    samples := (s.unit k).samples.drop ((s.unit k).samples.length - t.recipe.filterDepth.toNat) }
  emboss : s.line.stagedTune ≠ none → t.emboss = { s.emboss with channel := { s.emboss.channel with
    samples := s.emboss.channel.samples.drop
      (s.emboss.channel.samples.length - t.recipe.embossFilterDepth.toNat) } }

/-- `p` lies within the window of half-width `v` centred at `x` (R39). -/
def Inside (x v p : Int) : Prop := x - v ≤ p ∧ p ≤ x + v

/-- What the opening of a frame at `w` makes of a unit channel with its window centred at `x`, and the channel's result
in the frame (R45, R46): the first pending position within the bounds is accepted and the others are strays; with none
the window is armed, or open from the start, or over when it lies wholly below `w`. -/
structure UnitOpened (r : Recipe) (w : Nat) (x : Pos) (c d : ChannelRecord) (result : Option Pos) : Prop where
  disabled : c.enabled = false → d = c ∧ result = none
  accepted : ∀ before p after, c.enabled = true → c.edges = before ++ p :: after → Inside x r.window p →
    (∀ y ∈ before, ¬ Inside x r.window y) →
    result = some p ∧ d = { c with
      edges := [], strays := min 65535 (c.strays + (before.length + after.length)), lastAccepted := some p
      run := 0, window := .closed, centre := none }
  passed : c.enabled = true → (∀ y ∈ c.edges, ¬ Inside x r.window y) → x + r.window < w →
    result = none ∧ d = { c with
      edges := [], strays := min 65535 (c.strays + c.edges.length), window := .closed, centre := none }
  stands : c.enabled = true → (∀ y ∈ c.edges, ¬ Inside x r.window y) → (w : Int) ≤ x + r.window →
    result = none ∧ d = { c with
      edges := [], strays := min 65535 (c.strays + c.edges.length), centre := some x
      window := if x - r.window ≤ w ∧ c.lastAccepted ≠ some (w : Int) then .opened else .armed }

/-- A phased channel arms its window from a starting limit (R49): its centre is the least position at or beyond the
limit that lies the path distance and whole repeats from k0, and it is open from the start when `w` has reached its
lower bound and is not the position just accepted. -/
def PhasedArmed (r : Recipe) (distance : Nat) (k0 limit : Pos) (w : Nat) (c d : ChannelRecord) : Prop :=
  ∃ x : Pos, (x - distance - k0) % r.repeatLength = 0 ∧ limit ≤ x ∧ x < limit + r.repeatLength ∧
    d = { c with
      centre := some x, limit := limit
      window := if x - r.window ≤ w ∧ c.lastAccepted ≠ some (w : Int) then .opened else .armed }

/-- What a phased channel does when k0, which was `before`, is `k0` (R49): one that becomes defined arms a window from
w − W; one that changes places an armed window again from its own limit; any other window stands. -/
structure PhasedFollowed (r : Recipe) (distance : Nat) (before : Option Pos) (k0 : Pos) (w : Nat)
    (c d : ChannelRecord) : Prop where
  defined : c.enabled = true → before = none → 0 < r.repeatLength →
    PhasedArmed r distance k0 (w - r.window) w c d
  changed : c.enabled = true → before ≠ none → before ≠ some k0 → c.window = .armed → 0 < r.repeatLength →
    PhasedArmed r distance k0 c.limit w c d
  kept : c.enabled = false ∨ before = some k0 ∨ (before ≠ none ∧ c.window ≠ .armed) → d = c

/-- The frame that a key capture at w opens, with the recipe that is in force after it: its unit channels, and the
phased channels that follow k0 (R45, R46, R49). -/
structure FrameOpened (s t : State) : Prop where
  frame : ∃ f, t.capture.frame = some f ∧ f.c0 = s.web.w ∧
    ∀ k, UnitOpened t.recipe s.web.w (s.web.w + t.recipe.unitOffset k) (s.channel (.unit k))
      (t.channel (.unit k)) (f.results.get k)
  entry : PhasedFollowed t.recipe s.geometry.dE s.clock.k0 s.web.w s.web.w (s.channel .mke) (t.channel .mke)
  winder : PhasedFollowed t.recipe s.geometry.dW s.clock.k0 s.web.w s.web.w (s.channel .mkw) (t.channel .mkw)
  index : t.channel .idx = s.channel .idx

/-! ### The web map (06) -/

/-- `e` is the youngest of the entries `es` that satisfy `p`, with `before` and `after` around it (R94). -/
structure Youngest (p : MapEntry → Prop) (es before : List MapEntry) (e : MapEntry) (after : List MapEntry) :
    Prop where
  place : es = before ++ e :: after
  holds : p e
  before : ∀ x ∈ before, p x → x.age ≤ e.age
  after : ∀ x ∈ after, p x → x.age < e.age

/-- An entry that is not a SPLICE. -/
def IsFault (e : MapEntry) : Prop := e.kind ≠ .splice

/-- The number of entries that are not SPLICE. -/
def faults (m : WebMap) : Nat := (m.entries.filter (fun e => e.kind != .splice)).length

/-- A report of a kind and detail that starts at `start` extends `e`, whose end is `b` (R96). -/
structure Extends (kind : MapKind) (detail : Detail) (start : Pos) (es before : List MapEntry) (e : MapEntry)
    (after : List MapEntry) (b : Pos) : Prop where
  youngest : Youngest (fun x => x.kind = kind ∧ x.detail = detail ∧ x.stop ≠ none) es before e after
  stop : e.stop = some b
  reached : e.start ≤ start
  near : start ≤ b + 500

/-- A report of a kind and detail that starts at `start` extends no entry (R96). -/
def ExtendsNone (kind : MapKind) (detail : Detail) (start : Pos) (es : List MapEntry) : Prop :=
  ∀ before e after b, ¬ Extends kind detail start es before e after b

/-- `e` has joined the map with the next age, after every entry that starts at or below it (R94). -/
def Joined (e : MapEntry) (m m' : WebMap) : Prop :=
  m'.additions = min 4294967295 (m.additions + 1) ∧ m'.overflows = m.overflows ∧
    ∃ before after, m.entries = before ++ after ∧
      m'.entries = before ++ { e with age := m'.additions } :: after ∧
      (∀ x ∈ before, x.start ≤ e.start) ∧ ∀ x ∈ after.head?, e.start < x.start

/-- `x` stands in for a kind or is its open entry. -/
def Covers (kind : MapKind) (x : MapEntry) : Prop :=
  (kind = .register ∧ x.forRegister = true) ∨ (kind = .emboss ∧ x.forEmboss = true) ∨
    (x.kind = kind ∧ x.stop = none)

/-- `o` is the OVERFLOW entry made of `x` and `y` (R97 step 2). -/
structure MadeOf (x y o : MapEntry) : Prop where
  named : o.kind = .defect ∧ o.detail = .overflow ∧ o.clamped = (x.clamped || y.clamped)
  start : o.start = min x.start y.start
  closed : ∀ a b, x.stop = some a → y.stop = some b → o.stop = some (max a b)
  opened : x.stop = none ∨ y.stop = none → o.stop = none
  register : o.forRegister = true ↔ Covers .register x ∨ Covers .register y
  emboss : o.forEmboss = true ↔ Covers .emboss x ∨ Covers .emboss y
  pending : o.pendingEnd =
    if o.forRegister || o.forEmboss then
      ([x.stop, x.pendingEnd, y.stop, y.pendingEnd].filterMap id).max?
    else none

/-- The two youngest faults `x` and `y` have given way to an OVERFLOW entry, and `e` was added after it (R97). -/
def OverflowJoined (e : MapEntry) (m m' : WebMap) : Prop :=
  ∃ before x after before' y after' o,
    Youngest IsFault m.entries before x after ∧ Youngest IsFault (before ++ after) before' y after' ∧
    MadeOf x y o ∧ o.age = min 4294967295 (m.additions + 1) ∧
    m'.additions = min 4294967295 (m.additions + 2) ∧ m'.overflows = min 65535 (m.overflows + 1) ∧
    List.Perm m'.entries (o :: { e with age := m'.additions } :: (before' ++ after'))

/-- The one fault of a full map and `e` have given way to an OVERFLOW entry (R99). -/
def OverflowAbsorbed (e : MapEntry) (m m' : WebMap) : Prop :=
  ∃ before x after o, Youngest IsFault m.entries before x after ∧ MadeOf x e o ∧
    o.age = m'.additions ∧ m'.additions = min 4294967295 (m.additions + 1) ∧
    m'.overflows = min 65535 (m.overflows + 1) ∧ List.Perm m'.entries (o :: (before ++ after))

/-- An entry opened by its owner has been added as the room of the map allows (R94, R97, R99). -/
structure OpenAdded (e : MapEntry) (m m' : WebMap) : Prop where
  room : m.entries.length < 48 → Joined e m m'
  two : 48 ≤ m.entries.length → 2 ≤ faults m → OverflowJoined e m m'
  one : 48 ≤ m.entries.length → faults m = 1 → OverflowAbsorbed e m m'
  none : 48 ≤ m.entries.length → faults m = 0 → m' = m

/-- A SPLICE has been added to a map that has room for it, or is full and holds two faults (R94, R97). -/
def SpliceAdded (e : MapEntry) (m m' : WebMap) : Prop :=
  (m.entries.length < 48 → Joined e m m') ∧ (48 ≤ m.entries.length → OverflowJoined e m m')

/-- What the release of a kind at a position makes of an entry (R98): one that stands in for the kind holds the greater
of its pending end and the position, and closes there when it stands in for no other. -/
def releasedEntry (kind : MapKind) (position : Pos) (e : MapEntry) : MapEntry :=
  let ending := match e.pendingEnd with
    | some b => max b position
    | none => position
  if (kind = .register ∧ e.forRegister) ∨ (kind = .emboss ∧ e.forEmboss) then
    if e.forRegister && e.forEmboss then
      { e with
        forRegister := kind != .register, forEmboss := kind != .emboss, pendingEnd := some ending }
    else { e with forRegister := false, forEmboss := false, stop := some ending, pendingEnd := none }
  else e

/-- The entry that an owner opens. -/
def openedEntry (kind : MapKind) (start : Pos) (detail : Detail) : MapEntry :=
  { kind := kind, start := start, stop := none, detail := detail, clamped := false, forRegister := false
    forEmboss := false, pendingEnd := none, age := 0 }

/-- An owner opens its span at a position (R95): an open span stands, the youngest closed entry of the detail is
extended where it may be, and otherwise an entry is added as far as the map has room. -/
def SpanOpened (kind : MapKind) (position : Pos) (d : Detail) (m m' : WebMap) : Prop :=
  ((∃ e ∈ m.entries, e.kind = kind ∧ e.stop = none) → m' = m) ∧
  ((∀ e ∈ m.entries, e.kind = kind → e.stop ≠ none) →
    (∀ before e after b, Extends kind d position m.entries before e after b →
      m' = { m with entries := before ++ { e with stop := none } :: after }) ∧
    (ExtendsNone kind d position m.entries → OpenAdded (openedEntry kind position d) m m'))

/-- What an owner's judgment at a position makes of the map, `fault` being the detail of a fault that stands (R73, R92,
R95, R98): its kind is released, and then the open span is closed, or a span is opened where none is open. -/
def SpanJudged (kind : MapKind) (position : Pos) (fault : Option Detail) (m m' : WebMap) : Prop :=
  ∃ x : WebMap, x = { m with entries := m.entries.map (releasedEntry kind position) } ∧
    (fault = none → m' = { x with
      entries := x.entries.map (fun e =>
        if e.kind = kind ∧ e.stop = none then { e with stop := some position } else e) }) ∧
    ∀ d, fault = some d → SpanOpened kind position d x m'

/-! ### The nip (05) -/

/-- The detail of the emboss fault that stands, none when no fault stands (R92). -/
def embossFaultOf (n : Nip) : Option Detail :=
  if n.state ≠ .closed then some .notClosed
  else if n.verdict ≠ .within then some .outOfRegister
  else none

/-- The emboss tracker judges, which can change the map alone (R92): while emboss is enabled and the line is in RUN or
STOPPED the EMBOSS span is released, closed or opened at w − D_E, and otherwise the map stands. -/
structure EmbossJudged (s t : State) : Prop where
  judges : s.recipe.embossEnableField = 1 → s.line.state = .run ∨ s.line.state = .stopped →
    SpanJudged .emboss (s.web.w - s.geometry.dE) (embossFaultOf t.emboss.nip) s.map t.map
  rests : s.recipe.embossEnableField ≠ 1 ∨ (s.line.state ≠ .run ∧ s.line.state ≠ .stopped) → t.map = s.map

/-- What the nip is after a return of IDX to SEEK, `acquired` saying that the emboss channel entered ACQUIRE, in which,
or in OFF, it then is (R86, R87, R89). -/
structure NipReturn (acquired : Prop) (n n' : Nip) : Prop where
  run : (acquired → n'.closeRun = 0) ∧ (¬ acquired → n'.closeRun = n.closeRun)
  ready : n.state = .ready → n' = { n with closeRun := n'.closeRun, state := .opened }
  ordered : n.state = .closed → acquired →
    n' = { n with closeRun := 0, state := .opening, orderReason := some .acquire, openCause := none }
  closed : n.state = .closed → ¬ acquired → n' = n
  resting : n.state = .opened ∨ n.state = .opening ∨ n.state = .parked → n' = { n with closeRun := n'.closeRun }

/-- What the nip is after a sample with error `e`, by the state it had (R86, R87, R89). -/
structure NipSample (r : Recipe) (channel : RegisterState) (e : Int) (n n' : Nip) : Prop where
  run : n'.closeRun = if mag e ≤ r.nipCloseWindow then min 3 (n.closeRun + 1) else 0
  opened : n.state = .opened → n' = { n with
    closeRun := n'.closeRun, state := if channel = .locked ∧ n'.closeRun = 3 then .ready else .opened }
  ready : n.state = .ready → n' = { n with
    closeRun := n'.closeRun
    state := if r.nipCloseWindow < mag e ∨ channel ≠ .locked then .opened else .ready }
  within : n.state = .closed → mag e ≤ r.embossTolerance →
    n' = { n with closeRun := n'.closeRun, verdict := .within, toleranceRun := 0 }
  exceeded : n.state = .closed → r.embossTolerance < mag e → n.toleranceRun = 0 →
    n' = { n with closeRun := n'.closeRun, verdict := .exceeded, toleranceRun := 1 }
  ordered : n.state = .closed → r.embossTolerance < mag e → 1 ≤ n.toleranceRun →
    n' = { n with
      closeRun := n'.closeRun, verdict := .exceeded, toleranceRun := 2, state := .opening
      orderReason := some .tolerance, openCause := none }
  resting : n.state = .opening ∨ n.state = .parked → n' = { n with closeRun := n'.closeRun }

/-- What the nip is after an unpaired frame, `acquired` saying that the channel entered ACQUIRE (R86, R87, R89). -/
structure NipMiss (channel : RegisterState) (acquired : Prop) (n n' : Nip) : Prop where
  run : (acquired → n'.closeRun = 0) ∧ (¬ acquired → n'.closeRun = n.closeRun)
  opened : n.state = .opened → n' = { n with
    closeRun := n'.closeRun, state := if channel = .locked ∧ n'.closeRun = 3 then .ready else .opened }
  ready : n.state = .ready → n' = { n with
    closeRun := n'.closeRun, state := if channel = .locked then .ready else .opened }
  closed : n.state = .closed → ¬ acquired → n' = n
  ordered : n.state = .closed → acquired →
    n' = { n with closeRun := 0, state := .opening, orderReason := some .acquire, openCause := none }
  resting : n.state = .opening ∨ n.state = .parked → n' = { n with closeRun := n'.closeRun }

/-- An emboss frame at w that is paired with the held capture `h` and has the error `e` (R78 to R80). -/
structure EmbossSample (s t : State) (h : HeldCapture) (e : Int) : Prop where
  record : t.emboss.lastCe = some h.position ∧ t.emboss.frameError = some e ∧
    t.emboss.held = some { h with used := true } ∧ t.emboss.unpaired = s.emboss.unpaired
  channel : FrameTaken (embossSettings s) t.emboss.frameIndex h.position (some e) s.emboss.channel
    t.emboss.channel
  nip : NipSample s.recipe t.emboss.channel.state e s.emboss.nip t.emboss.nip

/-- An unpaired emboss frame at w (R78 to R80). -/
structure EmbossMiss (s t : State) : Prop where
  record : t.emboss.lastCe = none ∧ t.emboss.frameError = none ∧ t.emboss.held = s.emboss.held ∧
    t.emboss.unpaired = min 65535 (s.emboss.unpaired + 1)
  channel : ∀ reference,
    FrameTaken (embossSettings s) t.emboss.frameIndex reference none s.emboss.channel t.emboss.channel
  nip : NipMiss t.emboss.channel.state
    (s.emboss.channel.state = .hold ∧ 7 ≤ s.emboss.channel.misses) s.emboss.nip t.emboss.nip

/-! ### A segment's share of the map and of the samples (06, 08) -/

/-- The summed length of the items of a kind. -/
def chargedLength (kind : MapKind) (xs : List DefectItem) : Nat :=
  ((xs.filter (fun x => x.kind == kind)).map (fun x => x.length.toNat)).sum

/-- A roll record has been charged with the items `xs` in turn (R104): the total of each kind adds the lengths, a SPLICE
sets the splice flag, and the items join the list up to 8 and are counted as overflow beyond. -/
structure Charged (xs : List DefectItem) (r r' : RollRecord) : Prop where
  register : r.registerOff ≤ 4294967295 →
    r'.registerOff = min 4294967295 (r.registerOff + chargedLength .register xs)
  emboss : r.embossOff ≤ 4294967295 → r'.embossOff = min 4294967295 (r.embossOff + chargedLength .emboss xs)
  defect : r.defectTotal ≤ 4294967295 →
    r'.defectTotal = min 4294967295 (r.defectTotal + chargedLength .defect xs)
  splice : r'.splice = (r.splice || xs.any (fun x => x.kind == .splice))
  items : r.defects.length ≤ 8 → r'.defects = (r.defects ++ xs).take 8
  overflow : r.defects.length ≤ 8 → r.defectOverflow ≤ 65535 →
    r'.defectOverflow = min 65535 (r.defectOverflow + (r.defects.length + xs.length - 8))

/-- The samples of a segment [start, c) that its record takes from the queue: those from start on and below c, oldest
first, as far as the count of a SALE record has room; a WASTE record takes none (R137, R139). -/
def samplesTaken (start c : Pos) (r : RollRecord) (queue : List Sample) : List Sample :=
  if r.kind = .sale then
    (queue.filter (fun x => decide (start ≤ x.position ∧ x.position < c))).take (65535 - r.shade.n)
  else []

/-- The samples `xs` have been accumulated (R139): the count and the sums add, and each least and greatest value covers
what it covered and the samples. -/
structure Accumulated (xs : List Sample) (a b : Accumulator) : Prop where
  count : b.n = a.n + xs.length
  sums : b.sum = ⟨a.sum.l + (xs.map (fun x => x.shade.l)).sum, a.sum.a + (xs.map (fun x => x.shade.a)).sum,
    a.sum.b + (xs.map (fun x => x.shade.b)).sum⟩
  empty : xs = [] → b.range = a.range
  range : xs ≠ [] → ∃ x, b.range = some x ∧
    some x.least.l = ((a.range.map (fun y => y.least.l)).toList ++ xs.map (fun y => y.shade.l)).min? ∧
    some x.least.a = ((a.range.map (fun y => y.least.a)).toList ++ xs.map (fun y => y.shade.a)).min? ∧
    some x.least.b = ((a.range.map (fun y => y.least.b)).toList ++ xs.map (fun y => y.shade.b)).min? ∧
    some x.greatest.l = ((a.range.map (fun y => y.greatest.l)).toList ++ xs.map (fun y => y.shade.l)).max? ∧
    some x.greatest.a = ((a.range.map (fun y => y.greatest.a)).toList ++ xs.map (fun y => y.shade.a)).max? ∧
    some x.greatest.b = ((a.range.map (fun y => y.greatest.b)).toList ++ xs.map (fun y => y.shade.b)).max?

/-- A record `r` has become `r'` by taking the share of a segment [start, c): the charges of the map, the samples, and
the thin-sampling flag when the thin mark was set (R104, R137, R139). -/
structure ShareTaken (start c : Pos) (m : WebMap) (shade : ShadeClassifier) (r r' : RollRecord) : Prop where
  charged : Charged (charges start c m) r r'
  samples : Accumulated (samplesTaken start c r shade.queue) r.shade r'.shade
  thin : r'.thinSampling = (r.thinSampling || shade.thin)

/-- Of the samples `removed` from the queue for the segment of a plan that ends at `c`, those that its record does not
take count as waste (R137, R139). -/
def SamplesWasted (p : Plan) (c : Pos) (removed : List Sample) (s t : State) : Prop :=
  s.shade.wasteSamples ≤ 4294967295 →
    t.shade.wasteSamples = min 4294967295 (s.shade.wasteSamples + (removed.length -
      (match p.record with
      | some i => (samplesTaken p.start c (s.record i) s.shade.queue).length
      | none => 0)))

/-! ### Ends of segments (07) -/

/-- Match arithmetic places ends: MATCHED cut mode with k0 defined (R113). -/
def MatchUsed (s : State) : Bool := decide (s.recipe.cutModeField = 0 ∧ s.clock.k0 ≠ none)

/-- `y` is the first match at or after `x` (R113). -/
def FirstMatch (s : State) (x y : Pos) : Prop :=
  (∀ k0, s.recipe.cutModeField = 0 → s.clock.k0 = some k0 →
    y = x + (k0 + s.recipe.cutOffset - x) % s.recipe.repeatLength) ∧
  (s.recipe.cutModeField ≠ 0 ∨ s.clock.k0 = none → y = x)

/-- `y` is the last match at or before `x` (R113). -/
def LastMatch (s : State) (x y : Pos) : Prop :=
  (∀ k0, s.recipe.cutModeField = 0 → s.clock.k0 = some k0 →
    y = x - (x - k0 - s.recipe.cutOffset) % s.recipe.repeatLength) ∧
  (s.recipe.cutModeField ≠ 0 ∨ s.clock.k0 = none → y = x)

/-- w lies ahead of the cut due point of an end `c` (R119). -/
def DueAhead (s : State) (c : Pos) : Prop := (s.web.w : Int) < c + s.geometry.dK - s.recipe.cutLead

/-- A SALE segment from `start` dodges a splice at `z` with the end `c`, the last match at or before z − G_s (R114). -/
def Dodges (s : State) (start z c : Pos) : Prop :=
  start + s.recipe.minLength + s.recipe.spliceGuard ≤ z ∧ start + s.recipe.minLength ≤ c ∧
    (s.web.w : Int) ≤ c + s.geometry.dK - s.recipe.cutLead

/-- The end `e` of planned waste becomes `e'` as the later splices move it, in map order (R114). -/
def Guarded (s : State) (e : Pos) : List Pos → Pos → Prop
  | [], e' => e' = e
  | z :: zs, e' => ∃ y, FirstMatch s (z + s.recipe.spliceGuard) y ∧
      Guarded s (if z < e + s.recipe.spliceGuard then max e y else e) zs e'

/-- `q` is the plan of a SALE segment at `start`, `zs` being the splices at or beyond it in map order, before a record
is taken (R114). The pending end cause of a converted segment is the model's choice (assumption 61). -/
structure SalePlanned (s : State) (start : Pos) (zs : List Pos) (q : Plan) : Prop where
  parts : q.start = start ∧ q.record = none ∧ q.phase = .winding ∧ q.matched = MatchUsed s ∧
    q.unmatched = (!MatchUsed s) ∧ q.limited = false
  whole : ∀ c, FirstMatch s (start + s.recipe.targetLength) c → (∀ z ∈ zs.head?, c + s.recipe.spliceGuard ≤ z) →
    q.kind = .sale ∧ q.stop = some c ∧ q.following = none ∧ q.cause = .planned
  dodged : ∀ c z later c' e e', FirstMatch s (start + s.recipe.targetLength) c → zs = z :: later →
    z < c + s.recipe.spliceGuard → LastMatch s (z - s.recipe.spliceGuard) c' → Dodges s start z c' →
    FirstMatch s (max (z + s.recipe.spliceGuard) (c' + 1)) e → Guarded s e later e' →
    q.kind = .sale ∧ q.stop = some c' ∧ q.cause = .spliceDodge ∧
      q.following = some { stop := e', matched := MatchUsed s, unmatched := !MatchUsed s }
  converted : ∀ c z later c' e e', FirstMatch s (start + s.recipe.targetLength) c → zs = z :: later →
    z < c + s.recipe.spliceGuard → LastMatch s (z - s.recipe.spliceGuard) c' → ¬ Dodges s start z c' →
    FirstMatch s (max (z + s.recipe.spliceGuard) (start + 1)) e → Guarded s e later e' →
    q.kind = .waste ∧ q.stop = some e' ∧ q.following = none ∧ q.cause = .planned

/-- The plan of the waste that follows a dodged roll, from `start` (R121 step 5). Its pending end cause is the model's
choice (assumption 61). -/
def followingPlan (start : Pos) (f : FollowingWaste) : Plan :=
  { kind := .waste, start := start, stop := some f.stop, matched := f.matched, unmatched := f.unmatched
    limited := false, record := none, phase := .winding, following := none, cause := .planned }

/-- A plan's end is placed or moved to `c` (R111, R113): the plan holds the match mode used, its record takes the end,
both are unmatched from then on when fixed arithmetic placed it, and no other record changes. -/
structure EndPlaced (p : Plan) (c : Pos) (s t : State) : Prop where
  plan : t.roll = { s.roll with
    records := t.roll.records
    plan := some { p with
      stop := some c, matched := MatchUsed s, unmatched := p.unmatched || !MatchUsed s } }
  untracked : p.record = none → t.roll.records = s.roll.records
  tracked : ∀ i, p.record = some i → (t.record i).stop = some c ∧
    (t.record i).unmatched = ((s.record i).unmatched || !MatchUsed s)
  others : ∀ j, p.record ≠ some j → t.record j = s.record j

/-- A plan's end is placed at `e`, its cut due point is reached, and its cut is issued at once with the strobe position
`y` (R113, R115, R119): the plan and its record are CLOSING, the cut count adds 1, and the new cut record joins the two
most recent. -/
structure CutAtOnce (p : Plan) (e y : Pos) (s t : State) : Prop where
  plan : ∃ x : CutRecord, x.number = min 4294967295 (s.roll.cutCount + 1) ∧ x.state = .issued ∧
    x.ending = p.record ∧ x.kindNext = some (if p.following = none then .sale else .waste) ∧ x.cut = e ∧
    x.strobe = y ∧ x.confirm = none ∧
    t.roll = { s.roll with
      plan := some { p with
        stop := some e, phase := .closing, matched := MatchUsed s, unmatched := p.unmatched || !MatchUsed s }
      cuts := (s.roll.cuts ++ [x]).drop (s.roll.cuts.length + 1 - 2)
      cutCount := x.number, records := t.roll.records }
  untracked : p.record = none → t.roll.records = s.roll.records
  tracked : ∀ i, p.record = some i → (t.record i).state = .closing ∧ (t.record i).stop = some e ∧
    (t.record i).endCause = some (if (s.record i).endCause = some .cutFail then .cutFail else p.cause) ∧
    (t.record i).unmatched = ((s.record i).unmatched || !MatchUsed s)
  others : ∀ j, p.record ≠ some j → t.record j = s.record j

/-- The strobe position of a cut at `e` is `y`, ahead of w, and no cut is ISSUED (R117, R119). -/
def StrobeAhead (s : State) (e y : Pos) : Prop :=
  y = e + s.geometry.dK + clampInt (-s.recipe.window) s.recipe.window (meanNearest s.roll.transport) ∧
    s.web.w < y ∧ ∀ x ∈ s.roll.cuts, x.state ≠ .issued

/-- The strobe position of a cut at `e` would lie at or below w, so that it is w, and no cut is ISSUED (R119). -/
def StrobeReached (s : State) (e : Pos) : Prop :=
  e + s.geometry.dK + clampInt (-s.recipe.window) s.recipe.window (meanNearest s.roll.transport) ≤ s.web.w ∧
    ∀ x ∈ s.roll.cuts, x.state ≠ .issued

/-- `c'` is the end `c` of the plan as cut due fixes it (R119 step 1): re-anchored to the match points when match
arithmetic placed it and k0 is defined, unless it would not lie beyond S. -/
def Reanchored (s : State) (p : Plan) (c c' : Pos) : Prop :=
  (∀ k0, p.matched = true → s.clock.k0 = some k0 →
    c' = if p.start < c - reduceMod s.recipe.repeatLength (c - k0 - s.recipe.cutOffset)
      then c - reduceMod s.recipe.repeatLength (c - k0 - s.recipe.cutOffset) else c) ∧
  (p.matched = false ∨ s.clock.k0 = none → c' = c)

/-- Cut due is made for the plan, its end being fixed at `c`, with the strobe position `y` and the cut record `x` (R119):
the plan and its record are CLOSING, the cut count adds 1, and the cut record joins the two most recent. -/
structure CutFixed (p : Plan) (c y : Pos) (x : CutRecord) (s t : State) : Prop where
  roll : t.roll = { s.roll with
    plan := some { p with stop := some c, phase := .closing }
    cuts := (s.roll.cuts ++ [x]).drop (s.roll.cuts.length + 1 - 2)
    cutCount := x.number, records := t.roll.records }
  cut : x.number = min 4294967295 (s.roll.cutCount + 1) ∧ x.state = .issued ∧ x.ending = p.record ∧
    x.kindNext = some (if p.following = none then .sale else .waste) ∧ x.cut = c ∧ x.strobe = y ∧ x.confirm = none
  untracked : p.record = none → x.kindEnding = p.kind ∧ x.cause = p.cause ∧ t.roll.records = s.roll.records
  tracked : ∀ i, p.record = some i →
    x.kindEnding = (s.record i).kind ∧ (t.record i).state = .closing ∧ (t.record i).stop = some c ∧
    (t.record i).endCause = some (if (s.record i).endCause = some .cutFail then .cutFail else p.cause) ∧
    x.cause = (if (s.record i).endCause = some .cutFail then .cutFail else p.cause) ∧
    ∀ j, j ≠ i → t.record j = s.record j

/-- The ISSUED cut. -/
def issuedCutOf (s : State) : Option CutRecord := s.roll.cuts.find? (fun x => x.state == .issued)

/-- The AWAITING cut. -/
def awaitingCutOf (s : State) : Option CutRecord := s.roll.cuts.find? (fun x => x.state == .awaiting)

/-- The AWAITING cut, if any, does not end the segment of the plan. -/
def AwaitsOther (p : Plan) (s : State) : Prop :=
  ∀ y i, awaitingCutOf s = some y → y.ending = some i → p.record ≠ some i

/-- What the AWAITING cut's segment adds to the waste total when a strobe or a break ends it (R131). -/
def awaitedWaste (s : State) : Nat :=
  match awaitingCutOf s with
  | some y =>
    match y.ending with
    | some i => if (s.record i).kind = .waste then (s.record i).length.toNat else 0
    | none => if y.kindEnding = .waste then (y.cut - y.segmentStart).toNat else 0
  | none => 0

/-- The AWAITING cut is UNCONFIRMED at a strobe or a break (R121 step 1, R129 step 1): it is the last unconfirmed one,
and a SALE record that it ended is graded with the unconfirmed-cut flag (R130). -/
structure AwaitingEnded (s t : State) : Prop where
  last : t.roll.lastUnconfirmed =
    match awaitingCutOf s with
    | some y => some y.number
    | none => s.roll.lastUnconfirmed
  graded : ∀ y i, awaitingCutOf s = some y → y.ending = some i → (s.record i).kind = .sale →
    (t.record i).unconfirmedCut = true ∧ (t.record i).grade.isSome = true ∧ (t.record i).saleNumber.isSome = true

/-- Record j is FREE when the next segment of a strobe is planned: the AWAITING cut has then been finished, which frees a
WASTE record it ended, and the plan's own record is in CUT_WAIT (R121 steps 1 and 3, R131). -/
def FreeAtStrobe (p : Plan) (s : State) (j : Fin 24) : Prop :=
  p.record ≠ some j ∧
    ((∃ y, awaitingCutOf s = some y ∧ y.ending = some j ∧ (s.record j).kind = .waste) ∨
      ((∀ y, awaitingCutOf s = some y → y.ending ≠ some j) ∧ (s.record j).state = .free))

/-- `q` is the plan of the segment that follows a cut of the plan `p` at `c`, before a record is taken (R114, R121
step 5). -/
def NextPlanned (p : Plan) (c : Pos) (s : State) (q : Plan) : Prop :=
  (∀ f, p.following = some f → q = followingPlan c f) ∧
  (p.following = none →
    SalePlanned s c ((s.map.entries.filter (fun e => e.kind == .splice && decide (c ≤ e.start))).map
      MapEntry.start) q)

/-- The strobe of the ISSUED cut `x` of the plan `p`, `q` being the plan of the next segment, whose cut due point is not
dealt with here, and `r` the record it takes (R121). The next segment takes the lowest FREE record, or is untracked and
counted as lost when no record is FREE (R111). -/
structure Strobed (p q : Plan) (x : CutRecord) (r : Option (Fin 24)) (s t : State) : Prop where
  kept : t = { s with
    line := { s.line with holds := t.line.holds }, roll := t.roll, map := consumed p.start x.cut s.map
    shade := { s.shade with
      queue := s.shade.queue.filter (fun y => decide (x.cut ≤ y.position)), thin := false
      wasteSamples := t.shade.wasteSamples, batches := t.shade.batches }
    label := t.label, store := t.store, ports := t.ports }
  notice : Pending .winder .cut t
  roll : t.roll = { s.roll with
    plan := some { q with record := r }, records := t.roll.records
    cuts := s.roll.cuts.map (fun y =>
      match y.state with
      | .awaiting => { y with state := .unconfirmed }
      | .issued => { y with
          state := .awaiting, confirm := some (y.strobe + s.recipe.confirmDistance)
          kindNext := some q.kind }
      | .done | .failed | .unconfirmed | .withdrawn => y)
    lastUnconfirmed := t.roll.lastUnconfirmed, wasteTotal := t.roll.wasteTotal
    lostSegments := if r = none then min 65535 (s.roll.lostSegments + 1) else s.roll.lostSegments
    saleCounter := t.roll.saleCounter, strobeOff := some (x.strobe + s.recipe.pulseWidth) }
  awaited : AwaitingEnded s t
  waste : s.roll.wasteTotal ≤ 4294967295 → t.roll.wasteTotal = min 4294967295 (s.roll.wasteTotal + awaitedWaste s)
  ended : ∀ i, p.record = some i → (t.record i).state = .cutWait ∧
    (AwaitsOther p s → ShareTaken p.start x.cut s.map s.shade (s.record i) (t.record i))
  samples : AwaitsOther p s →
    SamplesWasted p x.cut (s.shade.queue.filter (fun y => decide (y.position < x.cut))) s t
  taken : ∀ i, r = some i → FreeAtStrobe p s i ∧ (∀ j, j < i → ¬ FreeAtStrobe p s j) ∧
    t.record i = { RollRecord.freed (t.record i).revision with
      state := .winding, kind := q.kind, run := s.line.run.getD 0, start := q.start, stop := q.stop
      unmatched := q.unmatched }
  lost : r = none → ∀ j, ¬ FreeAtStrobe p s j

/-- An added splice has placed the end `c` for the plan `p` (R116): the end stands while its cut due point lies ahead, is
cut at once when that point is reached, and is struck at once when the strobe position would lie at or below w, the cut
due point of the next segment's end lying ahead (R119). `e` is the splice's entry and `added` the answer. -/
structure SpliceEnds (port : Port) (args : List Byte) (e : MapEntry) (added : List Byte) (p : Plan) (c : Pos)
    (s : State) : Prop where
  placed : DueAhead s c → ∃ t, exec (.splice port args) s = .next t ∧
    t = { s with roll := t.roll, map := t.map, ports := t.ports } ∧ SpliceAdded e s.map t.map ∧
    EndPlaced p c s t ∧ Answered .splice port args .ok added quiet s t
  cut : ∀ y, ¬ DueAhead s c → 0 < s.recipe.repeatLength → StrobeAhead s c y →
    ∃ t, exec (.splice port args) s = .next t ∧
      t = { s with roll := t.roll, map := t.map, ports := t.ports } ∧ SpliceAdded e s.map t.map ∧
      CutAtOnce p c y s t ∧ Answered .splice port args .ok added (on .winder .cut) s t
  struck : ¬ DueAhead s c → 0 < s.recipe.repeatLength → StrobeReached s c →
    ∃ (t u : State) (x : CutRecord) (p' : Plan) (raised : Raised), exec (.splice port args) s = .next t ∧
      u = { s with roll := u.roll, map := u.map } ∧ SpliceAdded e s.map u.map ∧ CutAtOnce p c s.web.w s u ∧
      issuedCutOf u = some x ∧ u.roll.plan = some p' ∧
      Answered .splice port args .ok added raised s t ∧ Has raised .winder .cut ∧
      ∀ q a, NextPlanned p' c u q → q.stop = some a → DueAhead s a → ∃ r, Strobed p' q x r u t

/-! ### What an open, a start and the store leave -/

/-- A capture channel as an open leaves it (R5). -/
structure ChannelIdle (c : ChannelRecord) : Prop where
  enabled : c.enabled = false
  window : c.window = .closed
  state : c.state = .seek
  strays : c.strays = 0
  misses : c.misses = 0
  run : c.run = 0

/-- A register channel as an open leaves it (R5). -/
structure ChannelOff (c : RegisterChannel) : Prop where
  state : c.state = .off
  samples : c.samples = []
  trim : c.trim = 0
  outstanding : c.outstanding = none
  settle : c.settleBoundary = 0

/-- The run state as every open leaves it, from the path distance D_K and the highest journalled roll number
(R5). -/
structure RunInitialised (dK highest : Nat) (t : State) : Prop where
  web : t.web.w = dK ∧ t.web.debt = 0 ∧ t.web.reverseLimit = false ∧ t.web.lengthLimit = false
  clock : t.clock.phase = 0 ∧ t.clock.index = 0 ∧ t.clock.k0 = none ∧ t.clock.measured = []
  channels : ∀ ch, ChannelIdle (t.channel ch)
  units : ∀ k, ChannelOff (t.unit k)
  emboss : ChannelOff t.emboss.channel ∧ t.emboss.nip.state = .parked
  functions : t.register.trimHold = false ∧ t.register.sampleFlush = false
  map : t.map.entries = [] ∧ t.shade.queue = []
  roll : t.roll.transport = [] ∧ t.roll.plan = none ∧ ∀ i, (t.record i).state = .free
  labels : t.label.entries = []
  counter : t.roll.saleCounter = highest
  totals : t.roll.wasteTotal = 0 ∧ t.roll.lostSegments = 0 ∧ t.label.unjournalled = 0
  line : t.line.breakFlag = false ∧ t.line.stagedTune = none

/-- The checks of START (R9). -/
def startCheck (s : State) : Nat → Prop
  | 1 => ∀ k : Fin 7, (k.val : Int) + 1 < s.recipe.unitCount →
      mag (s.recipe.unitOffset k) + s.recipe.window < s.recipe.repeatLength / 2
  | 2 => s.recipe.window < s.recipe.repeatLength / 2
  | 3 => s.recipe.minLength ≤ s.recipe.targetLength
  | 4 => s.recipe.repeatLength ≤ s.recipe.cutLead
  | 5 => s.recipe.cutLead < s.recipe.minLength
  | 6 => s.recipe.confirmDistance < s.recipe.minLength
  | 7 => s.line.geometryValid = true
  | 8 => s.recipe.repeatLength / 2 + s.recipe.window ≤ s.geometry.dK
  | 9 => s.recipe.embossEnableField = 1 → s.recipe.window ≤ (s.geometry.dK : Int) - s.geometry.dE
  | _ => True

/-- The result bytes that report clamped fields: their number, the first 16 identifiers, and 255 in place of a
seventeenth (R7). -/
def clampBytes (ids : List Nat) : List Byte :=
  [BitVec.ofNat 8 ids.length] ++ (ids.take 16).map (BitVec.ofNat 8)
    ++ (if 16 < ids.length then [255#8] else [])

/-- Everything that a store event leaves as it was: the web, the clock, the capture unit, the register and emboss
blocks, the map, the recipe and the working geometry. -/
def StoreSide (s t : State) : Prop :=
  t = { s with
    line := t.line, roll := t.roll, shade := t.shade, label := t.label, store := t.store
    nv := t.nv, ports := t.ports, fresh := t.fresh }

/-- A slot has become DEGRADED at a failure (R170): its entry keeps the rest, STORE is pending on every port, and
the geometry record and the other slots hold what they held. -/
structure Degraded (n : Fin 4) (s t : State) : Prop where
  state : (t.dir n).state = .degraded
  order : (t.dir n).order = (s.dir n).order
  run : (t.dir n).run = (s.dir n).run
  count : (t.dir n).count = (s.dir n).count
  full : (t.dir n).full = (s.dir n).full
  notice : ∀ p, (t.port p).pending &&& Notice.store.bit = Notice.store.bit
  geometry : t.nv.geometry = s.nv.geometry
  others : ∀ m, m ≠ n → t.nv.slots.get m = s.nv.slots.get m

/-- A read that stood behind the ended head is the new head and is in progress (R167, R168). -/
def NextReadStarts (rest : List StoreOp) (t : State) : Prop :=
  ∀ op later, rest = op :: later → op.isRead = true →
    t.store.queue.head? = some op ∧ t.store.head = .running .nothing

/-- What an answered purge step leaves on the ports: its answer, the new progress, the notices raised and, for a
mistake, PROTECT (R177, R178). -/
def Purged (r : Req) (p : Port) (args : List Byte) (status : Status) (progress : Purge) (mistake : Bool)
    (raised : Raised) (s t : State) : Prop :=
  ∀ q, t.port q =
    if q = p then
      { s.port p with
        response := some ⟨r.role.code, status, []⟩
        purge := progress
        protect := (s.port p).protect || mistake
        pending := (s.port p).pending ||| (if mistake then Notice.protect.bit else 0#16) ||| raised p
        sdo := s.summary p :: List.replicate (args.length + 2) 0#8 }
    else { s.port q with pending := (s.port q).pending ||| raised q }

/-! ### Limits -/

/-- Every FIFO holds at most 256 bytes (R187). -/
def FifosFit (s : State) : Prop := ∀ p, (s.port p).fifo.length ≤ 256

/-- The store queue holds at most 8 operations (R167). -/
def StoreQueueFits (s : State) : Prop := s.store.queue.length ≤ 8

/-- The web map holds at most 48 entries in non-decreasing order of start (R94). -/
def MapFits (m : WebMap) : Prop := m.entries.length ≤ 48 ∧ m.entries.Pairwise (fun x y => x.start ≤ y.start)

/-- The lists of the blocks keep their lengths: 8 measured repeats (02), 4 transport errors (R118), 2 cut records
(R117), 128 shade samples (R136) and 8 label entries (R153). -/
structure ListsFit (s : State) : Prop where
  measured : s.clock.measured.length ≤ 8
  transport : s.roll.transport.length ≤ 4
  cuts : s.roll.cuts.length ≤ 2
  samples : s.shade.queue.length ≤ 128
  labels : s.label.entries.length ≤ 8

/-- Every addressed bank of the order store is in its canonical form. -/
def BanksCanonical (s : State) : Prop :=
  ∀ n, cellsWf (s.nv.slots.get n).batches = true ∧ cellsWf (s.nv.slots.get n).journal = true

/-- The web position and the geometry that every open copies it from are in range (R17, R18, R23). -/
def WebInRange (s : State) : Prop :=
  s.web.w ≤ 4294967295 ∧ s.web.debt ≤ 65535 ∧ s.web.faults ≤ 65535 ∧ s.geometry.dK ≤ 2000000

/-- All of the limits together. -/
structure Within (s : State) : Prop where
  fifos : FifosFit s
  store : StoreQueueFits s
  map : MapFits s.map
  lists : ListsFit s
  banks : BanksCanonical s
  web : WebInRange s

end Sys2Proof.Safety
end

