-- ==== Sys2Proof/Certificates/Slice0/Obligations.lean ====
section
/-!
DEFINITION. The statements made of the LC-48, each a proposition for the provers. Each docstring names the rule of
spec/ that the statement formalises, or says that it is the model's own choice and names the log entry.
-/

open Sys2Proof Sys2Proof.Machine Sys2Proof.Safety


/-! ### The machine as a whole -/

/-- A step with a command at the front of the queue is exec of that command on the state with the rest of the
queue, and a step with no command waiting answers the state as it is. Both are the model's own convention for a
block that is driven from outside (assumption 1). -/
def Obligations.StepRunsFrontCommand : Prop :=
  (∀ (c : Instr) (rest : List Instr) (s : State),
    step { s with pending := c :: rest } = exec c { s with pending := rest }) ∧
  ∀ s : State, s.pending = [] → step s = .next s

/-- What cold reset leaves, by the "At cold reset" columns and R1, R20, R25, R27, R52, R86, R94, R117, R118, R136,
R146, R153, R166 and R195: the line in NO_ORDER with the default recipe and zero geometry, every block empty, one
GEOMETRY_READ in the store queue, and every port at the values of a port reset with mask FFFFh. The input levels,
the directory and the non-volatile content of a new part are not part of this statement. -/
def Obligations.ResetValues : Prop :=
  State.reset.line =
    { state := .noOrder, order := none, run := none, slot := none, journalling := false, breakFlag := false
      stagedTune := none, geometryValid := false, holds := ⟨false, false, false⟩
      closing := .notClosing } ∧
  State.reset.recipe.fields.rows =
    [5300, 1, 0, 0, 0, 0, 0, 0, 0, 400, 50, 5, 8, 20, 500, 2000, 4, 4, 100, 50, 200, 0, 1, 0, 400, 50, 5, 8,
      20, 500, 2000, 4, 4, 30, 100, 0, 100500, 95000, 0, 30000, 20000, 2000, 50000, 1000, 40, 16, 24, 60,
      8, 4] ∧
  State.reset.geometry =
    { dE := 0, dQ := 0, dW := 0, dK := 0, settle := Table.replicate 7 0, settleEmboss := 0, polarity := 0 } ∧
  (State.reset.web.w = 0 ∧ State.reset.web.debt = 0 ∧ State.reset.web.reverseLimit = false ∧
    State.reset.web.lengthLimit = false ∧ State.reset.web.faults = 0) ∧
  (State.reset.clock.state = .idle ∧ State.reset.clock.phase = 0 ∧ State.reset.clock.index = 0 ∧
    State.reset.clock.k0 = none ∧ State.reset.clock.measured = [] ∧ State.reset.clock.stretch = none ∧
    State.reset.clock.stretchOver = false ∧ State.reset.rpo = false) ∧
  (∀ ch, (State.reset.channel ch).enabled = false ∧ (State.reset.channel ch).state = .seek ∧
    (State.reset.channel ch).window = .closed) ∧
  State.reset.capture.frame = none ∧
  (∀ k, (State.reset.unit k).state = .off ∧ (State.reset.unit k).trim = 0 ∧
    (State.reset.unit k).outstanding = none) ∧
  (State.reset.register.trimHold = false ∧ State.reset.register.sampleFlush = false) ∧
  (State.reset.emboss.channel.state = .off ∧ State.reset.emboss.nip.state = .parked ∧
    State.reset.emboss.held = none) ∧
  (State.reset.map.entries = [] ∧ State.reset.map.additions = 0 ∧ State.reset.map.overflows = 0) ∧
  (∀ i, (State.reset.record i).state = .free ∧ (State.reset.record i).revision = 0) ∧
  (State.reset.roll.plan = none ∧ State.reset.roll.cuts = [] ∧ State.reset.roll.cutCount = 0 ∧
    State.reset.roll.lastUnconfirmed = none ∧ State.reset.roll.transport = [] ∧
    State.reset.roll.wasteTotal = 0 ∧ State.reset.roll.lostSegments = 0 ∧ State.reset.cutStrobe = false) ∧
  (State.reset.shade.queue = [] ∧ State.reset.shade.thin = false ∧ State.reset.shade.wasteSamples = 0 ∧
    State.reset.shade.batches = []) ∧
  (State.reset.label.entries = [] ∧ State.reset.label.unjournalled = 0) ∧
  (State.reset.store.queue = [.geometryRead] ∧ State.reset.store.lastFailure = none) ∧
  (∀ p, (State.reset.port p).request = none ∧ (State.reset.port p).response = none ∧
    (State.reset.port p).pending = 0x0010#16 ∧ (State.reset.port p).mask = 0xFFFF#16 ∧
    (State.reset.port p).toStation = false ∧ (State.reset.port p).fifo = [] ∧
    (State.reset.port p).late = [] ∧
    (State.reset.port p).pointer = 0 ∧ (State.reset.port p).watch = none ∧
    (State.reset.port p).nibble = 0 ∧ (State.reset.port p).purge = .nothing ∧
    (State.reset.port p).protect = false ∧ (State.reset.port p).overrun = false ∧
    (State.reset.port p).frame = false ∧ State.reset.noticeOut p = true)

/-- COLD_RESET puts every block at the values it has at reset, from any state; where the manual gives none they are
the model's choice (assumptions 4, 5, 16, 46 and 53). The levels of the encoder pair and of STORE_EN are the inputs'
own, and the commands that wait go on waiting (assumption 3). The non-volatile content is kept, except that an
operation in progress leaves what it was changing as R169 states: a header, recipe, batch or geometry write leaves its
record failing to verify, a journal append leaves a blank position failing to verify, and an erase leaves the header,
with every other record either as it was or blank. -/
def Obligations.ColdReset : Prop :=
  ∀ s : State, ∃ t, exec .coldReset s = .next t ∧
    t = { State.reset with
      web := { State.reset.web with pair := s.web.pair }
      store := { State.reset.store with enabled := s.store.enabled, sampled := s.store.enabled }
      nv := t.nv, fresh := t.fresh, pending := s.pending } ∧
    ((∀ c, s.store.head ≠ .running c) → t.nv = s.nv) ∧
    (∀ c op rest, s.store.head = .running c → s.store.queue = op :: rest → op.isRead = true → t.nv = s.nv) ∧
    (∀ c n w rest, s.store.head = .running c → s.store.queue = .headerWrite n w :: rest →
      t.nv = { s.nv with
        slots := s.nv.slots.set n { s.nv.slots.get n with header := .broken } }) ∧
    (∀ c n r rest, s.store.head = .running c → s.store.queue = .recipeWrite n r :: rest →
      t.nv = { s.nv with
        slots := s.nv.slots.set n { s.nv.slots.get n with recipe := .broken } }) ∧
    (∀ c g rest, s.store.head = .running c → s.store.queue = .geometryWrite g :: rest →
      t.nv = { s.nv with geometry := .broken }) ∧
    (∀ c n k rest, s.store.head = .running c → s.store.queue = .batchWrite n k :: rest →
      t.nv = { s.nv with
        slots := s.nv.slots.set n { s.nv.slots.get n with batches := (t.nv.slots.get n).batches } } ∧
      cellAt (t.nv.slots.get n).batches k = .broken ∧
      ∀ j, j ≠ k → cellAt (t.nv.slots.get n).batches j = cellAt (s.nv.slots.get n).batches j) ∧
    (∀ c n i rest, s.store.head = .running c → s.store.queue = .journalAppend n i :: rest →
      cellAt (s.nv.slots.get n).journal (s.dir n).count = .blank →
      t.nv = { s.nv with
        slots := s.nv.slots.set n { s.nv.slots.get n with journal := (t.nv.slots.get n).journal } } ∧
      cellAt (t.nv.slots.get n).journal (s.dir n).count = .broken ∧
      ∀ j, j ≠ (s.dir n).count →
        cellAt (t.nv.slots.get n).journal j = cellAt (s.nv.slots.get n).journal j) ∧
    (∀ c n rest, s.store.head = .running c → s.store.queue = .slotErase n :: rest →
      t.nv.geometry = s.nv.geometry ∧ (∀ m, m ≠ n → t.nv.slots.get m = s.nv.slots.get m) ∧
      (t.nv.slots.get n).header = (s.nv.slots.get n).header ∧
      ((t.nv.slots.get n).recipe = (s.nv.slots.get n).recipe ∨ (t.nv.slots.get n).recipe = .blank) ∧
      (∀ x, x ∈ (t.nv.slots.get n).batches → x ∈ (s.nv.slots.get n).batches) ∧
      ∀ x, x ∈ (t.nv.slots.get n).journal → x ∈ (s.nv.slots.get n).journal)

/-- PORT_RESET resets one port (R194): its slots, FIFO, flags, pointer, watch and purge progress, with RESET alone
pending and the word at 0000h, which holds the line state's code, prefetched. A request that still writes records
ends; one that waits for OPENING or for a journal read goes on with its response to be discarded. PROTECT, the
mask, the nibble and everything outside the port are unchanged. -/
def Obligations.PortReset : Prop :=
  ∀ (p : Port) (s : State), ∃ t, exec (.portReset p) s = .next t ∧
    SameButPorts s t ∧ OthersKept p s t ∧
    t.port p = { s.port p with
      request := (t.port p).request, response := none, overrun := false, frame := false
      pending := 0x0010#16, toStation := false, fifo := [], late := [], pointer := 0
      prefetch := BitVec.ofNat 16 s.line.state.code, watch := none, purge := .nothing } ∧
    ((s.port p).request = none → (t.port p).request = none) ∧
    (∀ code bytes result d, (s.port p).request = some ⟨code, .words bytes result, d⟩ →
      (t.port p).request = none) ∧
    (∀ code d, (s.port p).request = some ⟨code, .opening, d⟩ →
      (t.port p).request = some ⟨code, .opening, true⟩) ∧
    (∀ code d, (s.port p).request = some ⟨code, .journal, d⟩ →
      (t.port p).request = some ⟨code, .journal, true⟩)

/-! ### The web counter (02) -/

/-- A forward step changes nothing but the pair in NO_ORDER; with debt it pays off one count, and the step that brings
the debt to 0 clears the reverse-limit flag; without debt it advances w by 1, or at 4,294,967,295 sets the
length-limit flag (R20 to R23). An advancing step makes no other change to the web counter, whatever events it brings,
and afterwards the hold causes that are held are those whose conditions stand (R19). An advancing step at which no
event of the web position is due moves w, the phase of a running clock and the hold causes alone, and raises HOLD on
every port exactly when a cause is taken up or cleared (R19, R28). Two things in that clause are the model's and not
R28's, which makes the boundary in the step that would bring the phase to R: the phase reads 0 from that step on while
the origin, the index and k0 wait for the boundary (assumption 44), and the events that a step reaches are left to
later commands or to the next step (assumption 2). A fault step counts itself in every line state and
leaves the web position, the debt and the clock (R20). A reverse step in NO_ORDER changes nothing but the pair;
elsewhere it adds to the reverse debt, and one that comes at 65,535 is discarded and sets the reverse-limit flag (R21,
R22). -/
def Obligations.EncoderSteps : Prop :=
  (∀ s : State, exec .faultStep s = .next { s with
    web := { s.web with
      pair := (match s.web.pair with
        | .bothLow => .bothHigh | .bothHigh => .bothLow | .aHigh => .bHigh | .bHigh => .aHigh)
      faults := if s.web.faults < 65535 then s.web.faults + 1 else 65535 } }) ∧
  (∀ (s : State) (pair : EncoderPair),
    pair = (match s.web.pair with
      | .bothLow => .bHigh | .bHigh => .bothHigh | .bothHigh => .aHigh | .aHigh => .bothLow) →
    (s.line.state = .noOrder → exec .reverseStep s = .next { s with web := { s.web with pair := pair } }) ∧
    (s.line.state ≠ .noOrder → s.web.debt < 65535 →
      exec .reverseStep s = .next { s with
        web := { s.web with pair := pair, debt := s.web.debt + 1 } }) ∧
    (s.line.state ≠ .noOrder → 65535 ≤ s.web.debt →
      exec .reverseStep s = .next { s with
        web := { s.web with pair := pair, reverseLimit := true } })) ∧
  ∀ (s : State) (pair : EncoderPair),
    pair = (match s.web.pair with
      | .bothLow => .aHigh | .aHigh => .bothHigh | .bothHigh => .bHigh | .bHigh => .bothLow) →
    (s.line.state = .noOrder → exec .forwardStep s = .next { s with web := { s.web with pair := pair } }) ∧
    (s.line.state ≠ .noOrder → 0 < s.web.debt →
      exec .forwardStep s = .next { s with
        web := { s.web with
          pair := pair, debt := s.web.debt - 1
          reverseLimit := if s.web.debt = 1 then false else s.web.reverseLimit } }) ∧
    (s.line.state ≠ .noOrder → s.web.debt = 0 → s.web.w < 4294967295 →
      ∃ t, exec .forwardStep s = .next t ∧ t.web = { s.web with pair := pair, w := s.web.w + 1 } ∧
        HoldsStand t) ∧
    (s.line.state ≠ .noOrder → s.web.debt = 0 → s.web.w < 4294967295 →
      NothingDue { s with web := { s.web with pair := pair } } →
      ∃ t, exec .forwardStep s = .next t ∧
        t = { s with
          line := { s.line with holds := t.line.holds }
          web := { s.web with pair := pair, w := s.web.w + 1 }
          clock := { s.clock with
            phase := if s.clock.state = .running then
                (if (s.clock.phase : Int) + 1 < s.recipe.repeatLength then s.clock.phase + 1 else 0)
              else s.clock.phase }
          ports := t.ports } ∧
        HoldsStand t ∧
        Noticed (everywhereIf (decide (t.line.holds ≠ s.line.holds)) .hold) s t) ∧
    (s.line.state ≠ .noOrder → s.web.debt = 0 → 4294967295 ≤ s.web.w →
      ∃ t, exec .forwardStep s = .next t ∧ t.web = { s.web with pair := pair, lengthLimit := true })

/-- While an order is open the web position never decreases (R23): no command but COLD_RESET takes it back, given
that the one other command that sets it, the end of a SLOT_READ, comes only in OPENING. -/
def Obligations.WebNeverDecreases : Prop :=
  ∀ (i : Instr) (s t : State), i ≠ .coldReset →
    s.line.state ≠ .noOrder → s.line.state ≠ .opening →
    (∀ n c, inProgress s ≠ some (.slotRead n, c)) →
    exec i s = .next t → s.web.w ≤ t.web.w

/-! ### The repeat clock (02) -/

/-- A coasting boundary of a RUNNING clock whose phase has come to R: the phase is 0, the origin and a defined k0
advance by R, the index adds 1, an RPO pulse of the width in force starts, and then the staged tune is applied (R13,
R28, R31, R32). Beyond the clock, only the staged tune, the recipe and lists it bears on, and the windows of the
phased channels can change. At any other time the command changes nothing, which is the model's own convention for a
command that is not due (assumption 1). -/
def Obligations.CoastingBoundary : Prop :=
  ∀ s : State,
    (s.clock.state = .running → s.clock.origin + s.recipe.repeatLength ≤ s.web.w →
      ∃ t, exec .coastingBoundary s = .next t ∧
        t.clock = { s.clock with
          phase := 0
          origin := s.clock.origin + s.recipe.repeatLength
          index := if s.clock.index < 4294967295 then s.clock.index + 1 else 4294967295
          k0 := s.clock.k0.map (· + s.recipe.repeatLength)
          lastCoast := some (s.clock.origin + s.recipe.repeatLength)
          rpoEnd := some (s.clock.origin + s.recipe.repeatLength + s.recipe.pulseWidth) } ∧
        t = { s with
          clock := t.clock
          line := { s.line with stagedTune := none }
          recipe := t.recipe
          register := { s.register with units := t.register.units }
          emboss := { s.emboss with channel := t.emboss.channel }
          capture := { s.capture with mke := t.capture.mke, mkw := t.capture.mkw } } ∧
        (s.line.stagedTune = none →
          t.recipe = s.recipe ∧ t.register = s.register ∧ t.emboss = s.emboss) ∧
        (∀ tune, s.line.stagedTune = some tune →
          t.recipe = s.recipe.tuned tune ∧
          (∀ k, t.unit k = { s.unit k with
            samples := (s.unit k).samples.drop
              ((s.unit k).samples.length - t.recipe.filterDepth.toNat) }) ∧
          t.emboss.channel = { s.emboss.channel with
            samples := s.emboss.channel.samples.drop
              (s.emboss.channel.samples.length - t.recipe.embossFilterDepth.toNat) })) ∧
    ((s.clock.state ≠ .running ∨ (s.web.w : Int) < s.clock.origin + s.recipe.repeatLength) →
      exec .coastingBoundary s = .next s)

/-- RPO and CUT_STROBE are deasserted when w has reached the end of their pulse, and not before (R32, R121). That the
commands change nothing before is the model's own convention (assumption 1). -/
def Obligations.PulsesEnd : Prop :=
  ∀ s : State,
    (∀ x, s.clock.rpoEnd = some x → x ≤ s.web.w →
      exec .rpoPulseEnd s = .next { s with clock := { s.clock with rpoEnd := none } }) ∧
    ((∀ x, s.clock.rpoEnd = some x → (s.web.w : Int) < x) → exec .rpoPulseEnd s = .next s) ∧
    (∀ x, s.roll.strobeOff = some x → x ≤ s.web.w →
      exec .cutStrobeDeassert s = .next { s with roll := { s.roll with strobeOff := none } }) ∧
    ((∀ x, s.roll.strobeOff = some x → (s.web.w : Int) < x) → exec .cutStrobeDeassert s = .next s)

/-! ### Mark capture (03) -/

/-- An edge on a unit channel (R46). With no frame open it joins the pending list, the oldest of four being dropped
as a stray. With a frame open it is accepted inside an unfinished window, and becomes the unit's result; anywhere
else it is a stray. Nothing but the capture unit changes, and in it only the channel and its result. An edge on a
disabled channel of any kind, one of the polarity that the channel's bit does not select, and any edge while reverse
debt stands are ignored and counted nowhere (R22, R38). That the accepted unit's closed window has no centre is the
model's choice (assumption 17). -/
def Obligations.UnitEdges : Prop :=
  (∀ (ch : Channel) (falling : Bool) (s : State),
    ((s.channel ch).enabled = false ∨ 0 < s.web.debt ∨
      s.geometry.polarity.getLsbD ch.bit ≠ falling) →
    exec (.markEdge ch falling) s = .next s) ∧
  ∀ (k : Fin 7) (falling : Bool) (s : State),
    (s.channel (.unit k)).enabled = true → s.web.debt = 0 →
    s.geometry.polarity.getLsbD (k.val + 1) = falling →
    ∃ t, exec (.markEdge (.unit k) falling) s = .next t ∧ t = { s with capture := t.capture } ∧
      (∀ ch, ch ≠ .unit k → t.channel ch = s.channel ch) ∧
      (s.capture.frame = none → t.capture.frame = none ∧
        t.channel (.unit k) =
          if (s.channel (.unit k)).edges.length < 4 then
            { s.channel (.unit k) with edges := (s.channel (.unit k)).edges ++ [(s.web.w : Int)] }
          else
            { s.channel (.unit k) with
              edges := (s.channel (.unit k)).edges.tail ++ [(s.web.w : Int)]
              strays := min 65535 ((s.channel (.unit k)).strays + 1) }) ∧
      (∀ f x, s.capture.frame = some f → (s.channel (.unit k)).window ≠ .closed →
        (s.channel (.unit k)).centre = some x →
        x - s.recipe.window ≤ s.web.w → s.web.w ≤ x + s.recipe.window →
        (s.channel (.unit k)).lastAccepted ≠ some (s.web.w : Int) →
        t.capture.frame = some { f with results := f.results.set k (some (s.web.w : Int)) } ∧
        t.channel (.unit k) = { s.channel (.unit k) with
          lastAccepted := some (s.web.w : Int), run := 0, window := .closed, centre := none }) ∧
      (∀ f, s.capture.frame = some f →
        ((s.channel (.unit k)).window = .closed ∨
          (∃ x, (s.channel (.unit k)).centre = some x ∧
            ((s.web.w : Int) < x - s.recipe.window ∨ x + s.recipe.window < s.web.w)) ∨
          (s.channel (.unit k)).lastAccepted = some (s.web.w : Int)) →
        t.capture.frame = some f ∧
        t.channel (.unit k) = { s.channel (.unit k) with
          strays := min 65535 ((s.channel (.unit k)).strays + 1) })

/-- A key edge that MK0 takes and the running clock with it (R29, R33, R34, R40 to R42, R45). The first edge in SEEK
is accepted wherever it falls: MK0 enters TRACK with its next window one repeat on, the clock makes a capture boundary
at w with k0 there, no repeat is measured, and the staged tune is applied after an RPO pulse of the width in force has
started: the recipe in force takes it, and lists beyond a new filter depth lose their oldest samples (R13, R14, R32).
A frame opens at w: each enabled unit channel judges its pending edges and stands its window (R45, R46), and MKE and
MKW arm their windows as k0 becomes defined or changes (R49). In TRACK or COAST an edge inside the window is accepted
alike: it makes the boundary unless a coasting boundary was already made within the window, in which case it re-phases
the clock alone; and the repeat since the previous capture, divided over the misses between, enters the measured
repeats, from which stretch and its flag follow, STRETCH being raised when the flag is newly set. That a staged tune
is applied before the stretch is compared with its tolerance is the model's choice (assumption 33); so are an edge in
SEEK at the position last accepted (assumption 56), a pending one at the unit's (assumption 51), and the absent centre
of a closed window and the `limit` field (assumption 17). The web, the map, the rolls, the batches, the labels and the
store are untouched. -/
def Obligations.FirstKeyEdge : Prop :=
  (∀ (falling : Bool) (s : State),
    (s.channel .mk0).enabled = true → s.web.debt = 0 → s.geometry.polarity.getLsbD 0 = falling →
    (s.channel .mk0).state = .seek → s.clock.state = .running →
    ∃ t, exec (.markEdge .mk0 falling) s = .next t ∧
      t.channel .mk0 = { s.channel .mk0 with
        state := .track, lastAccepted := some (s.web.w : Int), run := 0, window := .armed
        centre := some (s.web.w + s.recipe.repeatLength) } ∧
      t.clock = { s.clock with
        phase := 0, origin := s.web.w, k0 := some (s.web.w : Int), index := min 4294967295 (s.clock.index + 1)
        previousKey := some (s.web.w : Int), rpoEnd := some (s.web.w + s.recipe.pulseWidth) } ∧
      (∃ f, t.capture.frame = some f ∧ f.c0 = s.web.w) ∧ FrameOpened s t ∧
      t.line = { s.line with stagedTune := none } ∧
      t.recipe = (match s.line.stagedTune with
        | some tune => s.recipe.tuned tune
        | none => s.recipe) ∧
      TuneApplied s t ∧
      t = { s with
        line := t.line, recipe := t.recipe, clock := t.clock, capture := t.capture
        register := { s.register with units := t.register.units }
        emboss := { s.emboss with channel := t.emboss.channel } }) ∧
  ∀ (falling : Bool) (s : State) (x : Pos) (late : Bool),
    (s.channel .mk0).enabled = true → s.web.debt = 0 → s.geometry.polarity.getLsbD 0 = falling →
    (s.channel .mk0).state ≠ .seek → s.clock.state = .running →
    (s.channel .mk0).window ≠ .closed → (s.channel .mk0).centre = some x →
    x - s.recipe.window ≤ s.web.w → s.web.w ≤ x + s.recipe.window →
    (s.channel .mk0).lastAccepted ≠ some (s.web.w : Int) →
    (late = true ↔ ∃ b, s.clock.lastCoast = some b ∧ x - s.recipe.window ≤ b) →
    ∃ (t : State) (newly : Bool), exec (.markEdge .mk0 falling) s = .next t ∧
      t.channel .mk0 = { s.channel .mk0 with
        state := .track, lastAccepted := some (s.web.w : Int), run := 0, window := .armed
        centre := some (s.web.w + s.recipe.repeatLength) } ∧
      t.clock = { s.clock with
        phase := 0, origin := s.web.w, k0 := some (s.web.w : Int), previousKey := some (s.web.w : Int)
        index := if late then s.clock.index else min 4294967295 (s.clock.index + 1)
        rpoEnd := if late then s.clock.rpoEnd else some (s.web.w + s.recipe.pulseWidth)
        measured := t.clock.measured, stretch := t.clock.stretch, stretchOver := t.clock.stretchOver } ∧
      (s.clock.previousKey = none → t.clock.measured = s.clock.measured ∧
        t.clock.stretch = s.clock.stretch ∧ t.clock.stretchOver = s.clock.stretchOver ∧ newly = false) ∧
      (∀ b, s.clock.previousKey = some b →
        t.clock.measured =
          (s.clock.measured ++ [roundNearest (s.web.w - b) ((s.channel .mk0).run + 1)]).drop
            (s.clock.measured.length + 1 - 8) ∧
        t.clock.stretch = some (meanNearest t.clock.measured - t.recipe.repeatLength) ∧
        t.clock.stretchOver =
          decide (t.recipe.stretchTolerance < mag (meanNearest t.clock.measured - t.recipe.repeatLength)) ∧
        newly = (t.clock.stretchOver && !s.clock.stretchOver)) ∧
      Noticed (onIf newly .press .stretch) s t ∧
      (∃ f, t.capture.frame = some f ∧ f.c0 = s.web.w) ∧ FrameOpened s t ∧
      (late = true → t.line = s.line ∧ t.recipe = s.recipe ∧ t.register = s.register ∧ t.emboss = s.emboss) ∧
      (late = false → t.line = { s.line with stagedTune := none } ∧
        t.recipe = (match s.line.stagedTune with
          | some tune => s.recipe.tuned tune
          | none => s.recipe) ∧
        TuneApplied s t) ∧
      t = { s with
        line := t.line, recipe := t.recipe, clock := t.clock, capture := t.capture
        register := { s.register with units := t.register.units }
        emboss := { s.emboss with channel := t.emboss.channel }, ports := t.ports }

/-- An edge of a phased channel (R49, R50). One that MKW accepts gives the roll former the transport error reduce(w −
D_W − k0) at the newest end of its list of four (R118); one that MKE accepts is the held capture, unused (R77). Either
channel records the position and arms its next window at the least centre beyond the previous one plus H that lies its
path distance and whole repeats from k0. An edge outside the window is a stray and changes nothing else. -/
def Obligations.WinderEdge : Prop :=
  (∀ (falling : Bool) (s : State) (k0 x : Pos),
    (s.channel .mkw).enabled = true → s.web.debt = 0 → s.geometry.polarity.getLsbD 10 = falling →
    s.clock.k0 = some k0 → (s.channel .mkw).window ≠ .closed → (s.channel .mkw).centre = some x →
    0 < s.recipe.repeatLength →
    (x - s.recipe.window ≤ s.web.w → s.web.w ≤ x + s.recipe.window →
      (s.channel .mkw).lastAccepted ≠ some (s.web.w : Int) →
      ∃ t y, exec (.markEdge .mkw falling) s = .next t ∧
        t.roll = { s.roll with
          transport := (s.roll.transport ++ [reduceMod s.recipe.repeatLength (s.web.w - s.geometry.dW - k0)]).drop
              (s.roll.transport.length + 1 - 4) } ∧
        (t.channel .mkw).lastAccepted = some (s.web.w : Int) ∧ (t.channel .mkw).run = 0 ∧
        (t.channel .mkw).centre = some y ∧
        (y - s.geometry.dW - k0) % s.recipe.repeatLength = 0 ∧
        x + s.recipe.repeatLength / 2 < y ∧
        y ≤ x + s.recipe.repeatLength / 2 + s.recipe.repeatLength ∧
        t = { s with roll := t.roll, capture := { s.capture with mkw := t.capture.mkw } }) ∧
    (((s.web.w : Int) < x - s.recipe.window ∨ x + s.recipe.window < s.web.w) →
      exec (.markEdge .mkw falling) s = .next { s with
        capture := { s.capture with mkw := { s.capture.mkw with
          strays := min 65535 (s.capture.mkw.strays + 1) } } })) ∧
  ∀ (falling : Bool) (s : State) (k0 x : Pos),
    (s.channel .mke).enabled = true → s.web.debt = 0 → s.geometry.polarity.getLsbD 8 = falling →
    s.clock.k0 = some k0 → (s.channel .mke).window ≠ .closed → (s.channel .mke).centre = some x →
    0 < s.recipe.repeatLength →
    (x - s.recipe.window ≤ s.web.w → s.web.w ≤ x + s.recipe.window →
      (s.channel .mke).lastAccepted ≠ some (s.web.w : Int) →
      ∃ t y, exec (.markEdge .mke falling) s = .next t ∧
        (t.channel .mke).lastAccepted = some (s.web.w : Int) ∧ (t.channel .mke).run = 0 ∧
        (t.channel .mke).centre = some y ∧
        (y - s.geometry.dE - k0) % s.recipe.repeatLength = 0 ∧
        x + s.recipe.repeatLength / 2 < y ∧
        y ≤ x + s.recipe.repeatLength / 2 + s.recipe.repeatLength ∧
        t = { s with
          emboss := { s.emboss with held := some { position := s.web.w, used := false } }
          capture := { s.capture with mke := t.capture.mke } }) ∧
    (((s.web.w : Int) < x - s.recipe.window ∨ x + s.recipe.window < s.web.w) →
      exec (.markEdge .mke falling) s = .next { s with
        capture := { s.capture with mke := { s.capture.mke with
          strays := min 65535 (s.capture.mke.strays + 1) } } })

/-- A window of an enabled channel that reaches its end with no accepted edge. A unit's window closes and counts
nothing yet (R46). MKE and MKW count a miss (R50). MK0 and IDX count a miss and, on the first three in a row, coast to
the next window one step on; on the fourth they return to SEEK with no window (R41), and with MK0 k0 becomes
undefined, every unit channel that is not OFF is in ACQUIRE with its list empty and its frames since evaluation 0, an
UNVERIFIED span is opened at w, and the phased channels have no window (R43, R49, R71). An armed window opens when w
has reached its lower bound, but not at the position just accepted (R39). An IDX return to SEEK sends the emboss
channel to ACQUIRE alike (R81), by which a READY nip loses its permit and a CLOSED one is ordered open with the reason
ACQUIRE (R87, R89), and a change of the nip state is judged for the EMBOSS span (R92); a return changes nothing else
but the notices it raises. That a unit or emboss channel already in ACQUIRE has its frames since evaluation set to 0
is the model's choice (assumption 52). So is that a unit's closed window has no centre (assumption 17), and that a
command that is not due changes nothing (assumption 1). -/
def Obligations.WindowsOpenAndEnd : Prop :=
  (∀ (ch : Channel) (s : State) (x : Pos),
    (s.channel ch).enabled = true → (s.channel ch).window = .armed → (s.channel ch).centre = some x →
    (x - halfWidth s.recipe ch ≤ s.web.w → (s.channel ch).lastAccepted ≠ some (s.web.w : Int) →
      ∃ t, exec (.windowOpen ch) s = .next t ∧ t = { s with capture := t.capture } ∧
        t.capture.frame = s.capture.frame ∧
        t.channel ch = { s.channel ch with window := .opened } ∧
        ∀ c, c ≠ ch → t.channel c = s.channel c) ∧
    ((s.web.w : Int) < x - halfWidth s.recipe ch → exec (.windowOpen ch) s = .next s)) ∧
  ∀ (ch : Channel) (s : State) (x : Pos),
    (s.channel ch).enabled = true → (s.channel ch).window ≠ .closed → (s.channel ch).centre = some x →
    ((s.web.w : Int) ≤ x + halfWidth s.recipe ch → exec (.windowEnd ch) s = .next s) ∧
    (x + halfWidth s.recipe ch < s.web.w → ∃ t, exec (.windowEnd ch) s = .next t ∧
      (∀ k, ch = .unit k →
        t.channel ch = { s.channel ch with window := .closed, centre := none } ∧
        t = { s with capture := t.capture } ∧ ∀ c, c ≠ ch → t.channel c = s.channel c) ∧
      (ch = .mke ∨ ch = .mkw →
        (t.channel ch).misses = min 65535 ((s.channel ch).misses + 1) ∧
        (t.channel ch).run = min 65535 ((s.channel ch).run + 1) ∧
        t = { s with capture := t.capture } ∧ ∀ c, c ≠ ch → t.channel c = s.channel c) ∧
      (ch = .mk0 ∨ ch = .idx → (s.channel ch).run < 3 →
        (t.channel ch).state = .coast ∧
        (t.channel ch).centre = some (x + keyStep s.recipe ch) ∧
        (t.channel ch).misses = min 65535 ((s.channel ch).misses + 1) ∧
        (t.channel ch).run = (s.channel ch).run + 1 ∧
        t = { s with capture := t.capture } ∧ ∀ c, c ≠ ch → t.channel c = s.channel c) ∧
      (ch = .mk0 ∨ ch = .idx → 3 ≤ (s.channel ch).run →
        (t.channel ch).state = .seek ∧ (t.channel ch).window = .closed ∧
        (t.channel ch).misses = min 65535 ((s.channel ch).misses + 1) ∧ t.web = s.web ∧ t.roll = s.roll ∧
        (ch = .mk0 → t.clock = { s.clock with k0 := none } ∧
          (t.channel .mke).window = .closed ∧ (t.channel .mkw).window = .closed ∧
          (∀ k, (s.unit k).state = .off → t.unit k = s.unit k) ∧
          (∀ k, (s.unit k).state ≠ .off →
            (t.unit k).state = .acquire ∧ (t.unit k).samples = [] ∧ (t.unit k).lockCount = 0 ∧
            (t.unit k).sinceEvaluation = 0 ∧
            (t.unit k).trim = (s.unit k).trim ∧ (t.unit k).outstanding = (s.unit k).outstanding) ∧
          SpanOpened .register s.web.w .unverified s.map t.map ∧
          Noticed (onIf (decide (∃ k, (t.unit k).state ≠ (s.unit k).state)) .press .register) s t ∧
          (∀ c, c ≠ .mk0 → c ≠ .mke → c ≠ .mkw → t.channel c = s.channel c) ∧
          t = { s with
            clock := t.clock, capture := { t.capture with frame := s.capture.frame }
            register := { s.register with units := t.register.units }, map := t.map, ports := t.ports }) ∧
        (ch = .idx → t.clock = s.clock ∧ t.register = s.register ∧
          ((s.emboss.channel).state ≠ .off → t.emboss.channel.state = .acquire ∧
            t.emboss.channel.samples = [] ∧ t.emboss.channel.lockCount = 0 ∧
            t.emboss.channel.sinceEvaluation = 0 ∧
            t.emboss.channel.trim = s.emboss.channel.trim ∧
            t.emboss.channel.outstanding = s.emboss.channel.outstanding) ∧
          ((s.emboss.channel).state = .off → t.emboss.channel = s.emboss.channel) ∧
          NipReturn (s.emboss.channel.state ≠ .off ∧ s.emboss.channel.state ≠ .acquire) s.emboss.nip
            t.emboss.nip ∧
          (t.emboss.nip.state ≠ s.emboss.nip.state → EmbossJudged s t) ∧
          (t.emboss.nip.state = s.emboss.nip.state → t.map = s.map) ∧
          Noticed (both
            (onIf (decide (t.emboss.channel.state ≠ s.emboss.channel.state)) .emboss .emb)
            (onIf (decide (t.emboss.nip.state ≠ s.emboss.nip.state)) .emboss .nip)) s t ∧
          (∀ c, c ≠ .idx → t.channel c = s.channel c) ∧
          t = { s with
            capture := { t.capture with frame := s.capture.frame }
            emboss := { s.emboss with channel := t.emboss.channel, nip := t.emboss.nip }
            map := t.map, ports := t.ports })))

/-- A frame closes when w has reached c0 + H (R47): each enabled unit channel with no result counts a miss and stands
no window, no frame is open, and the register controller takes the frame. Every unit channel takes its sample or miss
by the rules of its state (R54 to R63, R67), TRIM being raised where a correction was posted and REGISTER where a
state changed; the order of an evaluation and a second miss is left open. The frame is in register when every unit in
use is LOCKED or LIMIT with a sample within the register tolerance, and the offender is the lowest unit that is not
(R72). With no open-ended waste that waits for clean web, nothing else changes but the REGISTER span, which is
released, closed or opened at c0 (R73, R95 to R99). That a command before that point changes nothing is the model's
own convention (assumption 1). -/
def Obligations.FrameCloses : Prop :=
  ∀ (s : State) (f : Frame), s.capture.frame = some f →
    ((s.web.w : Int) < f.c0 + s.recipe.repeatLength / 2 → exec .frameClose s = .next s) ∧
    (f.c0 + s.recipe.repeatLength / 2 ≤ s.web.w → ∃ t, exec .frameClose s = .next t ∧
      t.capture.frame = none ∧ t.web = s.web ∧ t.clock = s.clock ∧ t.emboss = s.emboss ∧
      (∀ k, (s.channel (.unit k)).enabled = true →
        (t.channel (.unit k)).window = .closed ∧
        (t.channel (.unit k)).misses =
          if f.results.get k = none then min 65535 ((s.channel (.unit k)).misses + 1)
          else (s.channel (.unit k)).misses) ∧
      (∀ k, (s.channel (.unit k)).enabled = false → t.channel (.unit k) = s.channel (.unit k)) ∧
      (∀ ch, (∀ k, ch ≠ .unit k) → t.channel ch = s.channel ch) ∧
      t.register.frameIndex = min 4294967295 (s.register.frameIndex + 1) ∧
      t.register.lastC0 = some f.c0 ∧
      (∀ k, FrameTaken (unitSettings s) t.register.frameIndex f.c0
        ((f.results.get k).map (fun c => c - f.c0 - s.recipe.unitOffset k)) (s.unit k) (t.unit k)) ∧
      ((∃ k, (t.unit k).sequence ≠ (s.unit k).sequence) → Pending .press .trim t) ∧
      ((∃ k, (t.unit k).state ≠ (s.unit k).state) → Pending .press .register t) ∧
      t.register.verdict = some t.register.offender.isNone ∧
      (t.register.offender = none → ∀ k : Fin 7, (k.val : Int) + 1 < s.recipe.unitCount →
        InRegister s.recipe f k (t.unit k)) ∧
      (∀ k : Fin 7, t.register.offender = some k →
        (k.val : Int) + 1 < s.recipe.unitCount ∧ ¬ InRegister s.recipe f k (t.unit k) ∧
        ∀ j, j < k → InRegister s.recipe f j (t.unit j)) ∧
      ((∀ p, s.roll.plan = some p → p.stop ≠ none) →
        t = { s with capture := t.capture, register := t.register, map := t.map, ports := t.ports } ∧
        SpanJudged .register f.c0 (t.register.offender.map Detail.unit) s.map t.map))

/-! ### Register control and embossing (04, 05) -/

/-- A trim of a print unit, or of the emboss cylinder, that has been outstanding for 16 frames and has not timed out
is marked and announced, and the channel enters HOLD; a unit in ACQUIRE stays there while SAMPLE_FLUSH is on (R67,
R85). The trim stays outstanding. A timeout that is not due changes nothing, the nip, for the emboss cylinder, being
in a state that its channel's state admits; that is the model's own convention (assumption 1), and so is the command
beside the check that every frame makes (assumption 6). -/
def Obligations.TrimsTimeOut : Prop :=
  (∀ (k : Fin 7) (s : State) (o : Trim), (s.unit k).outstanding = some o →
    (o.timedOut = false → o.postedAt + 16 ≤ s.register.frameIndex →
      ∃ t, exec (.trimTimeout k) s = .next t ∧
        t = { s with register := { s.register with units := t.register.units }, ports := t.ports } ∧
        Noticed (on .press .register) s t ∧ (∀ j, j ≠ k → t.unit j = s.unit j) ∧
        (t.unit k).outstanding = some { o with timedOut := true } ∧
        (t.unit k).trim = (s.unit k).trim ∧ (t.unit k).samples = (s.unit k).samples ∧
        (t.unit k).state =
          (match (s.unit k).state with
            | .off => .off
            | .acquire => if s.register.sampleFlush then .acquire else .hold
            | .locked | .limit | .hold => .hold)) ∧
    (o.timedOut = true ∨ s.register.frameIndex < o.postedAt + 16 →
      exec (.trimTimeout k) s = .next s)) ∧
  ∀ (s : State) (o : Trim), s.emboss.channel.outstanding = some o →
    (o.timedOut = true ∨ s.emboss.frameIndex < o.postedAt + 16 →
      (s.emboss.nip.state = .ready → s.emboss.channel.state = .locked) → exec .embTimeout s = .next s) ∧
    (o.timedOut = false → o.postedAt + 16 ≤ s.emboss.frameIndex →
      ∃ t, exec .embTimeout s = .next t ∧
        t.emboss.channel.outstanding = some { o with timedOut := true } ∧
        t.emboss.channel.trim = s.emboss.channel.trim ∧
        t.emboss.channel.samples = s.emboss.channel.samples ∧
        t.emboss.channel.state = (if s.emboss.channel.state = .off then .off else .hold) ∧
        (t.port .emboss).pending &&& Notice.emb.bit = Notice.emb.bit ∧
        t = { s with
          emboss := { s.emboss with channel := t.emboss.channel, nip := t.emboss.nip }
          map := t.map, ports := t.ports })

/-- TRIM_APPLIED and EMB_APPLIED (R66, R84). A unit outside 1 to 7 is refused with RANGE. The report of a channel
that is not OFF and has an outstanding trim with the sequence given is taken: the trim is no longer outstanding and
the settle boundary is w plus the settle distance. Any other report is refused with NOT_FOUND. -/
def Obligations.TrimsAcknowledged : Prop :=
  (∀ (p : Port) (u q : Byte) (s : State), Admitted .trimApplied p [u, q] s →
    (¬ (1 ≤ u.toNat ∧ u.toNat ≤ 7) → ∃ t, exec (.trimApplied p [u, q]) s = .next t ∧
      SameButPorts s t ∧ Answered .trimApplied p [u, q] .range [] quiet s t) ∧
    ∀ k : Fin 7, u.toNat = k.val + 1 →
      (∀ o, (s.unit k).outstanding = some o → o.sequence = q → (s.unit k).state ≠ .off →
        ∃ t, exec (.trimApplied p [u, q]) s = .next t ∧
          t = { s with
            ports := t.ports
            register := { s.register with units := s.register.units.set k { s.unit k with
              outstanding := none, settleBoundary := s.web.w + s.geometry.settle.get k } } } ∧
          Answered .trimApplied p [u, q] .ok [] quiet s t) ∧
      ((s.unit k).state = .off ∨ (∀ o, (s.unit k).outstanding = some o → o.sequence ≠ q) →
        ∃ t, exec (.trimApplied p [u, q]) s = .next t ∧
          SameButPorts s t ∧ Answered .trimApplied p [u, q] .notFound [] quiet s t)) ∧
  ∀ (p : Port) (q : Byte) (s : State), Admitted .embApplied p [q] s →
    (∀ o, s.emboss.channel.outstanding = some o → o.sequence = q → s.emboss.channel.state ≠ .off →
      ∃ t, exec (.embApplied p [q]) s = .next t ∧
        t = { s with
          ports := t.ports
          emboss := { s.emboss with channel := { s.emboss.channel with
            outstanding := none, settleBoundary := s.web.w + s.geometry.settleEmboss } } } ∧
        Answered .embApplied p [q] .ok [] quiet s t) ∧
    (s.emboss.channel.state = .off ∨ (∀ o, s.emboss.channel.outstanding = some o → o.sequence ≠ q) →
      ∃ t, exec (.embApplied p [q]) s = .next t ∧
        SameButPorts s t ∧ Answered .embApplied p [q] .notFound [] quiet s t)

/-- TRIM_HOLD and SAMPLE_FLUSH set their function by an argument of 0 or 1, and refuse any other with RANGE (R68).
TRIM_HOLD changes nothing else. SAMPLE_FLUSH turned on sends every unit channel that is not OFF to ACQUIRE with its
list empty, its lock count 0 and its frames since evaluation 0, keeping trims (R70); turned off, or on again, it moves
no channel. That a channel already in ACQUIRE has its frames since evaluation set to 0 too is the model's choice
(assumption 52). -/
def Obligations.HoldAndFlush : Prop :=
  (∀ (p : Port) (v : Byte) (s : State), Admitted .trimHold p [v] s →
    (v.toNat ≤ 1 → ∃ t, exec (.trimHold p [v]) s = .next t ∧
      t = { s with ports := t.ports, register := { s.register with trimHold := v.toNat == 1 } } ∧
      Answered .trimHold p [v] .ok [] quiet s t) ∧
    (1 < v.toNat → ∃ t, exec (.trimHold p [v]) s = .next t ∧
      SameButPorts s t ∧ Answered .trimHold p [v] .range [] quiet s t)) ∧
  ∀ (p : Port) (v : Byte) (s : State), Admitted .sampleFlush p [v] s →
    (1 < v.toNat → ∃ t, exec (.sampleFlush p [v]) s = .next t ∧
      SameButPorts s t ∧ Answered .sampleFlush p [v] .range [] quiet s t) ∧
    (v.toNat = 0 ∨ (v.toNat = 1 ∧ s.register.sampleFlush = true) →
      ∃ t, exec (.sampleFlush p [v]) s = .next t ∧
        t = { s with ports := t.ports, register := { s.register with sampleFlush := v.toNat == 1 } } ∧
        Answered .sampleFlush p [v] .ok [] quiet s t) ∧
    (v.toNat = 1 → s.register.sampleFlush = false →
      ∃ t, exec (.sampleFlush p [v]) s = .next t ∧
        t = { s with
          ports := t.ports
          register := { s.register with sampleFlush := true, units := t.register.units } } ∧
        (∀ k, t.unit k =
          match (s.unit k).state with
          | .off => s.unit k
          | .acquire => { s.unit k with samples := [], lockCount := 0, sinceEvaluation := 0 }
          | .locked | .hold | .limit => { s.unit k with
              state := .acquire, samples := [], sinceEvaluation := 0, misses := 0, lockCount := 0 }) ∧
        Answered .sampleFlush p [v] .ok []
          (onIf (decide (∃ k, t.unit k ≠ s.unit k ∧ (s.unit k).state ≠ .acquire)) .press .register) s t)

/-- TRIM_FETCH and EMB_FETCH copy one six-byte record for each outstanding trim, units in ascending order with the
unit number first and 8 for the emboss cylinder, and are to be answered with the number of records; they change no
channel (R65, R83). A FIFO set toward the part refuses them with FIFO_DIR. -/
def Obligations.TrimsFetched : Prop :=
  (∀ (p : Port) (s : State), Admitted .trimFetch p [] s → ∃ t, exec (.trimFetch p []) s = .next t ∧
    SameButPorts s t ∧
    ((s.port p).toStation = false → Answered .trimFetch p [] .fifoDir [] quiet s t) ∧
    ((s.port p).toStation = true →
      Fetching .trimFetch p []
        ((List.finRange 7).flatMap (fun k =>
          match (s.unit k).outstanding with
          | some o => [BitVec.ofNat 8 (k.val + 1), o.sequence] ++ bytesOfInt 2 o.delta
              ++ bytesOfInt 2 (s.unit k).trim
          | none => []))
        [BitVec.ofNat 8 ((List.finRange 7).filter (fun k => (s.unit k).outstanding.isSome)).length] s t)) ∧
  ∀ (p : Port) (s : State), Admitted .embFetch p [] s → ∃ t, exec (.embFetch p []) s = .next t ∧
    SameButPorts s t ∧
    ((s.port p).toStation = false → Answered .embFetch p [] .fifoDir [] quiet s t) ∧
    ((s.port p).toStation = true → s.emboss.channel.outstanding = none →
      Answered .embFetch p [] .ok [0#8] quiet s t) ∧
    (∀ o, (s.port p).toStation = true → s.emboss.channel.outstanding = some o →
      Fetching .embFetch p []
        ([8#8, o.sequence] ++ bytesOfInt 2 o.delta ++ bytesOfInt 2 s.emboss.channel.trim) [1#8] s t)

/-- The cumulative trim of a channel never goes beyond the trim limit in force, whatever a frame brings (R61, R62). -/
def Obligations.TrimWithinLimit : Prop :=
  ∀ (k : ChannelSettings) (frame : Nat) (reference : Pos) (result : Option Int) (c : RegisterChannel),
    0 ≤ k.trimLimit → mag c.trim ≤ k.trimLimit →
    mag (channelFrame k frame reference result c).1.trim ≤ k.trimLimit

/-- NIP_CLOSED and NIP_OPENED, by the nip state (R88, R91). A report that is taken from another state than its own
raises NIP, and the emboss tracker then judges: while emboss is enabled and the line is in RUN or STOPPED the EMBOSS
span is released, closed or opened at w − D_E, and otherwise the map stands (R92). And the emboss frame of an accepted
IDX edge, the first one in SEEK or one inside the window, while the channel is not OFF (R44, R78 to R80): it is paired
with the unused held capture that lies less than a repeat behind it, and is a sample with the reduced error, or else
is unpaired and a miss; the channel takes it by the rules of its state; the nip acts by its own state (R86, R87, R89);
and while emboss is enabled and the line is in RUN or STOPPED the EMBOSS span is released, closed or opened at w − D_E
(R92, R95 to R99). With the channel OFF the edge makes no emboss frame. That every line state but OPENING admits the
two reports is the model's choice (assumption 60), and so are that an edge in SEEK at the position last accepted is
taken (assumption 56), and that a frame which changes the nip state brings one judgment of the span (assumption 63). -/
def Obligations.NipReports : Prop :=
  (∀ (p : Port) (s : State), Admitted .nipClosed p [] s → ∃ t, exec (.nipClosed p []) s = .next t ∧
    t = { s with map := t.map, emboss := { s.emboss with nip := t.emboss.nip }, ports := t.ports } ∧
    (∀ cause, (s.emboss.nip.state = .ready ∧ cause = .permitted) ∨
        (s.emboss.nip.state = .opened ∧ cause = .unpermitted) →
      t.emboss.nip = { s.emboss.nip with
        state := .closed, verdict := .nothing, toleranceRun := 0, orderReason := none, openCause := none
        closeCause := some cause } ∧
      EmbossJudged s t ∧ Answered .nipClosed p [] .ok [] (on .emboss .nip) s t) ∧
    (s.emboss.nip.state = .closed → t.map = s.map ∧ t.emboss.nip = s.emboss.nip ∧
      Answered .nipClosed p [] .ok [] quiet s t) ∧
    (s.emboss.nip.state = .opening ∨ s.emboss.nip.state = .parked →
      t.map = s.map ∧ t.emboss.nip = s.emboss.nip ∧ Answered .nipClosed p [] .state [] quiet s t)) ∧
  (∀ (p : Port) (s : State), Admitted .nipOpened p [] s → ∃ t, exec (.nipOpened p []) s = .next t ∧
    t = { s with map := t.map, emboss := { s.emboss with nip := t.emboss.nip }, ports := t.ports } ∧
    (s.emboss.nip.state ≠ .parked →
      t.emboss.nip = { s.emboss.nip with
        state := .opened, verdict := .nothing, toleranceRun := 0
        openCause := some (if s.emboss.nip.state = .opening then .ordered else .operator) } ∧
      Answered .nipOpened p [] .ok []
        (onIf (decide (s.emboss.nip.state ≠ .opened)) .emboss .nip) s t) ∧
    (s.emboss.nip.state = .opened → t.map = s.map) ∧
    (s.emboss.nip.state ≠ .opened → s.emboss.nip.state ≠ .parked → EmbossJudged s t) ∧
    (s.emboss.nip.state = .parked →
      t.map = s.map ∧ t.emboss.nip = s.emboss.nip ∧ Answered .nipOpened p [] .state [] quiet s t)) ∧
  ∀ (falling : Bool) (s : State),
    (s.channel .idx).enabled = true → s.web.debt = 0 → s.geometry.polarity.getLsbD 9 = falling →
    ((s.channel .idx).state = .seek ∨
      ((s.channel .idx).window ≠ .closed ∧ (∃ x, (s.channel .idx).centre = some x ∧
        x - s.recipe.embossWindow ≤ s.web.w ∧ s.web.w ≤ x + s.recipe.embossWindow) ∧
        (s.channel .idx).lastAccepted ≠ some (s.web.w : Int))) →
    ∃ t, exec (.markEdge .idx falling) s = .next t ∧
      t = { s with
        capture := { s.capture with idx := t.capture.idx }, emboss := t.emboss, map := t.map
        ports := t.ports } ∧
      t.channel .idx = { s.channel .idx with
        state := .track, lastAccepted := some (s.web.w : Int), run := 0, window := .armed
        centre := some (s.web.w + s.recipe.embossRatio * s.recipe.repeatLength) } ∧
      (s.emboss.channel.state = .off → t.emboss = s.emboss ∧ t.map = s.map ∧ t.ports = s.ports) ∧
      (s.emboss.channel.state ≠ .off →
        t.emboss.frameIndex = min 4294967295 (s.emboss.frameIndex + 1) ∧
        t.emboss.lastCi = some (s.web.w : Int) ∧
        (t.emboss.channel.state ≠ s.emboss.channel.state → Pending .emboss .emb t) ∧
        (t.emboss.nip.state ≠ s.emboss.nip.state → Pending .emboss .nip t) ∧
        (∀ (h : HeldCapture) (e : Int), s.emboss.held = some h → h.used = false → h.position ≤ s.web.w →
          s.web.w < h.position + s.recipe.repeatLength →
          e = reduceMod s.recipe.repeatLength (s.web.w - h.position - s.recipe.embossOffset) →
          EmbossSample s t h e) ∧
        ((∀ h, s.emboss.held = some h → h.used = true ∨ (s.web.w : Int) < h.position ∨
            h.position + s.recipe.repeatLength ≤ s.web.w) → EmbossMiss s t)) ∧
      (s.emboss.channel.state ≠ .off → EmbossJudged s t)

/-! ### The web map (06) -/

/-- DEFECT (R100, R101). A class above 15 is refused with RANGE. Otherwise the report covers the web [w − D_Q − ℓ, w −
D_Q), with ℓ the length clamped to 1 to D_K − D_Q − 1, and the second result byte tells whether it was clamped. It
extends the youngest closed DEFECT of its class when it starts within that entry or at most 500 counts past its end,
and is answered EXTENDED (R96). Otherwise it is added: on a map with room answered ADDED (R94); on a full map with two
faults or more after an overflow merge of the two youngest, or merged with the one fault there is, answered OVERFLOWED
(R97, R99); and refused with FULL by a map of 48 SPLICE entries. That the length is read as an unsigned number is the
model's choice (assumption 57). -/
def Obligations.DefectReported : Prop :=
  ∀ (p : Port) (args : List Byte) (s : State), Admitted .defect p args s →
    (15 < natOfBytes (args.take 1) → ∃ t, exec (.defect p args) s = .next t ∧
      SameButPorts s t ∧ Answered .defect p args .range [] quiet s t) ∧
    ∀ (cls : Fin 16) (given len : Int) (e : MapEntry), natOfBytes (args.take 1) = cls.val →
      given = natOfBytes (args.drop 1) →
      len = max 1 (min given ((s.geometry.dK : Int) - s.geometry.dQ - 1)) →
      e = { openedEntry .defect (s.web.w - s.geometry.dQ - len) (.defectClass cls) with
        stop := some ((s.web.w : Int) - s.geometry.dQ), clamped := decide (len ≠ given) } →
      (∀ before x after b, Extends .defect (.defectClass cls) e.start s.map.entries before x after b →
        ∃ t, exec (.defect p args) s = .next t ∧
          t = { s with
            ports := t.ports
            map := { s.map with
              entries := before ++
                { x with
                  stop := some (max b ((s.web.w : Int) - s.geometry.dQ))
                  clamped := x.clamped || e.clamped } :: after } } ∧
          Answered .defect p args .ok [1#8, if len = given then 0#8 else 1#8] quiet s t) ∧
      (ExtendsNone .defect (.defectClass cls) e.start s.map.entries →
        (s.map.entries.length < 48 → ∃ t, exec (.defect p args) s = .next t ∧
          t = { s with map := t.map, ports := t.ports } ∧ Joined e s.map t.map ∧
          Answered .defect p args .ok [0#8, if len = given then 0#8 else 1#8] quiet s t) ∧
        (48 ≤ s.map.entries.length → 2 ≤ faults s.map → ∃ t, exec (.defect p args) s = .next t ∧
          t = { s with map := t.map, ports := t.ports } ∧ OverflowJoined e s.map t.map ∧
          Answered .defect p args .ok [2#8, if len = given then 0#8 else 1#8] quiet s t) ∧
        (48 ≤ s.map.entries.length → faults s.map = 1 → ∃ t, exec (.defect p args) s = .next t ∧
          t = { s with map := t.map, ports := t.ports } ∧ OverflowAbsorbed e s.map t.map ∧
          Answered .defect p args .ok [2#8, if len = given then 0#8 else 1#8] quiet s t) ∧
        (48 ≤ s.map.entries.length → faults s.map = 0 → ∃ t, exec (.defect p args) s = .next t ∧
          SameButPorts s t ∧ Answered .defect p args .full [] quiet s t))

/-- SPLICE (R100, R102): an entry at w plus the distance, clamped to 400,000. A full map with fewer than two faults
refuses it with FULL; otherwise it joins the map after every entry that starts at or below it and is answered ADDED,
or OVERFLOWED after an overflow merge (R97, R99), with the clamp byte. It is handed to the roll former (R116), which
with no planned end does nothing. A winding SALE segment that can dodge it ends at the last match at or before p −
G_s, with the waste that follows held to the first match beyond the guard, or at its former end if that lies beyond.
Winding waste whose end it threatens is moved beyond the guard, and so is a following waste, by a splice that no
earlier row takes. Otherwise the plan stands. An end so placed whose cut due point is reached is cut at once, and its
strobe is made at once when the strobe position would lie at or below w (R119, R121). That the distance is read as an
unsigned number is the model's choice (assumption 57), and so is the pending end cause PLANNED of the waste that a
strobe plans (assumption 61). -/
def Obligations.SpliceReported : Prop :=
  ∀ (p : Port) (args : List Byte) (s : State) (d : Nat) (e : MapEntry) (added : List Byte),
    Admitted .splice p args s → d = natOfBytes args →
    e = { openedEntry .splice (s.web.w + min d 400000) .nothing with
      stop := some ((s.web.w : Int) + min d 400000), clamped := decide (400000 < d) } →
    added = [if s.map.entries.length < 48 then 0#8 else 2#8, if d ≤ 400000 then 0#8 else 1#8] →
    (48 ≤ s.map.entries.length → faults s.map < 2 → ∃ t, exec (.splice p args) s = .next t ∧
      SameButPorts s t ∧ Answered .splice p args .full [] quiet s t) ∧
    (s.map.entries.length < 48 ∨ 2 ≤ faults s.map →
      ((∀ q, s.roll.plan = some q → q.stop = none) → ∃ t, exec (.splice p args) s = .next t ∧
        t = { s with map := t.map, ports := t.ports } ∧ SpliceAdded e s.map t.map ∧
        Answered .splice p args .ok added quiet s t) ∧
      ∀ (q : Plan) (c g : Pos), s.roll.plan = some q → q.stop = some c → g = s.recipe.spliceGuard →
        (∀ c' y, q.phase = .winding → q.kind = .sale → q.start ≤ e.start → e.start < c + g →
          LastMatch s (e.start - g) c' → Dodges s q.start e.start c' →
          FirstMatch s (max (e.start + g) (c' + 1)) y →
          ∃ f : FollowingWaste,
            (q.following = none → f = ⟨y, MatchUsed s, !MatchUsed s⟩) ∧
            (∀ x, q.following = some x →
              f = if x.stop < y then ⟨y, MatchUsed s, x.unmatched || !MatchUsed s⟩ else x) ∧
            SpliceEnds p args e added { q with cause := .spliceDodge, following := some f } c' s) ∧
        (∀ y, q.phase = .winding → q.kind = .waste → c ≤ e.start → e.start < c + g →
          FirstMatch s (e.start + g) y → SpliceEnds p args e added q y s) ∧
        (∀ c', LastMatch s (e.start - g) c' →
          (q.phase = .winding → q.kind = .sale → q.start ≤ e.start → e.start < c + g →
            ¬ Dodges s q.start e.start c') →
          (q.phase = .winding → q.kind = .waste → c ≤ e.start → c + g ≤ e.start) →
          ∃ t, exec (.splice p args) s = .next t ∧
            t = { s with roll := { s.roll with plan := t.roll.plan }, map := t.map, ports := t.ports } ∧
            SpliceAdded e s.map t.map ∧ Answered .splice p args .ok added quiet s t ∧
            (q.following = none → t.roll.plan = some q) ∧
            ∀ f y, q.following = some f → FirstMatch s (e.start + g) y →
              t.roll.plan = some
                (if c ≤ e.start ∧ e.start < f.stop + g ∧ f.stop < y then
                  { q with following := some ⟨y, MatchUsed s, f.unmatched || !MatchUsed s⟩ }
                else q)))

/-- Consumption of a segment [S, c), entry by entry (R103): what is charged of an entry and what becomes of it. After
it every entry starts at or after c, and entries keep the order they had. Beside that rule: a segment that ends at c
takes its share of the map and of the sample queue. Its record, if it has one, is charged with each item in turn (R104):
the total of its kind, held at 4,294,967,295, the splice flag, the list up to 8 items and the overflow count held at
65,535. The samples below c leave the queue; those from S on accumulate into a SALE record that has room for them, in
n, sums and ranges, and the others count as waste; a thin mark gives the record its flag and is cleared (R137, R139). An
untracked segment charges no record (R106), and no other record changes. -/
def Obligations.Consumption : Prop :=
  ∀ (start c : Pos) (e : MapEntry),
    (c ≤ e.start → consumeEntry start c e = (none, some e)) ∧
    (e.start < c → e.kind = .splice →
      consumeEntry start c e =
        (if start ≤ e.start then some ⟨.splice, e.detail, e.start - start, 0⟩ else none, none)) ∧
    (∀ b, e.start < c → e.kind ≠ .splice → e.stop = some b →
      (b ≤ start → consumeEntry start c e = (none, none)) ∧
      (start < b → max e.start start < min b c →
        consumeEntry start c e =
          (some ⟨e.kind, e.detail, max e.start start - start, min b c - max e.start start⟩,
            if b ≤ c then none else some { e with start := c })) ∧
      (start < b → b ≤ e.start → (consumeEntry start c e).1 = none ∧
        (b ≤ c → (consumeEntry start c e).2 = none))) ∧
    (e.start < c → start < c → e.kind ≠ .splice → e.stop = none →
      consumeEntry start c e =
        (some ⟨e.kind, e.detail, max e.start start - start, c - max e.start start⟩,
          some { e with start := c })) ∧
    ∀ m : WebMap,
      charges start c m = m.entries.filterMap (fun e => (consumeEntry start c e).1) ∧
      (consumed start c m).entries = m.entries.filterMap (fun e => (consumeEntry start c e).2) ∧
      (∀ x ∈ (consumed start c m).entries, c ≤ x.start) ∧
      ∀ (p : Plan) (s t : State), t = consumeSegment p c s →
        t = { s with
          roll := { s.roll with records := t.roll.records }, map := consumed p.start c s.map
          shade := { s.shade with
            queue := s.shade.queue.filter (fun y => decide (c ≤ y.position)), thin := false
            wasteSamples := t.shade.wasteSamples } } ∧
        SamplesWasted p c (s.shade.queue.filter (fun y => decide (y.position < c))) s t ∧
        (∀ i, p.record = some i → ∃ r, r = t.record i ∧
          ShareTaken p.start c s.map s.shade (s.record i) r ∧
          r = { s.record i with
            registerOff := r.registerOff, embossOff := r.embossOff, defectTotal := r.defectTotal
            splice := r.splice, defects := r.defects, defectOverflow := r.defectOverflow
            shade := r.shade, thinSampling := r.thinSampling, revision := r.revision }) ∧
        ∀ j, p.record ≠ some j → t.record j = s.record j

/-! ### The roll former (07) -/

/-- Cut due (R119). The end is re-anchored to the match points when match arithmetic placed it and k0 is defined,
unless it would not lie beyond S; the plan and its record enter CLOSING; the cut count adds 1; a cut record in ISSUED
with the strobe position c + D_K + τ̄, τ̄ clamped to the capture window, joins the two most recent; CUT is raised on
port W. Nothing else changes while that position lies ahead of w. When it lies at or below w, the strobe position is w
instead and the strobe is made at once (R121), the cut due point of the next segment's end lying ahead. That the
record's kind is the kind ending is the model's choice (assumption 34), and so is that the end of a following waste
stands when the cut is re-anchored (assumption 40), and that waste planned by the strobe has the pending end cause
PLANNED (assumption 61). Before the point, and with no WINDING plan that has an end, the
command changes nothing, which is the model's own convention (assumption 1). -/
def Obligations.CutDue : Prop :=
  (∀ s : State, (∀ p c, s.roll.plan = some p → p.stop = some c → p.phase = .closing ∨
      (s.web.w : Int) < c + s.geometry.dK - s.recipe.cutLead) → exec .cutDue s = .next s) ∧
  ∀ (s : State) (p : Plan) (c c' : Pos),
    s.roll.plan = some p → p.phase = .winding → p.stop = some c →
    c + s.geometry.dK - s.recipe.cutLead ≤ s.web.w → Reanchored s p c c' →
    (∀ y, StrobeAhead s c' y → ∃ (t : State) (x : CutRecord), exec .cutDue s = .next t ∧
      t = { s with roll := t.roll, ports := t.ports } ∧ Noticed (on .winder .cut) s t ∧
      CutFixed p c' y x s t) ∧
    ∀ q e, StrobeReached s c' → 0 < s.recipe.repeatLength → NextPlanned p c' s q → q.stop = some e →
      DueAhead s e →
      ∃ (t u : State) (x : CutRecord) (r : Option (Fin 24)), exec .cutDue s = .next t ∧
        u = { s with roll := u.roll } ∧ CutFixed p c' s.web.w x s u ∧
        Strobed { p with stop := some c', phase := .closing } q x r u t

/-- The strobe of an ISSUED cut whose position w has reached (R121): a cut that is AWAITING becomes UNCONFIRMED and the
last unconfirmed one, its SALE record graded and its WASTE record freed and counted (R130, R131); the cut becomes
AWAITING with its confirm point, its record enters CUT_WAIT, CUT_STROBE is asserted for the RPO pulse width, the map is
consumed and the samples are drained for [S, c), and the record takes its share (R104, R137, R139). The next segment
from c is the waste that a dodge left to follow, with its end and match mode as they were placed, or is planned as a
SALE segment to the first match at or after c + target length: the first splice short of its guard is dodged, or the
segment is converted to waste, and the later splices move the end of that waste (R114). It takes the lowest record that
is FREE once the AWAITING cut is finished; only when none is FREE is it untracked, and counted (R111). Should the cut
due point of its end be reached too, its cut is issued at once (R119). That the pending end cause of waste is PLANNED is
the model's choice (assumption 61), and that the command changes nothing before the strobe position is its own
convention (assumption 1). -/
def Obligations.CutStrobe : Prop :=
  (∀ s : State, (∀ x ∈ s.roll.cuts, x.state = .issued → (s.web.w : Int) < x.strobe) →
    exec .cutStrobe s = .next s) ∧
  ∀ (s : State) (p q : Plan) (x : CutRecord) (e : Pos),
    s.roll.plan = some p → s.roll.cuts.find? (fun x => x.state == .issued) = some x →
    x.strobe ≤ s.web.w → 0 < s.recipe.repeatLength → NextPlanned p x.cut s q → q.stop = some e →
    (DueAhead s e → ∃ (t : State) (r : Option (Fin 24)), exec .cutStrobe s = .next t ∧
      t.cutStrobe = true ∧ Strobed p q x r s t) ∧
    ∀ c y, ¬ DueAhead s e → Reanchored s q e c →
      y = c + s.geometry.dK + clampInt (-s.recipe.window) s.recipe.window (meanNearest s.roll.transport) →
      s.web.w < y →
      ∃ (t u : State) (r : Option (Fin 24)) (z : CutRecord), exec .cutStrobe s = .next t ∧
        Strobed p q x r s u ∧ CutFixed { q with record := r } c y z u t ∧
        t = { u with roll := t.roll, ports := t.ports } ∧ Noticed (on .winder .cut) u t

/-- The confirm point of the AWAITING cut (R127): when w has reached it, the cut is UNCONFIRMED and the last
unconfirmed one, and CUT is raised on port W; its SALE record is numbered and graded with the unconfirmed-cut flag
(R130), its WASTE record is freed and its length counted (R131). The hold causes are then those whose conditions stand,
and a cause that the freed record changed raises HOLD on every port (R19). Before that the command changes nothing,
which is the model's own convention (assumption 1). -/
def Obligations.ConfirmTimesOut : Prop :=
  ∀ (s : State) (x : CutRecord) (y : Pos),
    s.roll.cuts.find? (fun x => x.state == .awaiting) = some x → x.confirm = some y →
    ((s.web.w : Int) < y → exec .confirmTimeout s = .next s) ∧
    (y ≤ s.web.w → ∃ t, exec .confirmTimeout s = .next t ∧ t.web = s.web ∧ t.map = s.map ∧
      t.roll.plan = s.roll.plan ∧
      Pending .winder .cut t ∧ (∀ i, x.ending = some i → HoldsStand t) ∧
      t.roll.cuts = s.roll.cuts.map (fun y =>
        if y.state = .awaiting then { y with state := .unconfirmed } else y) ∧
      t.roll.lastUnconfirmed = some x.number ∧
      (∀ i, x.ending = some i → (s.record i).kind = .waste → (t.record i).state = .free ∧
        t.roll.wasteTotal = min 4294967295 (s.roll.wasteTotal + (s.record i).length.toNat) ∧
        (t.line.holds ≠ s.line.holds → ∀ q, Pending q .hold t)) ∧
      (∀ i, x.ending = some i → (s.record i).kind = .sale →
        (t.record i).saleNumber = some (min 4294967295 (s.roll.saleCounter + 1)) ∧
        t.roll.saleCounter = min 4294967295 (s.roll.saleCounter + 1) ∧
        (t.record i).grade.isSome = true ∧ (t.record i).unconfirmedCut = true ∧
        ((t.record i).state = .graded ∨ (t.record i).state = .labelPending) ∧
        t.roll.wasteTotal = s.roll.wasteTotal))

/-- The end of an open-ended waste segment (R113, R115). One that reaches its limit, which lay ahead of w when the
segment was planned, is given the end S + 2,000,000, taken to the next match point in match arithmetic; a limit that w
had passed by then is never reached (R24). In match arithmetic the cut due point of that end can lie ahead, and the
plan and its record take the end; in fixed arithmetic it never does. An end whose cut due point is reached is cut at
once (R119): the plan and its record are CLOSING, the cut is ISSUED with its strobe position ahead of w, and CUT is
raised on port W; fixed arithmetic leaves the record unmatched. Without the limit, at a frame close found in register
with MK0 in TRACK and no open or stood-in EMBOSS entry while emboss is enabled, the end is the first match at or after
the greatest of the frame's c0, S + startup waste and the knife frame position plus the cut lead, or the first match
at or after S + 2,000,000 and that last bound when it would lie beyond 2,000,000; it too is placed, or cut at once. A
frame close outside TRACK plans no end. That WASTE_END_FORCED changes nothing before the limit, with no limit to
reach, or for a plan that has an end, is the model's own convention (assumption 1). -/
def Obligations.WasteEndForced : Prop :=
  (∀ s : State, (∀ p, s.roll.plan = some p → p.stop ≠ none ∨ p.limited = false ∨
      (s.web.w : Int) < p.start + 2000000 + s.geometry.dK - s.recipe.cutLead) →
    exec .wasteEndForced s = .next s) ∧
  (∀ (s : State) (p : Plan) (e : Pos),
    s.roll.plan = some p → p.stop = none → p.limited = true → 0 < s.recipe.repeatLength →
    p.start + 2000000 + s.geometry.dK - s.recipe.cutLead ≤ s.web.w →
    FirstMatch s (p.start + 2000000) e →
    (DueAhead s e → ∃ t, exec .wasteEndForced s = .next t ∧
      t = { s with roll := t.roll } ∧ EndPlaced p e s t) ∧
    (∀ y, ¬ DueAhead s e → p.phase = .winding → StrobeAhead s e y →
      ∃ t, exec .wasteEndForced s = .next t ∧ t = { s with roll := t.roll, ports := t.ports } ∧
        Noticed (on .winder .cut) s t ∧ CutAtOnce p e y s t)) ∧
  ∀ (s : State) (p : Plan) (f : Frame) (knife : Pos),
    s.roll.plan = some p → p.stop = none → 0 < s.recipe.repeatLength → s.capture.frame = some f →
    f.c0 + s.recipe.repeatLength / 2 ≤ s.web.w →
    knife = s.web.w - s.geometry.dK + s.recipe.cutLead →
    ((s.channel .mk0).state ≠ .track → ∃ t, exec .frameClose s = .next t ∧ t.roll = s.roll) ∧
    ((s.channel .mk0).state = .track →
      (s.recipe.embossEnableField = 1 → ∀ x ∈ s.map.entries, ¬ Covers .emboss x) →
      ∀ y e, FirstMatch s (max (max f.c0 (p.start + s.recipe.startupWaste)) knife) y →
        (y ≤ p.start + 2000000 → e = y) →
        (p.start + 2000000 < y → FirstMatch s (max (p.start + 2000000) knife) e) →
        ∃ t, exec .frameClose s = .next t ∧ (t.register.verdict = some true →
          (DueAhead s e → EndPlaced p e s t) ∧
          ∀ z, ¬ DueAhead s e → p.phase = .winding → StrobeAhead s e z →
            CutAtOnce p e z s t ∧ Pending .winder .cut t))

/-- A report that names a cut number (R124): it is taken when the named cut is AWAITING, and the cut's confirm
timeout is then stopped; it is refused with TOO_LATE when the number is the last unconfirmed one or names an
UNCONFIRMED record; otherwise it is refused with STATE. -/
def Obligations.ReportsJudged : Prop :=
  ∀ (r : Req) (p : Port) (args : List Byte) (s : State) (n : Nat),
    r = .cutDone ∨ r = .cutFailed → Admitted r p args s → n = natOfBytes args →
    ((∃ x ∈ s.roll.cuts, x.number = n ∧ x.state = .awaiting) →
      ∃ (t : State) (raised : Raised), exec (requestInstr r p args) s = .next t ∧
        Answered r p args .ok [] raised s t ∧ Has raised .winder .cut ∧
        (∀ x ∈ t.roll.cuts, x.state ≠ .awaiting) ∧ exec .confirmTimeout t = .next t) ∧
    ((∀ x ∈ s.roll.cuts, x.number = n → x.state ≠ .awaiting) →
      (s.roll.lastUnconfirmed = some n ∨ ∃ x ∈ s.roll.cuts, x.number = n ∧ x.state = .unconfirmed) →
      ∃ t, exec (requestInstr r p args) s = .next t ∧
        SameButPorts s t ∧ Answered r p args .tooLate [] quiet s t) ∧
    ((∀ x ∈ s.roll.cuts, x.number = n → x.state ≠ .awaiting ∧ x.state ≠ .unconfirmed) →
      s.roll.lastUnconfirmed ≠ some n →
      ∃ t, exec (requestInstr r p args) s = .next t ∧
        SameButPorts s t ∧ Answered r p args .state [] quiet s t)

/-- A CUT_DONE that is taken makes the cut DONE (R125): its SALE record is numbered and graded, its WASTE record is
freed and its length added to the waste total, an untracked WASTE segment adds its length too (R130, R131). The web,
the plan's segment and the recipe are untouched. -/
def Obligations.CutDoneTaken : Prop :=
  ∀ (p : Port) (args : List Byte) (s : State) (x : CutRecord), Admitted .cutDone p args s →
    s.roll.cuts.find? (fun y => y.number == natOfBytes args && y.state == .awaiting) = some x →
    ∃ t, exec (.cutDone p args) s = .next t ∧ t.web = s.web ∧ t.recipe = s.recipe ∧
      t.roll.plan = s.roll.plan ∧
      t.roll.cuts = s.roll.cuts.map (fun y => if y.state = .awaiting then { y with state := .done } else y) ∧
      t.roll.lastUnconfirmed = s.roll.lastUnconfirmed ∧
      (∀ i, x.ending = some i → (s.record i).kind = .waste → (t.record i).state = .free ∧
        t.roll.wasteTotal = min 4294967295 (s.roll.wasteTotal + (s.record i).length.toNat)) ∧
      (∀ i, x.ending = some i → (s.record i).kind = .sale →
        (t.record i).saleNumber = some (min 4294967295 (s.roll.saleCounter + 1)) ∧
        t.roll.saleCounter = min 4294967295 (s.roll.saleCounter + 1) ∧
        (t.record i).grade.isSome = true ∧ (t.record i).unconfirmedCut = (s.record i).unconfirmedCut ∧
        ((t.record i).state = .graded ∨ (t.record i).state = .labelPending)) ∧
      (x.ending = none → t.roll.records = s.roll.records ∧
        t.roll.wasteTotal =
          if x.kindEnding = .waste then
            min 4294967295 (s.roll.wasteTotal + (x.cut - x.segmentStart).toNat)
          else s.roll.wasteTotal)

/-- A CUT_FAILED of a cut that ended the tracked record i, while the plan of the next segment stands on the record j
(R126): the cut is FAILED; record i takes over the plan, with its own kind and start, the plan's end and phase, and
end cause CUT_FAIL; the totals add and the flags combine; record j is freed; an ISSUED cut then ends record i. A
CUT_FAILED before an untracked plan puts the plan on record i alike, and merges and frees nothing. A CUT_FAILED of a
cut that ended an untracked segment gives the plan's record, if any, end cause CUT_FAIL and changes no other record
(R126); that an untracked WASTE segment's length is then counted is the model's choice (assumption 26). A CUT_FAILED
of the closing cut finishes its record with end cause CUT_FAIL: a SALE record is numbered and rejected, a WASTE record
freed (R126, R132); CUT_STROBE is deasserted, and CLOSING goes on with the web map and the sample queue emptied (R16).
An untracked closing segment's report is taken the same way with nothing to grade (R16), and an untracked WASTE
segment's length is counted. -/
def Obligations.CutFailedMerges : Prop :=
  (∀ (p : Port) (args : List Byte) (s : State) (x : CutRecord) (q : Plan) (i j : Fin 24),
    Admitted .cutFailed p args s →
    s.roll.cuts.find? (fun y => y.number == natOfBytes args && y.state == .awaiting) = some x →
    x.ending = some i → x.kindNext ≠ none → s.roll.plan = some q → q.record = some j → i ≠ j →
    ∃ t, exec (.cutFailed p args) s = .next t ∧
      t = { s with
        line := { s.line with holds := t.line.holds }, roll := t.roll
        shade := { s.shade with wasteSamples := t.shade.wasteSamples }, ports := t.ports } ∧
      t.roll.plan = some { q with record := some i } ∧
      t.roll.cuts = s.roll.cuts.map (fun y =>
        match y.state with
        | .awaiting => { y with state := .failed }
        | .issued => { y with ending := some i, kindEnding := (s.record i).kind }
        | .done | .failed | .unconfirmed | .withdrawn => y) ∧
      (t.record j).state = .free ∧
      (∀ k, k ≠ i → k ≠ j → t.record k = s.record k) ∧
      (t.record i).state = (match q.phase with
        | .winding => .winding
        | .closing => .closing) ∧
      (t.record i).kind = (s.record i).kind ∧ (t.record i).start = (s.record i).start ∧
      (t.record i).stop = q.stop ∧ (t.record i).endCause = some .cutFail ∧
      (t.record i).splice = ((s.record i).splice || (s.record j).splice) ∧
      (t.record i).flags = (s.record i).flags ||| (s.record j).flags ∧
      (t.record i).registerOff = min 4294967295 ((s.record i).registerOff + (s.record j).registerOff) ∧
      (t.record i).embossOff = min 4294967295 ((s.record i).embossOff + (s.record j).embossOff) ∧
      (t.record i).defectTotal = min 4294967295 ((s.record i).defectTotal + (s.record j).defectTotal) ∧
      ((s.record i).defects.length ≤ 8 →
        (t.record i).defects = ((s.record i).defects ++ (s.record j).defects).take 8)) ∧
  (∀ (p : Port) (args : List Byte) (s : State) (x : CutRecord) (q : Plan) (i : Fin 24),
    Admitted .cutFailed p args s →
    s.roll.cuts.find? (fun y => y.number == natOfBytes args && y.state == .awaiting) = some x →
    x.ending = some i → x.kindNext ≠ none → s.roll.plan = some q → q.record = none →
    ∃ t, exec (.cutFailed p args) s = .next t ∧
      t = { s with
        roll := { s.roll with
          plan := some { q with record := some i }, records := t.roll.records, cuts := t.roll.cuts }
        ports := t.ports } ∧
      Answered .cutFailed p args .ok [] (on .winder .cut) s t ∧
      t.roll.cuts = s.roll.cuts.map (fun y =>
        match y.state with
        | .awaiting => { y with state := .failed }
        | .issued => { y with ending := some i, kindEnding := (s.record i).kind }
        | .done | .failed | .unconfirmed | .withdrawn => y) ∧
      t.record i = { s.record i with
        state := match q.phase with
          | .winding => .winding
          | .closing => .closing
        stop := q.stop, endCause := some .cutFail, unmatched := (s.record i).unmatched || q.unmatched
        revision := (t.record i).revision } ∧
      ∀ k, k ≠ i → t.record k = s.record k) ∧
  (∀ (p : Port) (args : List Byte) (s : State) (x : CutRecord),
    Admitted .cutFailed p args s →
    s.roll.cuts.find? (fun y => y.number == natOfBytes args && y.state == .awaiting) = some x →
    x.ending = none → x.kindNext = none → s.roll.plan = none →
    ∃ (t : State) (raised : Raised), exec (.cutFailed p args) s = .next t ∧
      Answered .cutFailed p args .ok [] raised s t ∧ Has raised .winder .cut ∧
      t.cutStrobe = false ∧ t.web = s.web ∧ t.roll.plan = none ∧
      t.roll.cuts = s.roll.cuts.map (fun y => if y.state = .awaiting then { y with state := .failed } else y) ∧
      t.roll.wasteTotal =
        (if x.kindEnding = .waste then
          min 4294967295 (s.roll.wasteTotal + (x.cut - x.segmentStart).toNat)
        else s.roll.wasteTotal) ∧
      (s.line.state = .closing → s.line.closing = .cutReport →
        t.map.entries = [] ∧ t.shade.queue = []) ∧
      (s.line.closing ≠ .cutReport → t.roll.records = s.roll.records ∧ t.map = s.map ∧ t.shade = s.shade)) ∧
  (∀ (p : Port) (args : List Byte) (s : State) (x : CutRecord) (q : Plan),
    Admitted .cutFailed p args s →
    s.roll.cuts.find? (fun y => y.number == natOfBytes args && y.state == .awaiting) = some x →
    x.ending = none → x.kindNext ≠ none → s.roll.plan = some q →
    ∃ t, exec (.cutFailed p args) s = .next t ∧
      t = { s with
        roll := { s.roll with records := t.roll.records, cuts := t.roll.cuts, wasteTotal := t.roll.wasteTotal }
        ports := t.ports } ∧
      Answered .cutFailed p args .ok [] (on .winder .cut) s t ∧
      t.roll.cuts = s.roll.cuts.map (fun y => if y.state = .awaiting then { y with state := .failed } else y) ∧
      t.roll.wasteTotal =
        (if x.kindEnding = .waste then
          min 4294967295 (s.roll.wasteTotal + (x.cut - x.segmentStart).toNat)
        else s.roll.wasteTotal) ∧
      (∀ j, q.record = some j → (t.record j).endCause = some .cutFail ∧
        t.record j = { s.record j with endCause := some .cutFail, revision := (t.record j).revision }) ∧
      ∀ k, q.record ≠ some k → t.record k = s.record k) ∧
  ∀ (p : Port) (args : List Byte) (s : State) (x : CutRecord) (i : Fin 24),
    Admitted .cutFailed p args s →
    s.roll.cuts.find? (fun y => y.number == natOfBytes args && y.state == .awaiting) = some x →
    x.ending = some i → x.kindNext = none → s.roll.plan = none →
    ∃ (t : State) (raised : Raised), exec (.cutFailed p args) s = .next t ∧
      Answered .cutFailed p args .ok [] raised s t ∧ Has raised .winder .cut ∧
      t.cutStrobe = false ∧ t.web = s.web ∧ t.roll.plan = none ∧
      t.roll.cuts = s.roll.cuts.map (fun y => if y.state = .awaiting then { y with state := .failed } else y) ∧
      ((s.record i).kind = .sale →
        (t.record i).saleNumber = some (min 4294967295 (s.roll.saleCounter + 1)) ∧
        (t.record i).endCause = some .cutFail ∧ (∃ cause, (t.record i).grade = some (.reject cause)) ∧
        ((t.record i).state = .graded ∨ (t.record i).state = .labelPending)) ∧
      ((s.record i).kind = .waste → (t.record i).state = .free ∧
        t.roll.wasteTotal = min 4294967295 (s.roll.wasteTotal + (s.record i).length.toNat)) ∧
      (s.line.state = .closing → s.line.closing = .cutReport →
        t.map.entries = [] ∧ t.shade.queue = [])

/-- BREAK with a plan standing (R129, R11): an AWAITING cut is UNCONFIRMED and an ISSUED one WITHDRAWN; the winding
segment ends at the greater of the knife frame position and S, and its SALE record is numbered and rejected with end
cause BREAK, unless that is CUT_FAIL, and marked unmatched; the plan, the transport errors, the samples, the staged
tune and the measured repeats are gone; the frame is abandoned, MK0 and IDX are in SEEK, k0 is undefined; a nip that
is not PARKED is OPENING with the reason BREAK (R90); the line is STOPPED with the break flag set. The web does not
move. The segment takes its share of the map and of the samples first; a WASTE record is freed and its length counted,
as is an untracked WASTE segment's (R131). The map is then emptied, an UNVERIFIED REGISTER entry opens at w in the
empty map, and after it, which is the model's choice (assumption 28), an EMBOSS entry at w − D_E while emboss is
enabled (R105, R43, R92). Every unit channel and the emboss channel, if not OFF, is in ACQUIRE (R71, R81); that one
already in ACQUIRE has its frames since evaluation set to 0 is the model's choice (assumption 52). A BREAK taken in
STOPPED with no plan only sets the break flag, raising LINE when it was clear. -/
def Obligations.BreakEndsSegment : Prop :=
  (∀ (p : Port) (s : State), Admitted .brk p [] s → s.line.state = .stopped → s.roll.plan = none →
    ∃ t, exec (.brk p []) s = .next t ∧
      t = { s with line := { s.line with breakFlag := true }, ports := t.ports } ∧
      Answered .brk p [] .ok [] (everywhereIf (!s.line.breakFlag) .line) s t) ∧
  ∀ (p : Port) (s : State) (q : Plan), Admitted .brk p [] s → s.roll.plan = some q →
    ∃ (t : State) (raised : Raised), exec (.brk p []) s = .next t ∧
      Answered .brk p [] .ok [] raised s t ∧
      ((∃ x ∈ s.roll.cuts, x.state = .awaiting ∨ x.state = .issued) → Has raised .winder .cut) ∧
      t.web = s.web ∧ t.recipe = s.recipe ∧ t.geometry = s.geometry ∧ t.nv = s.nv ∧
      t.line.state = .stopped ∧ t.line.breakFlag = true ∧ t.line.stagedTune = none ∧
      t.roll.plan = none ∧ t.roll.transport = [] ∧ t.shade.queue = [] ∧ t.shade.thin = false ∧
      t.clock = { s.clock with
        k0 := none, measured := [], stretch := none, stretchOver := false, previousKey := none } ∧
      t.capture.frame = none ∧
      (t.channel .mk0).state = .seek ∧ (t.channel .mk0).window = .closed ∧
      (t.channel .idx).state = .seek ∧ (t.channel .idx).window = .closed ∧
      (∀ ch, (t.channel ch).enabled = (s.channel ch).enabled) ∧
      t.emboss.held = none ∧
      t.emboss.nip.state = (if s.emboss.nip.state = .parked then .parked else .opening) ∧
      (s.emboss.nip.state ≠ .parked →
        t.emboss.nip.orderReason = some .brk ∧ t.emboss.nip.openCause = none) ∧
      (∃ m : WebMap, Joined (openedEntry .register s.web.w .unverified) { s.map with entries := [] } m ∧
        (s.recipe.embossEnableField = 1 → s.line.state = .run ∨ s.line.state = .stopped →
          Joined (openedEntry .emboss (s.web.w - s.geometry.dE) .notClosed) m t.map) ∧
        (s.recipe.embossEnableField ≠ 1 → t.map = m)) ∧
      t.register = { s.register with units := t.register.units } ∧
      (∀ k, t.unit k = Reacquired (s.unit k)) ∧ t.emboss.channel = Reacquired s.emboss.channel ∧
      ((∃ k, (t.unit k).state ≠ (s.unit k).state) → Has raised .press .register) ∧
      AwaitingEnded s t ∧
      (AwaitsOther q s → s.roll.wasteTotal ≤ 4294967295 →
        t.roll.wasteTotal = min 4294967295 (s.roll.wasteTotal + awaitedWaste s +
          (match q.record with
          | some i => if (s.record i).kind = .waste then
              (max ((s.web.w : Int) - s.geometry.dK) q.start - (s.record i).start).toNat else 0
          | none => if q.kind = .waste then
              (max ((s.web.w : Int) - s.geometry.dK) q.start - q.start).toNat else 0))) ∧
      (AwaitsOther q s → SamplesWasted q
        (max ((s.web.w : Int) - s.geometry.dK) q.start) s.shade.queue s t) ∧
      (∀ i, q.record = some i → (s.record i).kind = .sale → AwaitsOther q s →
        ShareTaken q.start (max ((s.web.w : Int) - s.geometry.dK) q.start) s.map s.shade (s.record i)
          (t.record i)) ∧
      (∀ i, q.record = some i → (s.record i).kind = .waste → AwaitsOther q s → (t.record i).state = .free) ∧
      (∀ j, q.record ≠ some j → (∀ y, awaitingCutOf s = some y → y.ending ≠ some j) →
        t.record j = s.record j) ∧
      t.roll.cuts = s.roll.cuts.map (fun y =>
        match y.state with
        | .awaiting => { y with state := .unconfirmed }
        | .issued => { y with state := .withdrawn }
        | .done | .failed | .unconfirmed | .withdrawn => y) ∧
      ∀ i, q.record = some i → (s.record i).kind = .sale →
        (t.record i).stop = some (max ((s.web.w : Int) - s.geometry.dK) q.start) ∧
        (t.record i).unmatched = true ∧ (t.record i).saleNumber.isSome = true ∧
        (∃ cause, (t.record i).grade = some (.reject cause)) ∧
        (t.record i).endCause =
          some (if (s.record i).endCause = some .cutFail then .cutFail else .brk)

/-- ROLL_FLAG (R133). A record above 23 is refused with RANGE, a FREE record with NOT_FOUND, and any in NO_ORDER with
STATE. Otherwise, of the bits the port owns, those in the clear mask are cleared and then those in the set mask set,
the other bits stay, the result byte holds the bits of the masks that the port does not own, and the revision count
adds 1 exactly when the flags change. A roll's summary carries its flags. -/
def Obligations.RollFlag : Prop :=
  (∀ (p : Port) (n set clear : Byte) (s : State), Open p s → s.line.state = .noOrder →
    ∃ t, exec (.rollFlag p [n, set, clear]) s = .next t ∧
      SameButPorts s t ∧ Answered .rollFlag p [n, set, clear] .state [] quiet s t) ∧
  (∀ r : RollRecord, r.summary.flags = r.flags) ∧
  ∀ (p : Port) (n set clear owned : Byte) (s : State),
    Admitted .rollFlag p [n, set, clear] s →
    owned = (match p with
      | .press => 0x01#8
      | .emboss => 0x02#8
      | .winder => 0x0C#8
      | .quality => 0x30#8) →
    (23 < n.toNat → ∃ t, exec (.rollFlag p [n, set, clear]) s = .next t ∧
      SameButPorts s t ∧ Answered .rollFlag p [n, set, clear] .range [] quiet s t) ∧
    ∀ i : Fin 24, n.toNat = i.val →
      ((s.record i).state = .free → ∃ t, exec (.rollFlag p [n, set, clear]) s = .next t ∧
        SameButPorts s t ∧ Answered .rollFlag p [n, set, clear] .notFound [] quiet s t) ∧
      ((s.record i).state ≠ .free → ∃ t, exec (.rollFlag p [n, set, clear]) s = .next t ∧
        t = { s with ports := t.ports, roll := { s.roll with records := t.roll.records } } ∧
        Answered .rollFlag p [n, set, clear] .ok [(set ||| clear) &&& ~~~owned] quiet s t ∧
        (∀ j, j ≠ i → t.record j = s.record j) ∧
        (∀ b, b < 8 → (t.record i).flags.getLsbD b =
          if owned.getLsbD b then
            set.getLsbD b || (!clear.getLsbD b && (s.record i).flags.getLsbD b)
          else (s.record i).flags.getLsbD b) ∧
        t.record i = { s.record i with
          flags := (t.record i).flags
          revision := if (t.record i).flags = (s.record i).flags then (s.record i).revision
            else min 4294967295 ((s.record i).revision + 1) })

/-- CUT_FETCH, LABEL_FETCH, READ_ROLL and READ_BATCH copy the records they name in the layouts of R123, R157, R134 and
R148, and change nothing but their port. A FIFO set toward the part refuses each with FIFO_DIR; a record above 23 and
a batch number outside 1 to 16 are refused with RANGE, a batch that is not held and an empty label queue with
NOT_FOUND. A roll record image is 192 bytes and begins and ends with the revision count in four bytes. That the result
bytes of LABEL_FETCH are the roll number in four bytes, low byte first, is the model's choice (assumption 48), and so is
that a position beyond four bytes shows its low 32 bits (assumption 59). -/
def Obligations.RecordsRead : Prop :=
  (∀ r : RollRecord, r.image.length = 192 ∧ r.image.take 4 = bytesOfNat 4 r.revision ∧
    r.image.drop 188 = bytesOfNat 4 r.revision) ∧
  (∀ (p : Port) (s : State), Admitted .cutFetch p [] s → ∃ t, exec (.cutFetch p []) s = .next t ∧
    SameButPorts s t ∧
    ((s.port p).toStation = false → Answered .cutFetch p [] .fifoDir [] quiet s t) ∧
    ((s.port p).toStation = true →
      Fetching .cutFetch p []
        (s.roll.cuts.flatMap (fun x =>
          bytesOfNat 4 x.number ++ [x.state.code, codeOr 255#8 (fun i => BitVec.ofNat 8 i.val) x.ending,
            x.kindEnding.code, codeOr 255#8 SegmentKind.code x.kindNext, x.cause.code, 0#8]
            ++ bytesOfInt 4 x.cut ++ bytesOfInt 4 x.strobe))
        [BitVec.ofNat 8 s.roll.cuts.length] s t)) ∧
  (∀ (p : Port) (s : State), Admitted .labelFetch p [] s → ∃ t, exec (.labelFetch p []) s = .next t ∧
    SameButPorts s t ∧
    ((s.port p).toStation = false → Answered .labelFetch p [] .fifoDir [] quiet s t) ∧
    ((s.port p).toStation = true → s.label.entries = [] →
      Answered .labelFetch p [] .notFound [] quiet s t) ∧
    (∀ e rest order, (s.port p).toStation = true → s.label.entries = e :: rest →
      s.line.order = some order →
      Fetching .labelFetch p []
        (bytesOfNat 4 order ++ bytesOfNat 4 ((s.record e.record).saleNumber.getD 0)
          ++ bytesOfInt 4 (s.record e.record).length ++ bytesOfNat 4 (s.record e.record).faultLength
          ++ [BitVec.ofNat 8 (s.record e.record).run, BitVec.ofNat 8 e.record.val]
          ++ ((s.record e.record).grade.getD .first).codes
          ++ [BitVec.ofNat 8 ((s.record e.record).batch.getD 0),
            BitVec.ofNat 8 (bitsOf [(s.record e.record).lowConfidence, (s.record e.record).unmatched,
              (s.record e.record).unconfirmedCut]),
            BitVec.ofNat 8 (s.record e.record).attempts, 0#8])
        (bytesOfNat 4 e.roll) s t)) ∧
  (∀ (p : Port) (n : Byte) (s : State), Admitted .readRoll p [n] s →
    ∃ t, exec (.readRoll p [n]) s = .next t ∧ SameButPorts s t ∧
    (23 < n.toNat → Answered .readRoll p [n] .range [] quiet s t) ∧
    (n.toNat ≤ 23 → (s.port p).toStation = false → Answered .readRoll p [n] .fifoDir [] quiet s t) ∧
    (∀ i : Fin 24, n.toNat = i.val → (s.port p).toStation = true →
      Fetching .readRoll p [n] (s.record i).image [] s t)) ∧
  ∀ (p : Port) (k : Byte) (s : State), Admitted .readBatch p [k] s →
    ∃ t, exec (.readBatch p [k]) s = .next t ∧ SameButPorts s t ∧
    (¬ (1 ≤ k.toNat ∧ k.toNat ≤ 16) → Answered .readBatch p [k] .range [] quiet s t) ∧
    (1 ≤ k.toNat → k.toNat ≤ 16 → s.batch k.toNat = none →
      Answered .readBatch p [k] .notFound [] quiet s t) ∧
    (∀ b, 1 ≤ k.toNat → k.toNat ≤ 16 → s.batch k.toNat = some b →
      ((s.port p).toStation = false → Answered .readBatch p [k] .fifoDir [] quiet s t) ∧
      ((s.port p).toStation = true →
        Fetching .readBatch p [k]
          ([BitVec.ofNat 8 b.number, if b.isClosed then 1#8 else 0#8, b.save.code,
              BitVec.ofNat 8 b.foundingRun]
            ++ bytesOfInt 2 b.reference.l ++ bytesOfInt 2 b.reference.a ++ bytesOfInt 2 b.reference.b
            ++ bytesOfNat 2 b.rolls ++ bytesOfNat 4 b.foundingRoll ++ bytesOfNat 4 b.lastRoll)
          [] s t))

/-- The grade of a record is REJECT with the first cause of the list of R130 that applies, and otherwise FIRST. -/
def Obligations.GradeOrder : Prop :=
  ∀ (k : Recipe) (r : RollRecord),
    gradeOf k r =
      if r.splice then .reject .splice
      else if r.endCause = some .brk then .reject .brk
      else if r.endCause = some .cutFail then .reject .cutFail
      else if r.length < k.minLength then .reject .short
      else if r.flags.getLsbD 4 then .reject .qcHold
      else if r.flags.getLsbD 2 then .reject .core
      else if 0 < r.defectOverflow ∨
          k.maxDefect < ((r.defectTotal + r.registerOff + r.embossOff : Nat) : Int) then .reject .defect
      else if r.result.map ShadeResult.verdict = some .shaded then .reject .shaded
      else if r.result.map ShadeResult.verdict = some .unclassed then .reject .unclassed
      else .first

/-! ### Shade batches (08) -/

/-- SHADE_SAMPLE (R135, R136): with room, the clamped sample joins the queue tagged w − D_Q and is answered with the
codes of the clamped coordinates and the number in the queue; with 128 samples queued it is refused with FULL, the
thin mark is set and the second result byte is 128. That the first result byte of FULL still holds the clamp codes is
the model's choice (assumption 23). -/
def Obligations.ShadeSample : Prop :=
  ∀ (p : Port) (l0 l1 a0 a1 b0 b1 : Byte) (s : State) (l a b : Int) (codes : Nat),
    Admitted .shadeSample p [l0, l1, a0, a1, b0, b1] s →
    l = min (natOfBytes [l0, l1] : Int) 10000 →
    a = max (-12800) (min (intOfBytes [a0, a1]) 12700) →
    b = max (-12800) (min (intOfBytes [b0, b1]) 12700) →
    codes = (if l = natOfBytes [l0, l1] then 0 else 1) + (if a = intOfBytes [a0, a1] then 0 else 2)
      + (if b = intOfBytes [b0, b1] then 0 else 4) →
    (s.shade.queue.length < 128 →
      ∃ t, exec (.shadeSample p [l0, l1, a0, a1, b0, b1]) s = .next t ∧
        t = { s with
          ports := t.ports
          shade := { s.shade with
            queue := s.shade.queue ++ [⟨(s.web.w : Int) - s.geometry.dQ, ⟨l, a, b⟩⟩] } } ∧
        Answered .shadeSample p [l0, l1, a0, a1, b0, b1] .ok
          [BitVec.ofNat 8 codes, BitVec.ofNat 8 (s.shade.queue.length + 1)] quiet s t) ∧
    (128 ≤ s.shade.queue.length →
      ∃ t, exec (.shadeSample p [l0, l1, a0, a1, b0, b1]) s = .next t ∧
        t = { s with ports := t.ports, shade := { s.shade with thin := true } } ∧
        Answered .shadeSample p [l0, l1, a0, a1, b0, b1] .full
          [BitVec.ofNat 8 codes, 128#8] quiet s t)

/-- BATCH_CLOSE (R147): a number outside 1 to 16 is refused with RANGE, one the table does not hold with NOT_FOUND, a
CLOSED batch with STATE. An OPEN batch becomes CLOSED, with everything else of it kept but its save state, which is
not SAVED until a write of the change ends (R149); no other batch changes. -/
def Obligations.BatchClose : Prop :=
  ∀ (p : Port) (k : Byte) (s : State), Admitted .batchClose p [k] s →
    (¬ (1 ≤ k.toNat ∧ k.toNat ≤ 16) → ∃ t, exec (.batchClose p [k]) s = .next t ∧
      SameButPorts s t ∧ Answered .batchClose p [k] .range [] quiet s t) ∧
    (1 ≤ k.toNat → k.toNat ≤ 16 → s.batch k.toNat = none → ∃ t, exec (.batchClose p [k]) s = .next t ∧
      SameButPorts s t ∧ Answered .batchClose p [k] .notFound [] quiet s t) ∧
    ∀ b, 1 ≤ k.toNat → k.toNat ≤ 16 → s.batch k.toNat = some b →
      (b.isClosed = true → ∃ t, exec (.batchClose p [k]) s = .next t ∧
        SameButPorts s t ∧ Answered .batchClose p [k] .state [] quiet s t) ∧
      (b.isClosed = false →
        ∃ (t : State) (raised : Raised) (save : SaveState), exec (.batchClose p [k]) s = .next t ∧
          t = { s with
            ports := t.ports, store := t.store, shade := { s.shade with batches := t.shade.batches } } ∧
          t.batch k.toNat = some { b with isClosed := true, save := save } ∧ save ≠ .saved ∧
          (∀ j, j ≠ k.toNat → t.batch j = s.batch j) ∧
          Answered .batchClose p [k] .ok [] raised s t)

/-- Classification by spread, for a roll with samples (R142). A spread above the uniformity limit gives SHADED with no
batch number, no decision distance, no low confidence, and the batch table as it was. A spread at most the limit sets
low confidence exactly when n is below the confidence minimum, which no n is below when it is 0, and the verdict is
not SHADED. Beside that rule: a roll with no samples is UNCLASSED with no means (R141); within the limit the nearest
OPEN batch at most the shade tolerance away, the lowest-numbered of several, takes the roll, which it counts (R143);
with none so near a roll of enough samples founds the next batch, which raises BATCH on port Q, and any other roll is
UNCLASSED (R144); and a changed or founded batch is not SAVED until a write of it ends (R149). -/
def Obligations.SpreadClassified : Prop :=
  (∀ (i : Fin 24) (s : State), 0 < (s.record i).shade.n →
    (s.recipe.uniformityLimit < (s.record i).shade.spread →
      ∃ r, (classify i s).record i = r ∧ (∃ m d, r.result = some ⟨m, d, .shaded, none⟩) ∧
        r.batch = none ∧ r.lowConfidence = false ∧
        classify i s = { s with roll := { s.roll with records := (classify i s).roll.records } }) ∧
    ((s.record i).shade.spread ≤ s.recipe.uniformityLimit →
      ∃ r x, (classify i s).record i = r ∧ r.result = some x ∧ x.verdict ≠ .shaded ∧
        r.lowConfidence = decide (((s.record i).shade.n : Int) < s.recipe.confidenceMinimum) ∧
        (s.recipe.confidenceMinimum = 0 → r.lowConfidence = false))) ∧
  ∀ (i : Fin 24) (s : State) (a : Accumulator) (bs : List Batch) (dist : Batch → Int),
    a = (s.record i).shade → bs = s.shade.batches →
    dist = (fun b =>
      (s.recipe.weightL * mag (a.mean.l - b.reference.l)
        + s.recipe.weightC * (mag (a.mean.a - b.reference.a) + mag (a.mean.b - b.reference.b))) / 16) →
    0 ≤ s.recipe.weightL → 0 ≤ s.recipe.weightC → bs.Pairwise (fun x y => x.number < y.number) →
    (∀ b ∈ bs, b.number ≤ bs.length) →
    (a.n = 0 → ∃ r, (classify i s).record i = r ∧ r.result = some ⟨none, none, .unclassed, none⟩ ∧
      r.batch = none ∧ r.lowConfidence = false ∧ (classify i s).shade = s.shade) ∧
    (0 < a.n → a.spread ≤ s.recipe.uniformityLimit →
      (∀ b ∈ bs, b.isClosed = false → dist b ≤ s.recipe.shadeTolerance →
        (∀ x ∈ bs, x.isClosed = false → dist b < dist x ∨ (dist b = dist x ∧ b.number ≤ x.number)) →
        ∃ (r : RollRecord) (save : SaveState), (classify i s).record i = r ∧
          r.result = some ⟨some a.mean, some a.spread, .assigned, some (dist b)⟩ ∧
          r.batch = some b.number ∧ save ≠ .saved ∧
          (classify i s).shade.batches = bs.map (fun x =>
            if x.number = b.number then
              { x with
                rolls := min 65535 (x.rolls + 1), lastRoll := (s.record i).saleNumber.getD 0, save := save }
            else x)) ∧
      ((∀ b ∈ bs, b.isClosed = false → s.recipe.shadeTolerance < dist b) →
        ∀ d : Option Int,
          ((∀ b ∈ bs, b.isClosed = true) → d = none) →
          (∀ b ∈ bs, b.isClosed = false → (∀ x ∈ bs, x.isClosed = false → dist b ≤ dist x) →
            d = some (dist b)) →
          (bs.length < 16 → s.recipe.foundingMinimum ≤ a.n →
            ∃ (r : RollRecord) (save : SaveState), (classify i s).record i = r ∧
              r.result = some ⟨some a.mean, some a.spread, .founded, d⟩ ∧
              r.batch = some (bs.length + 1) ∧ save ≠ .saved ∧ Pending .quality .batch (classify i s) ∧
              (classify i s).shade.batches = bs ++
                [{ number := bs.length + 1, reference := a.mean
                   foundingRoll := (s.record i).saleNumber.getD 0, foundingRun := s.line.run.getD 0
                   rolls := 1, lastRoll := (s.record i).saleNumber.getD 0, isClosed := false
                   save := save }]) ∧
          (16 ≤ bs.length ∨ (a.n : Int) < s.recipe.foundingMinimum →
            ∃ r, (classify i s).record i = r ∧
              r.result = some ⟨some a.mean, some a.spread, .unclassed, d⟩ ∧ r.batch = none ∧
              (classify i s).shade = s.shade)))

/-- The accumulators of a failed cut's two records (R140): up to 65,535 samples together, the counts and sums add and
each least and greatest value is the smaller and the larger, a side with no samples contributing none; beyond that
the old record keeps its own and the plan record's count is added to the waste samples. The thin-sampling flags
combine, and the plan's record is freed. -/
def Obligations.AccumulatorsCombine : Prop :=
  ∀ (i j : Fin 24) (p : Plan) (s : State), i ≠ j → p.record = some j →
    ((mergePlan i p s).record j).state = .free ∧
    ((mergePlan i p s).record i).thinSampling = ((s.record i).thinSampling || (s.record j).thinSampling) ∧
    ((s.record i).shade.n + (s.record j).shade.n ≤ 65535 →
      (mergePlan i p s).shade.wasteSamples = min 4294967295 s.shade.wasteSamples ∧
      ((mergePlan i p s).record i).shade.n = (s.record i).shade.n + (s.record j).shade.n ∧
      ((mergePlan i p s).record i).shade.sum =
        ⟨(s.record i).shade.sum.l + (s.record j).shade.sum.l,
          (s.record i).shade.sum.a + (s.record j).shade.sum.a,
          (s.record i).shade.sum.b + (s.record j).shade.sum.b⟩ ∧
      ((s.record i).shade.range = none →
        ((mergePlan i p s).record i).shade.range = (s.record j).shade.range) ∧
      ((s.record j).shade.range = none →
        ((mergePlan i p s).record i).shade.range = (s.record i).shade.range) ∧
      ∀ x y, (s.record i).shade.range = some x → (s.record j).shade.range = some y →
        ((mergePlan i p s).record i).shade.range =
          some ⟨⟨min x.least.l y.least.l, min x.least.a y.least.a, min x.least.b y.least.b⟩,
            ⟨max x.greatest.l y.greatest.l, max x.greatest.a y.greatest.a,
              max x.greatest.b y.greatest.b⟩⟩) ∧
    (65535 < (s.record i).shade.n + (s.record j).shade.n →
      ((mergePlan i p s).record i).shade = (s.record i).shade ∧
      (mergePlan i p s).shade.wasteSamples =
        min 4294967295 (s.shade.wasteSamples + (s.record j).shade.n))

/-! ### Labelling (09) -/

/-- LABEL_DONE and LABEL_SKIP (R155, R158, R159, R160). An outcome above 1 is refused with RANGE, an empty queue with
NOT_FOUND, a roll that is not the head's with NOT_HEAD. FAILED adds an attempt to the head's record and leaves the
queue. APPLIED, with one more attempt, and SKIPPED, with none, remove the head; at most one waiting roll joins the
tail; the record is freed and counted as unjournalled when the journal path is closed, and otherwise, below a full
journal, stands in LABELLED with its outcome. -/
def Obligations.LabelReports : Prop :=
  ∀ (r : Req) (p : Port) (roll : Nat) (out : Byte) (args : List Byte) (s : State),
    (r = .labelDone ∧ args.length = 5 ∧ natOfBytes (args.take 4) = roll ∧ args.drop 4 = [out] ∨
      r = .labelSkip ∧ args.length = 4 ∧ natOfBytes args = roll ∧ out = 0#8) →
    Admitted r p args s →
    (1 < out.toNat → ∃ t, exec (requestInstr r p args) s = .next t ∧
      SameButPorts s t ∧ Answered r p args .range [] quiet s t) ∧
    (out.toNat ≤ 1 → s.label.entries = [] → ∃ t, exec (requestInstr r p args) s = .next t ∧
      SameButPorts s t ∧ Answered r p args .notFound [] quiet s t) ∧
    ∀ e rest, out.toNat ≤ 1 → s.label.entries = e :: rest →
      (e.roll ≠ roll → ∃ t, exec (requestInstr r p args) s = .next t ∧
        SameButPorts s t ∧ Answered r p args .notHead [] quiet s t) ∧
      (e.roll = roll → out.toNat = 1 → ∃ t, exec (requestInstr r p args) s = .next t ∧
        t = { s with ports := t.ports, roll := { s.roll with
          records := s.roll.records.set e.record { s.record e.record with
            attempts := min 255 ((s.record e.record).attempts + 1)
            revision := min 4294967295 ((s.record e.record).revision + 1) } } } ∧
        Answered r p args .ok [] quiet s t) ∧
      (e.roll = roll → out.toNat = 0 →
        ∃ (t : State) (raised : Raised) (more : List LabelEntry),
          exec (requestInstr r p args) s = .next t ∧ Answered r p args .ok [] raised s t ∧
          t.label.entries = rest ++ more ∧ more.length ≤ 1 ∧
          (t.label.entries ≠ [] → Has raised .quality .label) ∧ t.web = s.web ∧ t.map = s.map ∧
          (journalSlot s = none → (t.record e.record).state = .free ∧
            t.label.unjournalled = min 65535 (s.label.unjournalled + 1)) ∧
          (∀ n, journalSlot s = some n → (s.dir n).count < 1024 →
            (t.record e.record).state = .labelled ∧ t.label.unjournalled = s.label.unjournalled ∧
            (t.record e.record).journal.isSome = true ∧
            (t.record e.record).outcome =
              some (if r = .labelSkip then .skipped else .applied) ∧
            (t.record e.record).attempts =
              if r = .labelSkip then (s.record e.record).attempts
              else min 255 ((s.record e.record).attempts + 1)))

/-! ### The order store (10) -/

/-- STORE_EN (R168): a fall changes its level alone, and so does a rise with no head waiting for it; a rise starts a
waiting write or erase, which takes its content then (R172, R150, R162). An end of an operation that is not the one
in progress changes nothing (the model's own convention, assumption 1). -/
def Obligations.StoreEvents : Prop :=
  (∀ s : State, exec .storeEnFall s = .next { s with store := { s.store with enabled := false } }) ∧
  (∀ s : State, s.store.head ≠ .waiting →
    exec .storeEnRise s = .next { s with store := { s.store with enabled := true } }) ∧
  (∀ (s : State) (op : StoreOp) (rest : List StoreOp),
    s.store.head = .waiting → s.store.queue = op :: rest → op.isRead = false →
    (∀ n, op.slot? = some n → (s.dir n).state ≠ .degraded) →
    (∀ n i, op = .journalAppend n i → (s.dir n).count < 1024) →
    ∃ (t : State) (c : InFlight), exec .storeEnRise s = .next t ∧
      t = { s with
        roll := { s.roll with records := t.roll.records }
        shade := { s.shade with batches := t.shade.batches }
        store := { s.store with enabled := true, sampled := true, head := .running c } } ∧
      (∀ n w, op = .headerWrite n w →
        ∃ h, c = .header h ∧ h.order = (s.dir n).order ∧ h.run = (s.dir n).run ∧
          h.count = (s.dir n).count ∧ h.full = (s.dir n).full) ∧
      (∀ n k b, op = .batchWrite n k → s.batch k = some b → c = .batch { b with save := .saved }) ∧
      (∀ n i, op = .journalAppend n i → (t.record i).journal = some .writing ∧
        ∃ x, c = .summary x ∧ x.roll = (s.record i).saleNumber.getD 0 ∧ x.run = (s.record i).run ∧
          x.grade = (s.record i).grade.getD .first ∧ x.batch = (s.record i).batch ∧
          x.flags = (s.record i).flags)) ∧
  ∀ (s : State) (f : BitVec 5) (v : Bool),
    ((∀ c, inProgress s ≠ some (.geometryRead, c)) → exec (.geometryReadEnd f) s = .next s) ∧
    ((∀ n c, inProgress s ≠ some (.slotRead n, c)) → exec (.slotReadEnd v) s = .next s) ∧
    ((∀ n k p c, inProgress s ≠ some (.journalRead n k p, c)) → exec (.journalReadEnd v) s = .next s) ∧
    ((∀ n w c, inProgress s ≠ some (.headerWrite n w, c)) → exec (.headerWriteEnd v) s = .next s) ∧
    ((∀ n r c, inProgress s ≠ some (.recipeWrite n r, c)) → exec (.recipeWriteEnd v) s = .next s) ∧
    ((∀ n k c, inProgress s ≠ some (.batchWrite n k, c)) → exec (.batchWriteEnd v) s = .next s) ∧
    ((∀ n i c, inProgress s ≠ some (.journalAppend n i, c)) →
      exec (.journalAppendEnd v) s = .next s) ∧
    ((∀ g c, inProgress s ≠ some (.geometryWrite g, c)) → exec (.geometryWriteEnd v) s = .next s) ∧
    ((∀ n c, inProgress s ≠ some (.slotErase n, c)) → exec (.slotEraseEnd v) s = .next s)

/-- The writes and the erase that end completed (R170, R172, R173, R179): the store holds what was written, every
other record of the store is as it was, a journal append adds 1 to its slot's count and frees its roll record, an
erase leaves its entry EMPTY, and the CLOSED header takes the line to NO_ORDER (R16). A read that stood behind the
ended operation is then in progress (R167, R168). -/
def Obligations.WritesComplete : Prop :=
  (∀ (s : State) (n : Fin 4) (w : StoredState) (h : Header) (rest : List StoreOp),
    s.store.queue = .headerWrite n w :: rest → s.store.head = .running (.header h) →
    ∃ t, exec (.headerWriteEnd true) s = .next t ∧ StoreSide s t ∧ NextReadStarts rest t ∧
      t.nv = { s.nv with
        slots := s.nv.slots.set n { s.nv.slots.get n with header := .written h } } ∧
      (s.line.state = .closing → s.line.closing = .header → w = .closed →
        t.line.state = .noOrder ∧ t.line.order = none ∧ t.line.run = none ∧ t.line.slot = none)) ∧
  (∀ (s : State) (n : Fin 4) (r : Recipe) (c : InFlight) (rest : List StoreOp),
    s.store.queue = .recipeWrite n r :: rest → s.store.head = .running c →
    ∃ t, exec (.recipeWriteEnd true) s = .next t ∧ StoreSide s t ∧ NextReadStarts rest t ∧
      t.nv = { s.nv with
        slots := s.nv.slots.set n { s.nv.slots.get n with recipe := .written r } }) ∧
  (∀ (s : State) (n : Fin 4) (k : Nat) (b : Batch) (rest : List StoreOp),
    s.store.queue = .batchWrite n k :: rest → s.store.head = .running (.batch b) →
    ∃ t, exec (.batchWriteEnd true) s = .next t ∧ StoreSide s t ∧ NextReadStarts rest t ∧
      t.nv = { s.nv with
        slots := s.nv.slots.set n { s.nv.slots.get n with batches := (t.nv.slots.get n).batches } } ∧
      cellAt (t.nv.slots.get n).batches b.number = .written b ∧
      (∀ j, j ≠ b.number →
        cellAt (t.nv.slots.get n).batches j = cellAt (s.nv.slots.get n).batches j) ∧
      ∀ x, rest = [] → (∀ y ∈ s.shade.batches, y.save ≠ .unsaved) → s.batch b.number = some x →
        t.batch b.number =
          some { x with save := if x.save = .writing then .saved else x.save }) ∧
  (∀ (s : State) (n : Fin 4) (i : Fin 24) (x : Summary) (rest : List StoreOp),
    s.store.queue = .journalAppend n i :: rest → s.store.head = .running (.summary x) →
    cellAt (s.nv.slots.get n).journal (s.dir n).count = .blank → (s.dir n).count < 1024 →
    ∃ t, exec (.journalAppendEnd true) s = .next t ∧ StoreSide s t ∧ NextReadStarts rest t ∧
      t.nv = { s.nv with
        slots := s.nv.slots.set n { s.nv.slots.get n with journal := (t.nv.slots.get n).journal } } ∧
      cellAt (t.nv.slots.get n).journal (s.dir n).count = .written x ∧
      (∀ j, j ≠ (s.dir n).count →
        cellAt (t.nv.slots.get n).journal j = cellAt (s.nv.slots.get n).journal j) ∧
      (t.dir n).count = (s.dir n).count + 1 ∧ (t.record i).state = .free) ∧
  (∀ (s : State) (g : Geometry) (c : InFlight) (rest : List StoreOp),
    s.store.queue = .geometryWrite g :: rest → s.store.head = .running c →
    ∃ t, exec (.geometryWriteEnd true) s = .next t ∧ StoreSide s t ∧ NextReadStarts rest t ∧
      t.nv = { s.nv with geometry := .written g } ∧ t.line.geometryValid = s.line.geometryValid) ∧
  ∀ (s : State) (n : Fin 4) (c : InFlight) (rest : List StoreOp),
    s.store.queue = .slotErase n :: rest → s.store.head = .running c →
    ∃ t, exec (.slotEraseEnd true) s = .next t ∧ StoreSide s t ∧ NextReadStarts rest t ∧
      t.nv = { s.nv with
        slots := s.nv.slots.set n { header := .blank, recipe := .blank, batches := [], journal := [] } } ∧
      (t.dir n).order = none ∧ (t.dir n).run = 0 ∧ (t.dir n).count = 0 ∧ (t.dir n).full = false ∧
      (t.dir n).erasePending = false ∧ (s.line.state ≠ .closing → (t.dir n).state = .empty)

/-- The writes and the erase that end failed (R170, R150, R162, R173, R179): the slot becomes DEGRADED and keeps the
rest of its entry, STORE is raised on every port, and what was to be written does not stand in the store; a batch
of the open order is UNSAVED, a roll record is freed, an erase is no longer pending and leaves every record of its slot
as it was or blank. A geometry write that fails clears geometry validity and leaves the working geometry (R18). An
append that finds its position written fails and writes nothing. -/
def Obligations.WritesFail : Prop :=
  (∀ (s : State) (n : Fin 4) (w : StoredState) (h : Header) (rest : List StoreOp),
    s.store.queue = .headerWrite n w :: rest → s.store.head = .running (.header h) →
    ∃ t, exec (.headerWriteEnd false) s = .next t ∧ StoreSide s t ∧ Degraded n s t ∧
      (t.nv.slots.get n).header ≠ .written h ∧
      t.nv.slots.get n = { s.nv.slots.get n with header := (t.nv.slots.get n).header } ∧
      (s.line.state = .closing → s.line.closing = .header → w = .closed →
        t.line.state = .noOrder ∧ t.line.order = none)) ∧
  (∀ (s : State) (n : Fin 4) (r : Recipe) (c : InFlight) (rest : List StoreOp),
    s.store.queue = .recipeWrite n r :: rest → s.store.head = .running c →
    ∃ t, exec (.recipeWriteEnd false) s = .next t ∧ StoreSide s t ∧ Degraded n s t ∧
      (t.nv.slots.get n).recipe ≠ .written r ∧
      t.nv.slots.get n = { s.nv.slots.get n with recipe := (t.nv.slots.get n).recipe }) ∧
  (∀ (s : State) (n : Fin 4) (k : Nat) (b : Batch) (rest : List StoreOp),
    s.store.queue = .batchWrite n k :: rest → s.store.head = .running (.batch b) →
    ∃ t, exec (.batchWriteEnd false) s = .next t ∧ StoreSide s t ∧ Degraded n s t ∧
      cellAt (t.nv.slots.get n).batches b.number ≠ .written b ∧
      (∀ j, j ≠ b.number →
        cellAt (t.nv.slots.get n).batches j = cellAt (s.nv.slots.get n).batches j) ∧
      ∀ x, s.line.slot = some n → s.batch b.number = some x →
        t.batch b.number = some { x with save := .unsaved }) ∧
  (∀ (s : State) (n : Fin 4) (i : Fin 24) (x : Summary) (v : Bool) (rest : List StoreOp),
    s.store.queue = .journalAppend n i :: rest → s.store.head = .running (.summary x) →
    ∃ t, exec (.journalAppendEnd v) s = .next t ∧
      (cellAt (s.nv.slots.get n).journal (s.dir n).count ≠ .blank →
        StoreSide s t ∧ Degraded n s t ∧ t.nv = s.nv ∧ (t.record i).state = .free) ∧
      (cellAt (s.nv.slots.get n).journal (s.dir n).count = .blank → v = false →
        StoreSide s t ∧ Degraded n s t ∧ (t.record i).state = .free ∧
        cellAt (t.nv.slots.get n).journal (s.dir n).count ≠ .written x ∧
        ∀ j, j ≠ (s.dir n).count →
          cellAt (t.nv.slots.get n).journal j = cellAt (s.nv.slots.get n).journal j)) ∧
  (∀ (s : State) (g : Geometry) (c : InFlight) (rest : List StoreOp),
    s.store.queue = .geometryWrite g :: rest → s.store.head = .running c →
    ∃ t, exec (.geometryWriteEnd false) s = .next t ∧ StoreSide s t ∧
      t.line.geometryValid = false ∧ t.nv = { s.nv with geometry := t.nv.geometry } ∧
      t.nv.geometry ≠ .written g ∧
      ∀ p, (t.port p).pending &&& Notice.store.bit = Notice.store.bit) ∧
  ∀ (s : State) (n : Fin 4) (c : InFlight) (rest : List StoreOp),
    s.store.queue = .slotErase n :: rest → s.store.head = .running c →
    ∃ t, exec (.slotEraseEnd false) s = .next t ∧ StoreSide s t ∧ Degraded n s t ∧
      (t.dir n).erasePending = false ∧
      ((t.nv.slots.get n).header = (s.nv.slots.get n).header ∨ (t.nv.slots.get n).header = .blank) ∧
      ((t.nv.slots.get n).recipe = (s.nv.slots.get n).recipe ∨ (t.nv.slots.get n).recipe = .blank) ∧
      (∀ x, x ∈ (t.nv.slots.get n).batches → x ∈ (s.nv.slots.get n).batches) ∧
      ∀ x, x ∈ (t.nv.slots.get n).journal → x ∈ (s.nv.slots.get n).journal

/-- The end of the start-up read, the store queue holding it alone and the line in NO_ORDER (R166, R18). A verified
geometry record that keeps the distance order is loaded and valid; any other leaves the working geometry and is not
valid. A verified header sets its entry, a blank one reads as EMPTY, one that fails to verify gives DEGRADED; the
journal count is the number of positions up to the first blank one. STORE is raised everywhere exactly when the
geometry record or a header fails to verify. Erase pending is no in each entry, as R166 says, also where a SLOT_ERASE
could be queued, which is the model's choice (assumption 49) and is not met with the read alone in the queue. -/
def Obligations.GeometryReadEnds : Prop :=
  ∀ (s : State) (f : BitVec 5) (c : InFlight),
    s.store.queue = [.geometryRead] → s.store.head = .running c → s.line.state = .noOrder →
    s.line.slot = none → BanksCanonical s →
    ∃ t, exec (.geometryReadEnd f) s = .next t ∧
      t = { s with
        geometry := t.geometry, line := { s.line with geometryValid := t.line.geometryValid }
        store := t.store, ports := t.ports } ∧
      t.store.queue = [] ∧ t.store.head = .absent ∧
      (∀ g, f.getLsbD 0 = false → s.nv.geometry = .written g →
        1 ≤ g.dE → g.dE < g.dQ → g.dQ < g.dW → g.dW ≤ g.dK → g.dK ≤ 2000000 →
        t.geometry = g ∧ t.line.geometryValid = true) ∧
      ((f.getLsbD 0 = true ∨ ∀ g, s.nv.geometry = .written g →
          ¬ (1 ≤ g.dE ∧ g.dE < g.dQ ∧ g.dQ < g.dW ∧ g.dW ≤ g.dK ∧ g.dK ≤ 2000000)) →
        t.geometry = s.geometry ∧ t.line.geometryValid = false) ∧
      (∀ n : Fin 4,
        (∀ j, j < (t.dir n).count → cellAt (s.nv.slots.get n).journal j ≠ .blank) ∧
        cellAt (s.nv.slots.get n).journal (t.dir n).count = .blank ∧
        (t.dir n).erasePending = false ∧
        (∀ h, f.getLsbD (n.val + 1) = false → (s.nv.slots.get n).header = .written h →
          (t.dir n).order = h.order ∧ (t.dir n).run = h.run ∧ (t.dir n).full = h.full ∧
          (t.dir n).state = (match h.state with
            | .empty => .empty
            | .active => .active
            | .closed => .closed)) ∧
        (f.getLsbD (n.val + 1) = false → (s.nv.slots.get n).header = .blank →
          (t.dir n).state = .empty ∧ (t.dir n).order = none ∧ (t.dir n).run = 0 ∧
          (t.dir n).full = false) ∧
        (f.getLsbD (n.val + 1) = true ∨ (s.nv.slots.get n).header = .broken →
          (t.dir n).state = .degraded ∧ (t.dir n).order = none ∧ (t.dir n).run = 0 ∧
          (t.dir n).full = false)) ∧
      ((f.getLsbD 0 = true ∨ s.nv.geometry = .broken ∨
          ∃ n : Fin 4, f.getLsbD (n.val + 1) = true ∨ (s.nv.slots.get n).header = .broken) →
        Noticed (everywhere .store) s t) ∧
      (f.getLsbD 0 = false → s.nv.geometry ≠ .broken →
        (∀ n : Fin 4, f.getLsbD (n.val + 1) = false ∧ (s.nv.slots.get n).header ≠ .broken) →
        t.ports = s.ports)

/-- The end of the SLOT_READ of an order that is being resumed (R4, R5, R174). One that verifies brings the slot's
recipe, its batches as SAVED, the highest journalled roll number and a run number one above the header's; one that
fails degrades the slot and brings the default recipe, no batch, the number 0 and a run number one above the
directory's, which is the model's choice where no header was read (assumption 13). Either way the run state is
initialised, the line is in SETUP, ORDER_OPEN is answered, and the ACTIVE header of a slot that is not DEGRADED stands
in the store queue. -/
def Obligations.SlotReadEnds : Prop :=
  (∀ (s : State) (n : Fin 4) (c : InFlight) (p : Port) (code : Byte) (h : Header) (r : Recipe)
      (bs : List Batch) (xs : List Summary) (later : Cells Summary),
    s.store.queue = [.slotRead n] → s.store.head = .running c → s.line.state = .opening →
    (s.port p).request = some ⟨code, .opening, false⟩ →
    (∀ q, q ≠ p → ∀ k d, (s.port q).request ≠ some ⟨k, .opening, d⟩) →
    (s.nv.slots.get n).header = .written h → (s.nv.slots.get n).recipe = .written r →
    (s.nv.slots.get n).batches = bs.mapIdx (fun j b => (j + 1, StoreCell.written b)) →
    (∀ j b, bs[j]? = some b → b.number = j + 1) →
    (s.nv.slots.get n).journal = xs.mapIdx (fun j x => (j, StoreCell.written x)) ++ later →
    xs.length = max (s.dir n).count h.count →
    ∃ t, exec (.slotReadEnd true) s = .next t ∧
      RunInitialised s.geometry.dK (xs.foldl (fun m x => max m x.roll) 0) t ∧
      t.line.state = .setup ∧ t.line.order = s.line.order ∧ t.line.slot = s.line.slot ∧
      t.line.journalling = true ∧ t.line.run = some (min 255 (h.run + 1)) ∧ t.recipe = r ∧
      t.shade.batches = bs.map (fun b => { b with save := .saved }) ∧ t.geometry = s.geometry ∧
      t.nv = s.nv ∧
      (t.port p).request = none ∧
      (t.port p).response =
        some ⟨0x10#8, if (s.dir n).state = .degraded then .okDegraded else .ok, []⟩ ∧
      (s.line.slot = some n → (s.dir n).state ≠ .degraded →
        t.store.queue = [.headerWrite n .active] ∧
        t.dir n = { s.dir n with state := .active, run := min 255 (h.run + 1) }) ∧
      ((s.dir n).state = .degraded → t.dir n = s.dir n)) ∧
  ∀ (s : State) (n : Fin 4) (c : InFlight) (p : Port) (code : Byte) (v : Bool),
    s.store.queue = [.slotRead n] → s.store.head = .running c → s.line.state = .opening →
    (s.port p).request = some ⟨code, .opening, false⟩ →
    (∀ q, q ≠ p → ∀ k d, (s.port q).request ≠ some ⟨k, .opening, d⟩) →
    s.line.slot = some n →
    (v = false ∨ (s.nv.slots.get n).header = .broken ∨ (s.nv.slots.get n).recipe = .broken) →
    ∃ t, exec (.slotReadEnd v) s = .next t ∧
      RunInitialised s.geometry.dK 0 t ∧ Degraded n s t ∧
      t.line.state = .setup ∧ t.line.order = s.line.order ∧ t.line.journalling = true ∧
      t.line.run = some (min 255 ((s.dir n).run + 1)) ∧ t.recipe = Recipe.default ∧
      t.shade.batches = [] ∧ t.nv = s.nv ∧ t.store.queue = [] ∧
      (t.port p).request = none ∧ (t.port p).response = some ⟨0x10#8, .okDegraded, []⟩

/-- JOURNAL_READ (R175). A slot outside 1 to 4 and a position at or above the slot's journal count are refused with
RANGE, a FIFO set toward the part with FIFO_DIR, a full store queue with BUSY; otherwise the read joins the store
queue and the request waits. Its end gives the port the 26-byte summary to be read, with the result 1; of a blank
position nothing, with the result 0; and of one that fails to verify nothing, with the result 0 and the slot
DEGRADED. A port reset meanwhile leaves all of that but the answer, which is discarded (R194). -/
def Obligations.JournalReads : Prop :=
  (∀ (p : Port) (args : List Byte) (s : State), Admitted .journalRead p args s →
    (¬ (1 ≤ natOfBytes (args.take 1) ∧ natOfBytes (args.take 1) ≤ 4) →
      ∃ t, exec (.journalRead p args) s = .next t ∧
        SameButPorts s t ∧ Answered .journalRead p args .range [] quiet s t) ∧
    ∀ (n : Fin 4) (k : Nat), natOfBytes (args.take 1) = n.val + 1 → natOfBytes (args.drop 1) = k →
      ((s.dir n).count ≤ k → ∃ t, exec (.journalRead p args) s = .next t ∧
        SameButPorts s t ∧ Answered .journalRead p args .range [] quiet s t) ∧
      (k < (s.dir n).count → (s.port p).toStation = false →
        ∃ t, exec (.journalRead p args) s = .next t ∧
          SameButPorts s t ∧ Answered .journalRead p args .fifoDir [] quiet s t) ∧
      (k < (s.dir n).count → (s.port p).toStation = true → 8 ≤ s.store.queue.length →
        ∃ t, exec (.journalRead p args) s = .next t ∧
          SameButPorts s t ∧ Answered .journalRead p args .busy [] quiet s t) ∧
      (k < (s.dir n).count → (s.port p).toStation = true → s.store.queue.length < 8 →
        ∃ t, exec (.journalRead p args) s = .next t ∧
          t = { s with store := t.store, ports := t.ports } ∧
          Handled .journalRead p args (some ⟨0x54#8, .journal, false⟩) none quiet s t ∧
          t.store.directory = s.store.directory ∧
          t.store.queue = s.store.queue ++ [.journalRead n k p] ∧
          (s.store.queue = [] → t.store.head = .running .nothing) ∧
          (s.store.queue ≠ [] → t.store.head = s.store.head))) ∧
  ∀ (s : State) (n : Fin 4) (k : Nat) (p : Port) (code : Byte) (c : InFlight) (rest : List StoreOp)
      (v d : Bool),
    s.store.queue = .journalRead n k p :: rest → s.store.head = .running c →
    (s.port p).request = some ⟨code, .journal, d⟩ → (s.port p).toStation = true →
    ∃ t, exec (.journalReadEnd v) s = .next t ∧ StoreSide s t ∧ NextReadStarts rest t ∧ t.nv = s.nv ∧
      (t.port p).fifo = (s.port p).fifo ∧
      (∀ x : Summary, v = true → cellAt (s.nv.slots.get n).journal k = .written x →
        (t.port p).response = (s.port p).response ∧
        (t.port p).request = some ⟨code, .words
          (bytesOfNat 4 x.roll ++ bytesOfNat 4 x.length ++ bytesOfNat 4 x.fault
            ++ (match x.mean with
              | some m => bytesOfInt 2 m.l ++ bytesOfInt 2 m.a ++ bytesOfInt 2 m.b
              | none => List.replicate 6 0#8)
            ++ [BitVec.ofNat 8 x.run]
            ++ (match x.grade with
              | .first => [0#8, 0#8]
              | .reject cause => [1#8, cause.code])
            ++ [BitVec.ofNat 8 (x.batch.getD 0), x.flags, if x.outcome = .applied then 1#8 else 2#8,
              if x.mean = none then 0#8 else 1#8, 0#8]) [1#8], d⟩) ∧
      (v = true → cellAt (s.nv.slots.get n).journal k = .blank →
        (t.port p).request = none ∧
        (t.port p).response = if d then (s.port p).response else some ⟨code, .ok, [0#8]⟩) ∧
      (v = false ∨ cellAt (s.nv.slots.get n).journal k = .broken → Degraded n s t ∧
        (t.port p).request = none ∧
        (t.port p).response = if d then (s.port p).response else some ⟨code, .ok, [0#8]⟩)

/-! ### Orders (01) -/

/-- ORDER_OPEN (R3, R4). A number outside 1 to 999,999 or a flag above 1 is refused with RANGE, and any open with BUSY
while the start-up read stands. The lowest slot that holds the number and is not erase pending is resumed: the line
is in OPENING with its SLOT_READ queued and the request waiting. With none, the lowest EMPTY slot is claimed, with
its header and recipe writes queued; with none, an order opens unstored or is refused with NO_SLOT. A store queue
that lacks the places an open needs refuses it with BUSY. -/
def Obligations.OrderOpens : Prop :=
  ∀ (p : Port) (args : List Byte) (s : State) (order flag : Nat),
    Admitted .orderOpen p args s → order = natOfBytes (args.take 4) → flag = natOfBytes (args.drop 4) →
    (order = 0 ∨ 999999 < order ∨ 1 < flag → ∃ t, exec (.orderOpen p args) s = .next t ∧
      SameButPorts s t ∧ Answered .orderOpen p args .range [] quiet s t) ∧
    (1 ≤ order → order ≤ 999999 → flag ≤ 1 →
      (.geometryRead ∈ s.store.queue → ∃ t, exec (.orderOpen p args) s = .next t ∧
        SameButPorts s t ∧ Answered .orderOpen p args .busy [] quiet s t) ∧
      (.geometryRead ∉ s.store.queue →
        (∀ n, (s.dir n).state ≠ .empty → (s.dir n).order = some order → (s.dir n).erasePending = false →
          (∀ m, m < n → (s.dir m).state = .empty ∨ (s.dir m).order ≠ some order ∨
            (s.dir m).erasePending = true) →
          (8 ≤ s.store.queue.length → ∃ t, exec (.orderOpen p args) s = .next t ∧
            SameButPorts s t ∧ Answered .orderOpen p args .busy [] quiet s t) ∧
          (s.store.queue.length < 8 → s.line.holds = ⟨false, false, false⟩ →
            ∃ t, exec (.orderOpen p args) s = .next t ∧
              t = { s with
                line := { s.line with state := .opening, order := some order, slot := some n }
                store := t.store, ports := t.ports } ∧
              t.store.queue = s.store.queue ++ [.slotRead n] ∧
              (s.store.queue = [] → t.store.head = .running .nothing) ∧
              Handled .orderOpen p args (some ⟨0x10#8, .opening, false⟩) none (everywhere .line) s t)) ∧
        ((∀ n, (s.dir n).state = .empty ∨ (s.dir n).order ≠ some order ∨
            (s.dir n).erasePending = true) →
          (∀ n, (s.dir n).state = .empty → (s.dir n).erasePending = false →
            (∀ m, m < n → (s.dir m).state ≠ .empty ∨ (s.dir m).erasePending = true) →
            (7 ≤ s.store.queue.length → ∃ t, exec (.orderOpen p args) s = .next t ∧
              SameButPorts s t ∧ Answered .orderOpen p args .busy [] quiet s t) ∧
            (s.store.queue.length < 7 → ∃ t, exec (.orderOpen p args) s = .next t ∧
              RunInitialised s.geometry.dK 0 t ∧ t.recipe = Recipe.default ∧ t.shade.batches = [] ∧
              t.geometry = s.geometry ∧ t.nv = s.nv ∧
              t.line.state = .setup ∧ t.line.order = some order ∧ t.line.run = some 1 ∧
              t.line.slot = some n ∧ t.line.journalling = true ∧
              t.store.queue = s.store.queue ++ [.headerWrite n .active, .recipeWrite n Recipe.default] ∧
              t.dir n = ⟨.active, some order, 1, 0, false, false⟩ ∧
              (∀ m, m ≠ n → t.dir m = s.dir m) ∧
              (t.port p).request = none ∧ (t.port p).response = some ⟨0x10#8, .ok, []⟩ ∧
              ∀ q, (t.port q).pending &&& Notice.line.bit = Notice.line.bit)) ∧
          ((∀ n, (s.dir n).state ≠ .empty ∨ (s.dir n).erasePending = true) →
            (flag = 1 → ∃ t, exec (.orderOpen p args) s = .next t ∧
              RunInitialised s.geometry.dK 0 t ∧ t.recipe = Recipe.default ∧ t.shade.batches = [] ∧
              t.geometry = s.geometry ∧ t.nv = s.nv ∧ t.store = s.store ∧
              t.line.state = .setup ∧ t.line.order = some order ∧ t.line.run = some 1 ∧
              t.line.slot = none ∧ t.line.journalling = false ∧
              (t.port p).request = none ∧ (t.port p).response = some ⟨0x10#8, .ok, []⟩ ∧
              ∀ q, (t.port q).pending &&& Notice.line.bit = Notice.line.bit) ∧
            (flag = 0 → ∃ t, exec (.orderOpen p args) s = .next t ∧
              SameButPorts s t ∧ Answered .orderOpen p args .noSlot [] quiet s t)))))

/-- ORDER_CLOSE (R15, R16, R132). The tune and the break flag are gone, every channel is disabled, the register
channels are OFF with no trim outstanding and the nip is PARKED. A winding segment ends at the greater of the knife
frame position and S by a closing cut, with the strobe asserted at once, CUT raised and no confirm point, and the
line waits in CLOSING; that ORDER_END takes the place of a CUT_FAIL is the model's choice (assumption 35). With no
segment the map and the samples are emptied; CLOSING lasts while a record is not FREE or the store works, then queues
the CLOSED header of a slot, and an unstored order ends at once. -/
def Obligations.OrderCloses : Prop :=
  ∀ (p : Port) (s : State), Admitted .orderClose p [] s →
    ∃ (t : State) (raised : Raised), exec (.orderClose p []) s = .next t ∧
      Answered .orderClose p [] .ok [] raised s t ∧ (∀ q, Has raised q .line) ∧
      t.web = s.web ∧ t.recipe = s.recipe ∧ t.geometry = s.geometry ∧ t.nv = s.nv ∧
      t.line.breakFlag = false ∧ t.line.stagedTune = none ∧ t.capture.frame = none ∧
      (∀ ch, (t.channel ch).enabled = false ∧ (t.channel ch).window = .closed) ∧
      (∀ k, (t.unit k).state = .off ∧ (t.unit k).outstanding = none) ∧
      t.emboss.channel.state = .off ∧ t.emboss.channel.outstanding = none ∧
      t.emboss.nip.state = .parked ∧ t.clock.state = .halted ∧ t.rpo = false ∧ t.roll.plan = none ∧
      (∀ q, s.roll.plan = some q →
        t.line.state = .closing ∧ t.line.order = s.line.order ∧ t.cutStrobe = true ∧
        Has raised .winder .cut ∧ exec .confirmTimeout t = .next t ∧
        (∃ x, t.roll.cuts.getLast? = some x ∧ x.number = min 4294967295 (s.roll.cutCount + 1) ∧
          x.state = .awaiting ∧ x.ending = q.record ∧ x.kindNext = none ∧ x.cause = .orderEnd ∧
          x.cut = max ((s.web.w : Int) - s.geometry.dK) q.start ∧ x.strobe = s.web.w ∧
          x.confirm = none) ∧
        ∀ i, q.record = some i →
          (t.record i).state = .cutWait ∧ (t.record i).endCause = some .orderEnd ∧
          (t.record i).stop = some (max ((s.web.w : Int) - s.geometry.dK) q.start)) ∧
      (s.roll.plan = none → t.map.entries = [] ∧ t.shade.queue = [] ∧
        t.roll.records = s.roll.records ∧
        ((∃ i, (s.record i).state ≠ .free) ∨ s.store.queue ≠ [] →
          t.line.state = .closing ∧ t.line.order = s.line.order ∧ t.store = s.store) ∧
        ((∀ i, (s.record i).state = .free) → s.store.queue = [] →
          (s.line.slot = none → t.line.state = .noOrder ∧ t.line.order = none ∧ t.line.run = none ∧
            t.store = s.store) ∧
          (∀ n, s.line.slot = some n → (s.dir n).state = .degraded →
            t.line.state = .noOrder ∧ t.line.order = none ∧ t.line.slot = none ∧
            t.store.queue = []) ∧
          (∀ n, s.line.slot = some n → (s.dir n).state ≠ .degraded →
            t.line.state = .closing ∧ t.store.queue = [.headerWrite n .closed] ∧
            t.dir n = { s.dir n with state := .closed })))

/-- RECIPE_WRITE (R7, R8), on the bytes of the whole words in the FIFO. A FIFO set toward the station is refused with
FIFO_DIR, any other number of bytes than 128 with FIFO_COUNT, and a full store queue with BUSY when the order has a
slot. Otherwise every field, clamped to its range with the two offsets against R − 1, is in force; the write of the
record is queued for a slot; and the answer reports the clamped identifiers. -/
def Obligations.RecipeWritten : Prop :=
  ∀ (p : Port) (s : State) (bytes : List Byte), Admitted .recipeWrite p [] s →
    bytes = (s.port p).fifo.take (2 * ((s.port p).fifo.length / 2)) →
    ((s.port p).toStation = true → ∃ t, exec (.recipeWrite p []) s = .next t ∧
      SameButPorts s t ∧ Answered .recipeWrite p [] .fifoDir [] quiet s t) ∧
    ((s.port p).toStation = false → bytes.length ≠ 128 → ∃ t, exec (.recipeWrite p []) s = .next t ∧
      SameButPorts s t ∧ Answered .recipeWrite p [] .fifoCount [] quiet s t) ∧
    ((s.port p).toStation = false → bytes.length = 128 →
      (s.line.slot ≠ none → 8 ≤ s.store.queue.length → ∃ t, exec (.recipeWrite p []) s = .next t ∧
        SameButPorts s t ∧ Answered .recipeWrite p [] .busy [] quiet s t) ∧
      (s.line.slot = none ∨ s.store.queue.length < 8 →
        ∃ (t : State) (raised : Raised), exec (.recipeWrite p []) s = .next t ∧
          t = { s with recipe := t.recipe, store := t.store, ports := t.ports } ∧
          (∀ row ∈ recipeRows, t.recipe.byId row.id =
            max row.lo (min (if row.hiFromRepeat then t.recipe.repeatLength - 1 else row.hi)
              ((Recipe.ofBytes bytes).byId row.id))) ∧
          Answered .recipeWrite p [] .ok
            (clampBytes ((recipeRows.map FieldRow.id).filter
              (fun id => decide (t.recipe.byId id ≠ (Recipe.ofBytes bytes).byId id)))) raised s t ∧
          (s.line.slot = none → t.store = s.store) ∧
          (∀ n, s.line.slot = some n → (s.dir n).state ≠ .degraded ∨ s.store.queue ≠ [] →
            t.store.queue = s.store.queue ++ [.recipeWrite n t.recipe])))

/-- RECIPE_TUNE (R12, R8), on the bytes of the whole words in the FIFO, `ids` being the set bits of the mask. The
FIFO's direction, its count and a bit that is no soft field are refused in that order with FIFO_DIR, FIFO_COUNT and
RANGE. An empty mask has no effect. In STOPPED each present field takes its clamped value at once and no other field
changes; in RUN the staged tune holds the clamped values, and beside them what was staged for fields not present. That
FIFO_COUNT ranks before RANGE, and that an empty mask is answered with the one result byte 0, is the model's choice
(assumption 36). -/
def Obligations.RecipeTuned : Prop :=
  ∀ (p : Port) (s : State) (bytes : List Byte) (ids : List Nat), Admitted .recipeTune p [] s →
    bytes = (s.port p).fifo.take (2 * ((s.port p).fifo.length / 2)) →
    ids = (List.range 64).filter (fun n => (natOfBytes (bytes.take 8)).testBit n) →
    ((s.port p).toStation = true → ∃ t, exec (.recipeTune p []) s = .next t ∧
      SameButPorts s t ∧ Answered .recipeTune p [] .fifoDir [] quiet s t) ∧
    ((s.port p).toStation = false → bytes.length < 8 ∨ bytes.length ≠ 8 + 2 * ids.length →
      ∃ t, exec (.recipeTune p []) s = .next t ∧
        SameButPorts s t ∧ Answered .recipeTune p [] .fifoCount [] quiet s t) ∧
    ((s.port p).toStation = false → 8 ≤ bytes.length → bytes.length = 8 + 2 * ids.length →
      (∀ id ∈ ids, (∀ row ∈ recipeRows, row.id = id → row.soft = false) →
        ∃ t, exec (.recipeTune p []) s = .next t ∧
          SameButPorts s t ∧ Answered .recipeTune p [] .range [] quiet s t) ∧
      ((∀ id ∈ ids, ∃ row ∈ recipeRows, row.id = id ∧ row.soft = true) →
        ∃ (t : State) (clamped : List Nat), exec (.recipeTune p []) s = .next t ∧
          Answered .recipeTune p [] .ok (clampBytes clamped) quiet s t ∧ clamped.Sublist ids ∧
          t = { s with
            line := { s.line with stagedTune := t.line.stagedTune }, recipe := t.recipe
            register := { s.register with units := t.register.units }
            emboss := { s.emboss with channel := t.emboss.channel }, ports := t.ports } ∧
          (ids = [] → SameButPorts s t) ∧
          ∀ given value : Nat → Int,
            (∀ j id row, ids[j]? = some id → row ∈ recipeRows → row.id = id →
              given id = natOfBytes ((bytes.drop (8 + 2 * j)).take 2) ∧
              value id = max row.lo (min row.hi (given id))) →
            (∀ id ∈ ids, (id ∈ clamped ↔ value id ≠ given id)) ∧
            (s.line.state = .stopped → ids ≠ [] → t.line.stagedTune = s.line.stagedTune ∧
              (∀ id ∈ ids, t.recipe.byId id = value id) ∧
              (∀ id, id ∉ ids → t.recipe.byId id = s.recipe.byId id) ∧
              ∀ k, t.unit k = { s.unit k with
                samples := (s.unit k).samples.drop
                  ((s.unit k).samples.length - t.recipe.filterDepth.toNat) }) ∧
            (s.line.state = .run → ids ≠ [] → t.recipe = s.recipe ∧ t.register = s.register ∧
              t.emboss = s.emboss ∧
              ∃ m, t.line.stagedTune = some m ∧ m.Pairwise (fun x y => x.1 < y.1) ∧
                (∀ id ∈ ids, m.find? (fun x => x.1 == id) = some (id, value id)) ∧
                ∀ id, id ≤ 50 → id ∉ ids →
                  m.find? (fun x => x.1 == id) =
                    (s.line.stagedTune.getD []).find? (fun x => x.1 == id))))

/-- GEOMETRY_WRITE (R17), on the bytes of the whole words in the FIFO. FIFO_DIR, FIFO_COUNT for any other number of
bytes than 50, and BUSY while the start-up read stands or the store queue is full. Clamped distances that break the
order D_E < D_Q < D_W ≤ D_K are refused with RANGE; which identifier the answer names then is the model's reading
(assumption 22). Otherwise the clamped record, its mask cut to eleven bits, is in use and valid, its write is queued,
and the answer reports the clamped identifiers. -/
def Obligations.GeometryWritten : Prop :=
  ∀ (p : Port) (s : State) (bytes : List Byte) (given clamped : Nat → Nat),
    Admitted .geometryWrite p [] s →
    bytes = (s.port p).fifo.take (2 * ((s.port p).fifo.length / 2)) →
    (∀ id, given id = natOfBytes ((bytes.drop (4 * (id - 1))).take 4)) →
    (∀ id, clamped id = if id ≤ 4 then max 1 (min (given id) 2000000) else min (given id) 200000) →
    ((s.port p).toStation = true → ∃ t, exec (.geometryWrite p []) s = .next t ∧
      SameButPorts s t ∧ Answered .geometryWrite p [] .fifoDir [] quiet s t) ∧
    ((s.port p).toStation = false → bytes.length ≠ 50 → ∃ t, exec (.geometryWrite p []) s = .next t ∧
      SameButPorts s t ∧ Answered .geometryWrite p [] .fifoCount [] quiet s t) ∧
    ((s.port p).toStation = false → bytes.length = 50 →
      (.geometryRead ∈ s.store.queue ∨ 8 ≤ s.store.queue.length →
        ∃ t, exec (.geometryWrite p []) s = .next t ∧
          SameButPorts s t ∧ Answered .geometryWrite p [] .busy [] quiet s t) ∧
      (.geometryRead ∉ s.store.queue → s.store.queue.length < 8 →
        (¬ (clamped 1 < clamped 2 ∧ clamped 2 < clamped 3 ∧ clamped 3 ≤ clamped 4) →
          ∃ t, exec (.geometryWrite p []) s = .next t ∧ SameButPorts s t ∧
            Answered .geometryWrite p [] .range
              [if clamped 2 ≤ clamped 1 then 2#8 else if clamped 3 ≤ clamped 2 then 3#8 else 4#8]
              quiet s t) ∧
        (clamped 1 < clamped 2 → clamped 2 < clamped 3 → clamped 3 ≤ clamped 4 →
          ∃ (t : State) (raised : Raised), exec (.geometryWrite p []) s = .next t ∧
            t = { s with
              line := { s.line with geometryValid := true }, geometry := t.geometry
              store := t.store, ports := t.ports } ∧
            t.geometry.dE = clamped 1 ∧ t.geometry.dQ = clamped 2 ∧ t.geometry.dW = clamped 3 ∧
            t.geometry.dK = clamped 4 ∧ (∀ k, t.geometry.settle.get k = clamped (k.val + 5)) ∧
            t.geometry.settleEmboss = clamped 12 ∧
            t.geometry.polarity = BitVec.ofNat 16 (natOfBytes (bytes.drop 48)) &&& 0x07FF#16 ∧
            t.store.queue = s.store.queue ++ [.geometryWrite t.geometry] ∧
            t.store.directory = s.store.directory ∧
            Answered .geometryWrite p [] .ok
              (clampBytes ((List.range 13).filter (fun id => decide (1 ≤ id ∧ clamped id ≠ given id))))
              raised s t)))

/-- START and STOP (R9, R10, R11). The first check that fails refuses START with INVALID, its number and for check 1
the lowest unit that fails it, and nothing changes. A START taken from SETUP enables the channels in use, sends the
units in use and an enabled emboss channel to ACQUIRE, starts the clock and begins waste at 0; from a break it begins
waste at the knife frame position; otherwise only the line state changes. The waste is limited when the point at which
its end is forced lies ahead of w (R24, R115). STOP stops the line and discards the staged tune. -/
def Obligations.StartAndStop : Prop :=
  (∀ (p : Port) (s : State) (n : Nat), Admitted .start p [] s → 1 ≤ n → n ≤ 9 →
    (∀ m, 1 ≤ m → m < n → startCheck s m) → ¬ startCheck s n →
    ∃ (t : State) (u : Byte), exec (.start p []) s = .next t ∧ SameButPorts s t ∧
      Answered .start p [] .invalid [BitVec.ofNat 8 n, u] quiet s t ∧ (n ≠ 1 → u = 0#8) ∧
      (n = 1 → ∃ k : Fin 7, u = BitVec.ofNat 8 (k.val + 1) ∧ (k.val : Int) + 1 < s.recipe.unitCount ∧
        s.recipe.repeatLength / 2 ≤ mag (s.recipe.unitOffset k) + s.recipe.window ∧
        ∀ j : Fin 7, j < k → (j.val : Int) + 1 < s.recipe.unitCount →
          mag (s.recipe.unitOffset j) + s.recipe.window < s.recipe.repeatLength / 2)) ∧
  (∀ (p : Port) (s : State), Admitted .start p [] s → (∀ n, startCheck s n) →
    ∃ (t : State) (raised : Raised), exec (.start p []) s = .next t ∧
      Answered .start p [] .ok [] raised s t ∧ (∀ q, Has raised q .line) ∧ t.line.state = .run ∧
      (s.line.state = .setup →
        t = { s with
          line := { s.line with state := .run, holds := t.line.holds }, clock := t.clock
          capture := t.capture, register := { s.register with units := t.register.units }
          emboss := t.emboss, map := t.map, roll := t.roll, ports := t.ports } ∧
        t.channel .mk0 = { s.channel .mk0 with enabled := true } ∧
        t.channel .mkw = { s.channel .mkw with enabled := true } ∧
        (∀ k : Fin 7, t.channel (.unit k) =
          if (k.val : Int) + 1 < s.recipe.unitCount then { s.channel (.unit k) with enabled := true }
          else s.channel (.unit k)) ∧
        (∀ k : Fin 7, (k.val : Int) + 1 < s.recipe.unitCount → (t.unit k).state = .acquire) ∧
        (∀ k : Fin 7, s.recipe.unitCount ≤ (k.val : Int) + 1 → t.unit k = s.unit k) ∧
        (s.recipe.embossEnableField = 1 →
          t.channel .mke = { s.channel .mke with enabled := true } ∧
          t.channel .idx = { s.channel .idx with enabled := true } ∧
          t.emboss.channel.state = .acquire ∧ t.emboss.nip.state = .opened) ∧
        (s.recipe.embossEnableField ≠ 1 → t.channel .mke = s.channel .mke ∧
          t.channel .idx = s.channel .idx ∧ t.emboss = s.emboss ∧ t.map = s.map) ∧
        t.clock = { s.clock with
          state := .running, phase := 0, origin := s.web.w, k0 := none, measured := []
          stretch := none, stretchOver := false, previousKey := none, lastCoast := none } ∧
        ∃ q, t.roll.plan = some q ∧ q.kind = .waste ∧ q.start = 0 ∧ q.stop = none ∧
          q.phase = .winding ∧ q.following = none ∧
          (q.limited = true ↔ (s.web.w : Int) < 2000000 + s.geometry.dK - s.recipe.cutLead) ∧
          (∀ i, q.record = some i → (s.record i).state = .free ∧ (t.record i).state = .winding) ∧
          (q.record = none → ∀ i, (s.record i).state ≠ .free)) ∧
      (s.line.state = .stopped → s.line.breakFlag = false →
        t = { s with line := { s.line with state := .run, holds := t.line.holds }, ports := t.ports }) ∧
      (s.line.state = .stopped → s.line.breakFlag = true →
        t = { s with
          line := { s.line with state := .run, breakFlag := false, holds := t.line.holds }
          roll := t.roll, ports := t.ports } ∧
        ∃ q, t.roll.plan = some q ∧ q.kind = .waste ∧
          q.start = (s.web.w : Int) - s.geometry.dK ∧ q.stop = none ∧ q.phase = .winding ∧
          (q.limited = true ↔ s.recipe.cutLead < 2000000))) ∧
  ∀ (p : Port) (s : State), Admitted .stop p [] s →
    ∃ (t : State) (raised : Raised), exec (.stop p []) s = .next t ∧
      t = { s with
        line := { s.line with
          state := .stopped, breakFlag := false, stagedTune := none, holds := t.line.holds }
        ports := t.ports } ∧
      Answered .stop p [] .ok [] raised s t ∧ ∀ q, Has raised q .line

/-! ### The purge sequence, watches and requests in general (10, 11) -/

/-- The purge sequence (R177, R178) and CLEAR_PROTECT (R180): the three steps with no mistake, the mistakes in the
order of the table of R177, each of which abandons the sequence, sets PROTECT and raises it, and the PURGE_COMMIT that
a full store queue refuses with BUSY, which keeps the progress. CLEAR_PROTECT ends with the flag clear. -/
def Obligations.PurgeSequence : Prop :=
  (∀ (p : Port) (args : List Byte) (s : State), Admitted .purgeBegin p args s →
    ∃ t, exec (.purgeBegin p args) s = .next t ∧ SameButPorts s t ∧
      (¬ (1 ≤ natOfBytes args ∧ natOfBytes args ≤ 4) →
        Purged .purgeBegin p args .range .nothing true quiet s t) ∧
      ∀ n : Fin 4, natOfBytes args = n.val + 1 →
        ((s.port p).purge ≠ .nothing ∨ s.line.slot = some n →
          Purged .purgeBegin p args .state .nothing true quiet s t) ∧
        ((s.port p).purge = .nothing → s.line.slot ≠ some n →
          Purged .purgeBegin p args .ok (.begun n) false quiet s t)) ∧
  (∀ (p : Port) (args : List Byte) (s : State), Admitted .purgeConfirm p args s →
    ∃ t, exec (.purgeConfirm p args) s = .next t ∧ SameButPorts s t ∧
      ((∀ n, (s.port p).purge ≠ .begun n) →
        Purged .purgeConfirm p args .state .nothing true quiet s t) ∧
      ∀ n : Fin 4, (s.port p).purge = .begun n →
        (natOfBytes args = 255 - (n.val + 1) →
          Purged .purgeConfirm p args .ok (.confirmed n) false quiet s t) ∧
        (natOfBytes args ≠ 255 - (n.val + 1) →
          Purged .purgeConfirm p args .invalid .nothing true quiet s t)) ∧
  (∀ (p : Port) (args : List Byte) (s : State), Admitted .purgeCommit p args s →
    (¬ (1 ≤ natOfBytes args ∧ natOfBytes args ≤ 4) → ∃ t, exec (.purgeCommit p args) s = .next t ∧
      SameButPorts s t ∧ Purged .purgeCommit p args .range .nothing true quiet s t) ∧
    ∀ n : Fin 4, natOfBytes args = n.val + 1 →
      ((∀ m, (s.port p).purge ≠ .confirmed m) → ∃ t, exec (.purgeCommit p args) s = .next t ∧
        SameButPorts s t ∧ Purged .purgeCommit p args .state .nothing true quiet s t) ∧
      (∀ m, (s.port p).purge = .confirmed m → m ≠ n → ∃ t, exec (.purgeCommit p args) s = .next t ∧
        SameButPorts s t ∧ Purged .purgeCommit p args .invalid .nothing true quiet s t) ∧
      ((s.port p).purge = .confirmed n → s.line.slot = some n →
        ∃ t, exec (.purgeCommit p args) s = .next t ∧
          SameButPorts s t ∧ Purged .purgeCommit p args .state .nothing true quiet s t) ∧
      ((s.port p).purge = .confirmed n → s.line.slot ≠ some n →
        ((s.dir n).erasePending = true → ∃ t, exec (.purgeCommit p args) s = .next t ∧
          SameButPorts s t ∧ Purged .purgeCommit p args .ok .nothing false quiet s t) ∧
        ((s.dir n).erasePending = false → 8 ≤ s.store.queue.length →
          ∃ t, exec (.purgeCommit p args) s = .next t ∧
            SameButPorts s t ∧ Purged .purgeCommit p args .busy (.confirmed n) false quiet s t) ∧
        ((s.dir n).erasePending = false → s.store.queue.length < 8 →
          (s.dir n).state ≠ .degraded ∨ s.store.queue ≠ [] →
          ∃ (t : State) (raised : Raised), exec (.purgeCommit p args) s = .next t ∧
            t = { s with store := t.store, ports := t.ports } ∧
            t.store.queue = s.store.queue ++ [.slotErase n] ∧
            t.dir n = { s.dir n with erasePending := true } ∧ (∀ m, m ≠ n → t.dir m = s.dir m) ∧
            Purged .purgeCommit p args .ok .nothing false raised s t))) ∧
  ∀ (p : Port) (s : State), Admitted .clearProtect p [] s →
    ∃ t, exec (.clearProtect p []) s = .next t ∧ SameButPorts s t ∧ OthersKept p s t ∧
      t.port p = { s.port p with
        response := some ⟨0x53#8, .ok, []⟩, purge := .nothing, protect := false
        pending := (s.port p).pending
          ||| (if (s.port p).purge = .nothing then 0#16 else Notice.protect.bit)
        sdo := s.summary p :: List.replicate 2 0#8 }

/-- WATCH_SET and WATCH_REACHED (R192): a position of 0 makes the watch absent, one above w stands, one at or below w
is reached at once; a watch that is reached is gone and raises WATCH on its own port. That WATCH_REACHED changes
nothing before is the model's own convention (assumption 1). -/
def Obligations.Watches : Prop :=
  (∀ (p : Port) (args : List Byte) (s : State) (x : Nat), Admitted .watchSet p args s →
    x = natOfBytes args →
    ∃ t, exec (.watchSet p args) s = .next t ∧ SameButPorts s t ∧ OthersKept p s t ∧
      t.port p = { portAfter .watchSet args none (some ⟨0x58#8, .ok, []⟩)
          (if 0 < x ∧ x ≤ s.web.w then Notice.watch.bit else 0#16) (s.summary p) (s.port p) with
        watch := if s.web.w < x then some x else none }) ∧
  ∀ (p : Port) (s : State),
    (∀ x, (s.port p).watch = some x → x ≤ s.web.w →
      ∃ t, exec (.watchReached p) s = .next t ∧ SameButPorts s t ∧ OthersKept p s t ∧
        t.port p = { s.port p with
          watch := none, pending := (s.port p).pending ||| Notice.watch.bit }) ∧
    ((∀ x, (s.port p).watch = some x → s.web.w < x) → exec (.watchReached p) s = .next s)

/-- How every request is checked (R2, R183): a busy port discards it unexamined with the overrun flag; then the role
refuses it with ROLE, the line state with STATE, a wrong argument length with RANGE, in this order. A purge step
refused with STATE gives up the progress without PROTECT (R176). A code outside the role table is refused with ROLE,
and is a purge mistake while the progress is not none (R177). Nothing outside the port changes. That a purge step of a
wrong length keeps the progress and PROTECT is the model's choice (assumption 24), and so is that every line state but
OPENING admits NIP_CLOSED and NIP_OPENED (assumption 60); that REQUEST_DISCARDED on a port
that is not busy changes nothing is its own convention (assumption 1). -/
def Obligations.RequestsChecked : Prop :=
  (∀ (r : Req) (p : Port) (args : List Byte) (s : State),
    ∃ t, exec (requestInstr r p args) s = .next t ∧
      (¬ Open p s → SameButPorts s t ∧ OthersKept p s t ∧
        t.port p = { s.port p with
          overrun := true, sdo := s.summary p :: List.replicate (args.length + 2) 0#8 }) ∧
      (Open p s → p ∉ r.role.ports → SameButPorts s t ∧ Answered r p args .role [] quiet s t) ∧
      (Open p s → p ∈ r.role.ports → s.line.state ∉ r.role.admitted →
        SameButPorts s t ∧ OthersKept p s t ∧
        t.port p = { portAfter r args none (some ⟨r.role.code, .state, []⟩) 0#16 (s.summary p)
            (s.port p) with purge := .nothing }) ∧
      (Open p s → p ∈ r.role.ports → s.line.state ∈ r.role.admitted → args.length ≠ r.role.length →
        SameButPorts s t ∧ Answered r p args .range [] quiet s t)) ∧
  (∀ (p : Port) (code : Byte) (args : List Byte) (s : State), code ∉ roleCodes →
    ∃ t, exec (.requestUnknownCode p code args) s = .next t ∧ SameButPorts s t ∧ OthersKept p s t ∧
      (¬ Open p s → t.port p = { s.port p with
        overrun := true, sdo := s.summary p :: List.replicate (args.length + 2) 0#8 }) ∧
      (Open p s → t.port p = { s.port p with
        response := some ⟨code, .role, []⟩, purge := .nothing
        protect := (s.port p).protect || (s.port p).purge != .nothing
        pending := (s.port p).pending
          ||| (if (s.port p).purge = .nothing then 0#16 else Notice.protect.bit)
        sdo := s.summary p :: List.replicate (args.length + 2) 0#8 })) ∧
  ∀ (p : Port) (args : List Byte) (s : State),
    (Open p s → exec (.requestDiscarded p args) s = .next s) ∧
    (¬ Open p s → ∃ t, exec (.requestDiscarded p args) s = .next t ∧
      SameButPorts s t ∧ OthersKept p s t ∧
      t.port p = { s.port p with
        overrun := true, sdo := s.summary p :: List.replicate (args.length + 2) 0#8 })

/-! ### The other accesses of a port (11) -/

/-- The accesses that are no requests and no FIFO accesses each change their own port alone: a response read of the
whole frame empties the slot (R185), a status read clears the overrun and frame flags (R186), a clear and a mask write
(R191), a nibble write (R193), and an unknown or cut short access, which sets the frame flag (R182). A read that ends
before its first byte changes nothing. A notice read, for which the table has no command (assumption 31), returns the
pending set and then the mask (R182). That the status shows an unpaired byte in TO_PART alone is the model's choice
(assumption 37). -/
def Obligations.PortAccesses : Prop :=
  (∀ (p : Port) (count : Nat) (s : State), ∃ t, exec (.responseRead p count) s = .next t ∧
    SameButPorts s t ∧ OthersKept p s t ∧
    ((s.port p).response = none →
      t.port p = { s.port p with sdo := s.summary p :: [0x00#8, 0xFF#8].take count }) ∧
    ∀ r, (s.port p).response = some r →
      t.port p = { s.port p with
        response := if r.result.length + 3 ≤ count then none else some r
        sdo := s.summary p ::
          ([r.code, r.status.code, BitVec.ofNat 8 r.result.length] ++ r.result).take count }) ∧
  (∀ (p : Port) (count : Nat) (s : State), ∃ t, exec (.statusRead p count) s = .next t ∧
    SameButPorts s t ∧ OthersKept p s t ∧
    ∃ flags progress : Byte,
      t.port p = { s.port p with
        overrun := if count = 0 then (s.port p).overrun else false
        frame := if count = 0 then (s.port p).frame else false
        sdo := s.summary p ::
          ([flags] ++ bytesOfNat 2 (s.port p).fifo.length ++ [progress]).take count } ∧
      flags.getLsbD 0 = (s.port p).overrun ∧ flags.getLsbD 1 = (s.port p).frame ∧
      flags.getLsbD 2 = (s.port p).protect ∧
      flags.getLsbD 3 = decide ((s.port p).toStation = false ∧ (s.port p).fifo.length % 2 = 1) ∧
      progress.toNat = (match (s.port p).purge with
        | .nothing => 0
        | .begun n => 1 + 16 * (n.val + 1)
        | .confirmed n => 2 + 16 * (n.val + 1))) ∧
  (∀ (p : Port) (x : Word16) (s : State),
    (∃ t, exec (.noticeClear p x) s = .next t ∧ SameButPorts s t ∧ OthersKept p s t ∧
      t.port p = { s.port p with
        pending := (s.port p).pending &&& ~~~x, sdo := [s.summary p, 0#8, 0#8] }) ∧
    (∃ t, exec (.noticeMaskWrite p x) s = .next t ∧ SameButPorts s t ∧ OthersKept p s t ∧
      t.port p = { s.port p with mask := x, sdo := [s.summary p, 0#8, 0#8] })) ∧
  (∀ (p : Port) (count : Nat) (s : State), SameButPorts s (noticeRead p count s) ∧
    OthersKept p s (noticeRead p count s) ∧
    (noticeRead p count s).port p = { s.port p with
      sdo := s.summary p ::
        (bytesOfNat 2 (s.port p).pending.toNat ++ bytesOfNat 2 (s.port p).mask.toNat).take count }) ∧
  ∀ (p : Port) (x : Byte) (k : FixedAccess) (s : State),
    (∃ t, exec (.stationFlagNibbleWrite p x) s = .next t ∧ SameButPorts s t ∧ OthersKept p s t ∧
      t.port p = { s.port p with nibble := x.extractLsb' 0 4, sdo := [s.summary p, 0#8] }) ∧
    (12 < x.toNat ∨ x.toNat = 0 →
      ∃ t, exec (.accessByteInvalid p x) s = .next t ∧ SameButPorts s t ∧ OthersKept p s t ∧
        t.port p = { s.port p with frame := true, sdo := [s.summary p] }) ∧
    ∃ t, exec (.transactionCutShort p k) s = .next t ∧ SameButPorts s t ∧ OthersKept p s t ∧
      t.port p = { s.port p with frame := true, sdo := [s.summary p] }

/-- The FIFO (R187, R188, R189). In TO_PART the bytes join the tail up to 256 and the rest are lost with the overrun
flag; in TO_STATION bytes leave the head, and a read of an empty FIFO returns 0 and sets the flag. The next word of a
request's records joins the tail when two bytes of room stand free, and with the last one the request ends OK. A
flush and a turn empty the FIFO and end such a request with FIFO_DIR; a direction byte that names the present
direction does nothing, and one above 1 sets the frame flag. The word whose writing falls beside a flush, the next one
of the ended request with room for it, can still be written into the emptied FIFO, until a turn, a second flush or the
next word of another request. That this is the one word the flush leaves, that a turn leaves none, and that both end
such a request also before its first word is the model's choice (assumption 20), and that FIFO_WORD_WRITTEN changes
nothing with no word to write is its own convention (assumption 1). -/
def Obligations.FifoAccesses : Prop :=
  (∀ (p : Port) (bytes : List Byte) (s : State), (s.port p).fifo.length ≤ 256 →
    ∃ t, exec (.fifoData p bytes) s = .next t ∧ SameButPorts s t ∧ OthersKept p s t ∧
      ((s.port p).toStation = false → t.port p = { s.port p with
        fifo := ((s.port p).fifo ++ bytes).take 256
        overrun := (s.port p).overrun || decide (256 < (s.port p).fifo.length + bytes.length)
        sdo := s.summary p :: List.replicate bytes.length 0#8 }) ∧
      ((s.port p).toStation = true → t.port p = { s.port p with
        fifo := (s.port p).fifo.drop bytes.length
        overrun := (s.port p).overrun || decide ((s.port p).fifo.length < bytes.length)
        sdo := s.summary p ::
          ((s.port p).fifo ++ List.replicate bytes.length 0#8).take bytes.length })) ∧
  (∀ (p : Port) (s : State),
    (((∀ code rest result d, (s.port p).request ≠ some ⟨code, .words rest result, d⟩) ∧
        (s.port p).late = []) ∨
      254 < (s.port p).fifo.length → exec (.fifoWordWritten p) s = .next s) ∧
    ((∀ code rest result d, (s.port p).request ≠ some ⟨code, .words rest result, d⟩) →
      (s.port p).late ≠ [] → (s.port p).fifo.length ≤ 254 →
      ∃ t, exec (.fifoWordWritten p) s = .next t ∧ SameButPorts s t ∧ OthersKept p s t ∧
        t.port p = { s.port p with
          fifo := (s.port p).fifo ++ (s.port p).late.take 2, late := [] }) ∧
    ∀ code rest result d, (s.port p).request = some ⟨code, .words rest result, d⟩ →
      (s.port p).fifo.length ≤ 254 →
      ∃ t, exec (.fifoWordWritten p) s = .next t ∧ SameButPorts s t ∧ OthersKept p s t ∧
        (2 < rest.length → t.port p = { s.port p with
          fifo := (s.port p).fifo ++ rest.take 2, late := []
          request := some ⟨code, .words (rest.drop 2) result, d⟩ }) ∧
        (rest.length ≤ 2 → t.port p = { s.port p with
          fifo := (s.port p).fifo ++ rest, late := [], request := none
          response := if d then (s.port p).response else some ⟨code, .ok, result⟩ })) ∧
  (∀ (p : Port) (s : State), ∃ t, exec (.fifoFlush p) s = .next t ∧
    SameButPorts s t ∧ OthersKept p s t ∧
    ((∀ code rest result d, (s.port p).request ≠ some ⟨code, .words rest result, d⟩) →
      t.port p = { s.port p with fifo := [], late := [], sdo := [s.summary p] }) ∧
    ∀ code rest result d, (s.port p).request = some ⟨code, .words rest result, d⟩ →
      t.port p = { s.port p with
        fifo := [], sdo := [s.summary p], request := none
        late := if (s.port p).fifo.length ≤ 254 then rest.take 2 else []
        response := if d then (s.port p).response else some ⟨code, .fifoDir, []⟩ }) ∧
  ∀ (p : Port) (x : Byte) (s : State), ∃ t, exec (.fifoDirection p x) s = .next t ∧
    SameButPorts s t ∧ OthersKept p s t ∧
    (1 < x.toNat → t.port p = { s.port p with frame := true, sdo := [s.summary p, 0#8] }) ∧
    (x.toNat ≤ 1 → (s.port p).toStation = decide (x.toNat = 1) →
      t.port p = { s.port p with sdo := [s.summary p, 0#8] }) ∧
    (x.toNat ≤ 1 → (s.port p).toStation ≠ decide (x.toNat = 1) →
      ((∀ code rest result d, (s.port p).request ≠ some ⟨code, .words rest result, d⟩) →
        t.port p = { s.port p with
          fifo := [], late := [], toStation := decide (x.toNat = 1), sdo := [s.summary p, 0#8] }) ∧
      ∀ code rest result d, (s.port p).request = some ⟨code, .words rest result, d⟩ →
        t.port p = { s.port p with
          fifo := [], late := [], toStation := decide (x.toNat = 1), sdo := [s.summary p, 0#8], request := none
          response := if d then (s.port p).response else some ⟨code, .fifoDir, []⟩ })

/-- The view pointer (R190): a load sets the pointer and prefetches its word; a data read returns the prefetched word
and then the words at the following addresses, low byte first, advances by the whole words returned, holds at FFFFh,
and prefetches the word at the pointer it ends with. Words 0, 5, 6 and 25 of the line status block, at addresses 0000h
on, are the line state's code, the web position and the station flag nibbles. -/
def Obligations.ViewReads : Prop :=
  (∀ (p : Port) (x : Word16) (s : State), ∃ t, exec (.viewPointerLoad p x) s = .next t ∧
    SameButPorts s t ∧ OthersKept p s t ∧
    t.port p = { s.port p with
      pointer := x, prefetch := viewWord s x, sdo := [s.summary p, 0#8, 0#8] }) ∧
  (∀ (p : Port) (count : Nat) (s : State) (place : Nat → Word16) (shown : Nat → Word16),
    (∀ j, place j = BitVec.ofNat 16 (min 65535 ((s.port p).pointer.toNat + j))) →
    shown 0 = (s.port p).prefetch → (∀ j, 0 < j → shown j = viewWord s (place j)) →
    ∃ t, exec (.viewDataRead p count) s = .next t ∧ SameButPorts s t ∧ OthersKept p s t ∧
      t.port p = { s.port p with
        pointer := place (count / 2), prefetch := shown (count / 2)
        sdo := s.summary p :: (List.range count).map (fun j =>
          if j % 2 = 0 then (shown (j / 2)).extractLsb' 0 8 else (shown (j / 2)).extractLsb' 8 8) }) ∧
  ∀ s : State,
    viewWord s 0x0000#16 = BitVec.ofNat 16 s.line.state.code ∧
    viewWord s 0x0005#16 = BitVec.ofNat 16 s.web.w ∧
    viewWord s 0x0006#16 = BitVec.ofNat 16 (s.web.w / 65536) ∧
    viewWord s 0x0019#16 =
      (s.port .quality).nibble ++ (s.port .winder).nibble ++ (s.port .emboss).nibble
        ++ (s.port .press).nibble

/-! ### Limits that every step keeps -/

/-- Every step keeps the capacities: 256 bytes in a FIFO (R187), 8 operations in the store queue (R167), and the
lengths of the measured repeats, transport errors, cut records, shade samples and label entries. -/
def Obligations.CapacitiesKept : Prop :=
  ∀ s t : State, step s = .next t →
    (FifosFit s → FifosFit t) ∧ (StoreQueueFits s → StoreQueueFits t) ∧ (ListsFit s → ListsFit t)

/-- Every step keeps the web map at no more than 48 entries in non-decreasing order of start (R94). -/
def Obligations.MapKept : Prop :=
  ∀ s t : State, step s = .next t → MapFits s.map → MapFits t.map

/-- Every step keeps the batch positions and the journal positions of each slot in canonical form, so that equal
contents of the order store are equal data. -/
def Obligations.BanksKept : Prop :=
  ∀ s t : State, step s = .next t → BanksCanonical s → BanksCanonical t

/-- The state after reset keeps every limit. -/
def Obligations.ResetWithinLimits : Prop := Within State.reset
end

