-- ==== Sys2Proof/Decode.lean ====
section
/-!
DEFINITION. The words of the table. No row of spec/opcode_table.json gives bits: the commands reach the part as
port transactions and line events, not as instruction words.
-/

namespace Sys2Proof

/-- The command that a word spells: none, since no row of the table gives bits. -/
def decodeTableWord (_nbits _w : Nat) : Option Instr := none

end Sys2Proof
end

