-- ==== Sys2Proof/Laws/State.lean ====
section
/-!
SUPPORT. The small lemmas of the state: reads of a port after a write of one, and, for each operation that acts on
the ports alone, one lemma per other field of the state.
-/

namespace Sys2Proof.Machine

/-! ### Ports -/

@[simp] theorem port_eq (s : State) (p : Port) : s.port p = s.ports.get p := rfl

@[simp] theorem ports_get_set (x : Ports) (p q : Port) (v : PortState) :
    (x.set p v).get q = if q = p then v else x.get q := by
  cases p <;> cases q <;> simp [Ports.set, Ports.get]

@[simp] theorem modifyPort_ports (s : State) (p : Port) (f : PortState → PortState) :
    (s.modifyPort p f).ports = s.ports.set p (f (s.ports.get p)) := rfl

@[simp] theorem raise_ports (s : State) (p : Port) (n : Notice) :
    (s.raise p n).ports
      = s.ports.set p { s.ports.get p with pending := (s.ports.get p).pending ||| n.bit } := rfl

@[simp] theorem raiseAll_get (s : State) (n : Notice) (q : Port) :
    (s.raiseAll n).ports.get q
      = { s.ports.get q with pending := (s.ports.get q).pending ||| n.bit } := by
  cases q <;> simp [State.raiseAll]

@[simp] theorem shiftOut_ports (s : State) (p : Port) (bytes : List Byte) :
    (s.shiftOut p bytes).ports = s.ports.set p { s.ports.get p with sdo := s.summary p :: bytes } := rfl

theorem respond_get (s : State) (p q : Port) (code : Byte) (status : Status) (result : List Byte)
    (h : ∀ e, (s.ports.get p).request = some e → e.discard = false) :
    (respond p code status result s).ports.get q
      = if q = p then
          { s.ports.get p with request := none, response := some ⟨code, status, result⟩ }
        else s.ports.get q := by
  unfold respond
  cases hr : (s.ports.get p).request with
  | none =>
    by_cases hq : q = p
    · subst hq; simp [hr]
    · simp [hr, hq]
  | some e => by_cases hq : q = p <;> simp [hr, hq, h e hr]

@[simp] theorem keepExecuting_get (s : State) (p q : Port) (code : Byte) (w : Waiting) :
    (keepExecuting p code w s).ports.get q
      = if q = p then { s.ports.get p with request := some ⟨code, w, false⟩ } else s.ports.get q := by
  simp [keepExecuting]

/-! ### Tables -/

@[simp] theorem table_get_set {α : Type} {n : Nat} (t : Table α n) (i j : Fin n) (a : α) :
    (t.set i a).get j = if i = j then a else t.get j := by
  simp [Table.get, Table.set, List.getElem_set, Fin.ext_iff]

@[simp] theorem table_get_modify {α : Type} {n : Nat} (t : Table α n) (i j : Fin n) (f : α → α) :
    (t.modify i f).get j = if i = j then f (t.get i) else t.get j := by
  simp [Table.modify]

@[simp] theorem table_get_map {α β : Type} {n : Nat} (f : α → β) (t : Table α n) (i : Fin n) :
    (t.map f).get i = f (t.get i) := by
  simp [Table.get, Table.map]

@[simp] theorem table_get_replicate {α : Type} {n : Nat} (a : α) (i : Fin n) :
    (Table.replicate n a).get i = a := by
  simp [Table.get, Table.replicate]

theorem table_ext {α : Type} {n : Nat} (t u : Table α n) (h : ∀ i, t.get i = u.get i) : t = u := by
  obtain ⟨xs, hx⟩ := t
  obtain ⟨ys, hy⟩ := u
  have : xs = ys := by
    apply List.ext_getElem (by omega)
    intro k hk hk'
    exact h ⟨k, by omega⟩
  subst this; rfl

/-! ### Operations on the ports leave every other field -/

@[simp] theorem modifyPort_line (s : State) (p : Port) (f : PortState → PortState) : (s.modifyPort p f).line = s.line := rfl
@[simp] theorem modifyPort_recipe (s : State) (p : Port) (f : PortState → PortState) : (s.modifyPort p f).recipe = s.recipe := rfl
@[simp] theorem modifyPort_geometry (s : State) (p : Port) (f : PortState → PortState) : (s.modifyPort p f).geometry = s.geometry := rfl
@[simp] theorem modifyPort_web (s : State) (p : Port) (f : PortState → PortState) : (s.modifyPort p f).web = s.web := rfl
@[simp] theorem modifyPort_clock (s : State) (p : Port) (f : PortState → PortState) : (s.modifyPort p f).clock = s.clock := rfl
@[simp] theorem modifyPort_capture (s : State) (p : Port) (f : PortState → PortState) : (s.modifyPort p f).capture = s.capture := rfl
@[simp] theorem modifyPort_register (s : State) (p : Port) (f : PortState → PortState) : (s.modifyPort p f).register = s.register := rfl
@[simp] theorem modifyPort_emboss (s : State) (p : Port) (f : PortState → PortState) : (s.modifyPort p f).emboss = s.emboss := rfl
@[simp] theorem modifyPort_map (s : State) (p : Port) (f : PortState → PortState) : (s.modifyPort p f).map = s.map := rfl
@[simp] theorem modifyPort_roll (s : State) (p : Port) (f : PortState → PortState) : (s.modifyPort p f).roll = s.roll := rfl
@[simp] theorem modifyPort_shade (s : State) (p : Port) (f : PortState → PortState) : (s.modifyPort p f).shade = s.shade := rfl
@[simp] theorem modifyPort_label (s : State) (p : Port) (f : PortState → PortState) : (s.modifyPort p f).label = s.label := rfl
@[simp] theorem modifyPort_store (s : State) (p : Port) (f : PortState → PortState) : (s.modifyPort p f).store = s.store := rfl
@[simp] theorem modifyPort_nv (s : State) (p : Port) (f : PortState → PortState) : (s.modifyPort p f).nv = s.nv := rfl
@[simp] theorem modifyPort_fresh (s : State) (p : Port) (f : PortState → PortState) : (s.modifyPort p f).fresh = s.fresh := rfl
@[simp] theorem modifyPort_pending (s : State) (p : Port) (f : PortState → PortState) : (s.modifyPort p f).pending = s.pending := rfl

@[simp] theorem raise_line (s : State) (p : Port) (n : Notice) : (s.raise p n).line = s.line := rfl
@[simp] theorem raise_recipe (s : State) (p : Port) (n : Notice) : (s.raise p n).recipe = s.recipe := rfl
@[simp] theorem raise_geometry (s : State) (p : Port) (n : Notice) : (s.raise p n).geometry = s.geometry := rfl
@[simp] theorem raise_web (s : State) (p : Port) (n : Notice) : (s.raise p n).web = s.web := rfl
@[simp] theorem raise_clock (s : State) (p : Port) (n : Notice) : (s.raise p n).clock = s.clock := rfl
@[simp] theorem raise_capture (s : State) (p : Port) (n : Notice) : (s.raise p n).capture = s.capture := rfl
@[simp] theorem raise_register (s : State) (p : Port) (n : Notice) : (s.raise p n).register = s.register := rfl
@[simp] theorem raise_emboss (s : State) (p : Port) (n : Notice) : (s.raise p n).emboss = s.emboss := rfl
@[simp] theorem raise_map (s : State) (p : Port) (n : Notice) : (s.raise p n).map = s.map := rfl
@[simp] theorem raise_roll (s : State) (p : Port) (n : Notice) : (s.raise p n).roll = s.roll := rfl
@[simp] theorem raise_shade (s : State) (p : Port) (n : Notice) : (s.raise p n).shade = s.shade := rfl
@[simp] theorem raise_label (s : State) (p : Port) (n : Notice) : (s.raise p n).label = s.label := rfl
@[simp] theorem raise_store (s : State) (p : Port) (n : Notice) : (s.raise p n).store = s.store := rfl
@[simp] theorem raise_nv (s : State) (p : Port) (n : Notice) : (s.raise p n).nv = s.nv := rfl
@[simp] theorem raise_fresh (s : State) (p : Port) (n : Notice) : (s.raise p n).fresh = s.fresh := rfl
@[simp] theorem raise_pending (s : State) (p : Port) (n : Notice) : (s.raise p n).pending = s.pending := rfl

@[simp] theorem raiseAll_line (s : State) (n : Notice) : (s.raiseAll n).line = s.line := rfl
@[simp] theorem raiseAll_recipe (s : State) (n : Notice) : (s.raiseAll n).recipe = s.recipe := rfl
@[simp] theorem raiseAll_geometry (s : State) (n : Notice) : (s.raiseAll n).geometry = s.geometry := rfl
@[simp] theorem raiseAll_web (s : State) (n : Notice) : (s.raiseAll n).web = s.web := rfl
@[simp] theorem raiseAll_clock (s : State) (n : Notice) : (s.raiseAll n).clock = s.clock := rfl
@[simp] theorem raiseAll_capture (s : State) (n : Notice) : (s.raiseAll n).capture = s.capture := rfl
@[simp] theorem raiseAll_register (s : State) (n : Notice) : (s.raiseAll n).register = s.register := rfl
@[simp] theorem raiseAll_emboss (s : State) (n : Notice) : (s.raiseAll n).emboss = s.emboss := rfl
@[simp] theorem raiseAll_map (s : State) (n : Notice) : (s.raiseAll n).map = s.map := rfl
@[simp] theorem raiseAll_roll (s : State) (n : Notice) : (s.raiseAll n).roll = s.roll := rfl
@[simp] theorem raiseAll_shade (s : State) (n : Notice) : (s.raiseAll n).shade = s.shade := rfl
@[simp] theorem raiseAll_label (s : State) (n : Notice) : (s.raiseAll n).label = s.label := rfl
@[simp] theorem raiseAll_store (s : State) (n : Notice) : (s.raiseAll n).store = s.store := rfl
@[simp] theorem raiseAll_nv (s : State) (n : Notice) : (s.raiseAll n).nv = s.nv := rfl
@[simp] theorem raiseAll_fresh (s : State) (n : Notice) : (s.raiseAll n).fresh = s.fresh := rfl
@[simp] theorem raiseAll_pending (s : State) (n : Notice) : (s.raiseAll n).pending = s.pending := rfl

@[simp] theorem shiftOut_line (s : State) (p : Port) (bytes : List Byte) : (s.shiftOut p bytes).line = s.line := rfl
@[simp] theorem shiftOut_recipe (s : State) (p : Port) (bytes : List Byte) : (s.shiftOut p bytes).recipe = s.recipe := rfl
@[simp] theorem shiftOut_geometry (s : State) (p : Port) (bytes : List Byte) : (s.shiftOut p bytes).geometry = s.geometry := rfl
@[simp] theorem shiftOut_web (s : State) (p : Port) (bytes : List Byte) : (s.shiftOut p bytes).web = s.web := rfl
@[simp] theorem shiftOut_clock (s : State) (p : Port) (bytes : List Byte) : (s.shiftOut p bytes).clock = s.clock := rfl
@[simp] theorem shiftOut_capture (s : State) (p : Port) (bytes : List Byte) : (s.shiftOut p bytes).capture = s.capture := rfl
@[simp] theorem shiftOut_register (s : State) (p : Port) (bytes : List Byte) : (s.shiftOut p bytes).register = s.register := rfl
@[simp] theorem shiftOut_emboss (s : State) (p : Port) (bytes : List Byte) : (s.shiftOut p bytes).emboss = s.emboss := rfl
@[simp] theorem shiftOut_map (s : State) (p : Port) (bytes : List Byte) : (s.shiftOut p bytes).map = s.map := rfl
@[simp] theorem shiftOut_roll (s : State) (p : Port) (bytes : List Byte) : (s.shiftOut p bytes).roll = s.roll := rfl
@[simp] theorem shiftOut_shade (s : State) (p : Port) (bytes : List Byte) : (s.shiftOut p bytes).shade = s.shade := rfl
@[simp] theorem shiftOut_label (s : State) (p : Port) (bytes : List Byte) : (s.shiftOut p bytes).label = s.label := rfl
@[simp] theorem shiftOut_store (s : State) (p : Port) (bytes : List Byte) : (s.shiftOut p bytes).store = s.store := rfl
@[simp] theorem shiftOut_nv (s : State) (p : Port) (bytes : List Byte) : (s.shiftOut p bytes).nv = s.nv := rfl
@[simp] theorem shiftOut_fresh (s : State) (p : Port) (bytes : List Byte) : (s.shiftOut p bytes).fresh = s.fresh := rfl
@[simp] theorem shiftOut_pending (s : State) (p : Port) (bytes : List Byte) : (s.shiftOut p bytes).pending = s.pending := rfl

@[simp] theorem respond_line (s : State) (p : Port) (code : Byte) (status : Status) (result : List Byte) : (respond p code status result s).line = s.line := rfl
@[simp] theorem respond_recipe (s : State) (p : Port) (code : Byte) (status : Status) (result : List Byte) : (respond p code status result s).recipe = s.recipe := rfl
@[simp] theorem respond_geometry (s : State) (p : Port) (code : Byte) (status : Status) (result : List Byte) : (respond p code status result s).geometry = s.geometry := rfl
@[simp] theorem respond_web (s : State) (p : Port) (code : Byte) (status : Status) (result : List Byte) : (respond p code status result s).web = s.web := rfl
@[simp] theorem respond_clock (s : State) (p : Port) (code : Byte) (status : Status) (result : List Byte) : (respond p code status result s).clock = s.clock := rfl
@[simp] theorem respond_capture (s : State) (p : Port) (code : Byte) (status : Status) (result : List Byte) : (respond p code status result s).capture = s.capture := rfl
@[simp] theorem respond_register (s : State) (p : Port) (code : Byte) (status : Status) (result : List Byte) : (respond p code status result s).register = s.register := rfl
@[simp] theorem respond_emboss (s : State) (p : Port) (code : Byte) (status : Status) (result : List Byte) : (respond p code status result s).emboss = s.emboss := rfl
@[simp] theorem respond_map (s : State) (p : Port) (code : Byte) (status : Status) (result : List Byte) : (respond p code status result s).map = s.map := rfl
@[simp] theorem respond_roll (s : State) (p : Port) (code : Byte) (status : Status) (result : List Byte) : (respond p code status result s).roll = s.roll := rfl
@[simp] theorem respond_shade (s : State) (p : Port) (code : Byte) (status : Status) (result : List Byte) : (respond p code status result s).shade = s.shade := rfl
@[simp] theorem respond_label (s : State) (p : Port) (code : Byte) (status : Status) (result : List Byte) : (respond p code status result s).label = s.label := rfl
@[simp] theorem respond_store (s : State) (p : Port) (code : Byte) (status : Status) (result : List Byte) : (respond p code status result s).store = s.store := rfl
@[simp] theorem respond_nv (s : State) (p : Port) (code : Byte) (status : Status) (result : List Byte) : (respond p code status result s).nv = s.nv := rfl
@[simp] theorem respond_fresh (s : State) (p : Port) (code : Byte) (status : Status) (result : List Byte) : (respond p code status result s).fresh = s.fresh := rfl
@[simp] theorem respond_pending (s : State) (p : Port) (code : Byte) (status : Status) (result : List Byte) : (respond p code status result s).pending = s.pending := rfl

@[simp] theorem keepExecuting_line (s : State) (p : Port) (code : Byte) (waiting : Waiting) : (keepExecuting p code waiting s).line = s.line := rfl
@[simp] theorem keepExecuting_recipe (s : State) (p : Port) (code : Byte) (waiting : Waiting) : (keepExecuting p code waiting s).recipe = s.recipe := rfl
@[simp] theorem keepExecuting_geometry (s : State) (p : Port) (code : Byte) (waiting : Waiting) : (keepExecuting p code waiting s).geometry = s.geometry := rfl
@[simp] theorem keepExecuting_web (s : State) (p : Port) (code : Byte) (waiting : Waiting) : (keepExecuting p code waiting s).web = s.web := rfl
@[simp] theorem keepExecuting_clock (s : State) (p : Port) (code : Byte) (waiting : Waiting) : (keepExecuting p code waiting s).clock = s.clock := rfl
@[simp] theorem keepExecuting_capture (s : State) (p : Port) (code : Byte) (waiting : Waiting) : (keepExecuting p code waiting s).capture = s.capture := rfl
@[simp] theorem keepExecuting_register (s : State) (p : Port) (code : Byte) (waiting : Waiting) : (keepExecuting p code waiting s).register = s.register := rfl
@[simp] theorem keepExecuting_emboss (s : State) (p : Port) (code : Byte) (waiting : Waiting) : (keepExecuting p code waiting s).emboss = s.emboss := rfl
@[simp] theorem keepExecuting_map (s : State) (p : Port) (code : Byte) (waiting : Waiting) : (keepExecuting p code waiting s).map = s.map := rfl
@[simp] theorem keepExecuting_roll (s : State) (p : Port) (code : Byte) (waiting : Waiting) : (keepExecuting p code waiting s).roll = s.roll := rfl
@[simp] theorem keepExecuting_shade (s : State) (p : Port) (code : Byte) (waiting : Waiting) : (keepExecuting p code waiting s).shade = s.shade := rfl
@[simp] theorem keepExecuting_label (s : State) (p : Port) (code : Byte) (waiting : Waiting) : (keepExecuting p code waiting s).label = s.label := rfl
@[simp] theorem keepExecuting_store (s : State) (p : Port) (code : Byte) (waiting : Waiting) : (keepExecuting p code waiting s).store = s.store := rfl
@[simp] theorem keepExecuting_nv (s : State) (p : Port) (code : Byte) (waiting : Waiting) : (keepExecuting p code waiting s).nv = s.nv := rfl
@[simp] theorem keepExecuting_fresh (s : State) (p : Port) (code : Byte) (waiting : Waiting) : (keepExecuting p code waiting s).fresh = s.fresh := rfl
@[simp] theorem keepExecuting_pending (s : State) (p : Port) (code : Byte) (waiting : Waiting) : (keepExecuting p code waiting s).pending = s.pending := rfl

@[simp] theorem discardRequest_line (s : State) (p : Port) : (discardRequest p s).line = s.line := rfl
@[simp] theorem discardRequest_recipe (s : State) (p : Port) : (discardRequest p s).recipe = s.recipe := rfl
@[simp] theorem discardRequest_geometry (s : State) (p : Port) : (discardRequest p s).geometry = s.geometry := rfl
@[simp] theorem discardRequest_web (s : State) (p : Port) : (discardRequest p s).web = s.web := rfl
@[simp] theorem discardRequest_clock (s : State) (p : Port) : (discardRequest p s).clock = s.clock := rfl
@[simp] theorem discardRequest_capture (s : State) (p : Port) : (discardRequest p s).capture = s.capture := rfl
@[simp] theorem discardRequest_register (s : State) (p : Port) : (discardRequest p s).register = s.register := rfl
@[simp] theorem discardRequest_emboss (s : State) (p : Port) : (discardRequest p s).emboss = s.emboss := rfl
@[simp] theorem discardRequest_map (s : State) (p : Port) : (discardRequest p s).map = s.map := rfl
@[simp] theorem discardRequest_roll (s : State) (p : Port) : (discardRequest p s).roll = s.roll := rfl
@[simp] theorem discardRequest_shade (s : State) (p : Port) : (discardRequest p s).shade = s.shade := rfl
@[simp] theorem discardRequest_label (s : State) (p : Port) : (discardRequest p s).label = s.label := rfl
@[simp] theorem discardRequest_store (s : State) (p : Port) : (discardRequest p s).store = s.store := rfl
@[simp] theorem discardRequest_nv (s : State) (p : Port) : (discardRequest p s).nv = s.nv := rfl
@[simp] theorem discardRequest_fresh (s : State) (p : Port) : (discardRequest p s).fresh = s.fresh := rfl
@[simp] theorem discardRequest_pending (s : State) (p : Port) : (discardRequest p s).pending = s.pending := rfl

@[simp] theorem purgeMistake_line (s : State) (p : Port) : (purgeMistake p s).line = s.line := rfl
@[simp] theorem purgeMistake_recipe (s : State) (p : Port) : (purgeMistake p s).recipe = s.recipe := rfl
@[simp] theorem purgeMistake_geometry (s : State) (p : Port) : (purgeMistake p s).geometry = s.geometry := rfl
@[simp] theorem purgeMistake_web (s : State) (p : Port) : (purgeMistake p s).web = s.web := rfl
@[simp] theorem purgeMistake_clock (s : State) (p : Port) : (purgeMistake p s).clock = s.clock := rfl
@[simp] theorem purgeMistake_capture (s : State) (p : Port) : (purgeMistake p s).capture = s.capture := rfl
@[simp] theorem purgeMistake_register (s : State) (p : Port) : (purgeMistake p s).register = s.register := rfl
@[simp] theorem purgeMistake_emboss (s : State) (p : Port) : (purgeMistake p s).emboss = s.emboss := rfl
@[simp] theorem purgeMistake_map (s : State) (p : Port) : (purgeMistake p s).map = s.map := rfl
@[simp] theorem purgeMistake_roll (s : State) (p : Port) : (purgeMistake p s).roll = s.roll := rfl
@[simp] theorem purgeMistake_shade (s : State) (p : Port) : (purgeMistake p s).shade = s.shade := rfl
@[simp] theorem purgeMistake_label (s : State) (p : Port) : (purgeMistake p s).label = s.label := rfl
@[simp] theorem purgeMistake_store (s : State) (p : Port) : (purgeMistake p s).store = s.store := rfl
@[simp] theorem purgeMistake_nv (s : State) (p : Port) : (purgeMistake p s).nv = s.nv := rfl
@[simp] theorem purgeMistake_fresh (s : State) (p : Port) : (purgeMistake p s).fresh = s.fresh := rfl
@[simp] theorem purgeMistake_pending (s : State) (p : Port) : (purgeMistake p s).pending = s.pending := rfl

@[simp] theorem answer_line (s : State) (r : Req) (p : Port) (status : Status) : (answer r p status s).line = s.line := rfl
@[simp] theorem answer_recipe (s : State) (r : Req) (p : Port) (status : Status) : (answer r p status s).recipe = s.recipe := rfl
@[simp] theorem answer_geometry (s : State) (r : Req) (p : Port) (status : Status) : (answer r p status s).geometry = s.geometry := rfl
@[simp] theorem answer_web (s : State) (r : Req) (p : Port) (status : Status) : (answer r p status s).web = s.web := rfl
@[simp] theorem answer_clock (s : State) (r : Req) (p : Port) (status : Status) : (answer r p status s).clock = s.clock := rfl
@[simp] theorem answer_capture (s : State) (r : Req) (p : Port) (status : Status) : (answer r p status s).capture = s.capture := rfl
@[simp] theorem answer_register (s : State) (r : Req) (p : Port) (status : Status) : (answer r p status s).register = s.register := rfl
@[simp] theorem answer_emboss (s : State) (r : Req) (p : Port) (status : Status) : (answer r p status s).emboss = s.emboss := rfl
@[simp] theorem answer_map (s : State) (r : Req) (p : Port) (status : Status) : (answer r p status s).map = s.map := rfl
@[simp] theorem answer_roll (s : State) (r : Req) (p : Port) (status : Status) : (answer r p status s).roll = s.roll := rfl
@[simp] theorem answer_shade (s : State) (r : Req) (p : Port) (status : Status) : (answer r p status s).shade = s.shade := rfl
@[simp] theorem answer_label (s : State) (r : Req) (p : Port) (status : Status) : (answer r p status s).label = s.label := rfl
@[simp] theorem answer_store (s : State) (r : Req) (p : Port) (status : Status) : (answer r p status s).store = s.store := rfl
@[simp] theorem answer_nv (s : State) (r : Req) (p : Port) (status : Status) : (answer r p status s).nv = s.nv := rfl
@[simp] theorem answer_fresh (s : State) (r : Req) (p : Port) (status : Status) : (answer r p status s).fresh = s.fresh := rfl
@[simp] theorem answer_pending (s : State) (r : Req) (p : Port) (status : Status) : (answer r p status s).pending = s.pending := rfl

@[simp] theorem answerOk_line (s : State) (r : Req) (p : Port) : (answerOk r p s).line = s.line := rfl
@[simp] theorem answerOk_recipe (s : State) (r : Req) (p : Port) : (answerOk r p s).recipe = s.recipe := rfl
@[simp] theorem answerOk_geometry (s : State) (r : Req) (p : Port) : (answerOk r p s).geometry = s.geometry := rfl
@[simp] theorem answerOk_web (s : State) (r : Req) (p : Port) : (answerOk r p s).web = s.web := rfl
@[simp] theorem answerOk_clock (s : State) (r : Req) (p : Port) : (answerOk r p s).clock = s.clock := rfl
@[simp] theorem answerOk_capture (s : State) (r : Req) (p : Port) : (answerOk r p s).capture = s.capture := rfl
@[simp] theorem answerOk_register (s : State) (r : Req) (p : Port) : (answerOk r p s).register = s.register := rfl
@[simp] theorem answerOk_emboss (s : State) (r : Req) (p : Port) : (answerOk r p s).emboss = s.emboss := rfl
@[simp] theorem answerOk_map (s : State) (r : Req) (p : Port) : (answerOk r p s).map = s.map := rfl
@[simp] theorem answerOk_roll (s : State) (r : Req) (p : Port) : (answerOk r p s).roll = s.roll := rfl
@[simp] theorem answerOk_shade (s : State) (r : Req) (p : Port) : (answerOk r p s).shade = s.shade := rfl
@[simp] theorem answerOk_label (s : State) (r : Req) (p : Port) : (answerOk r p s).label = s.label := rfl
@[simp] theorem answerOk_store (s : State) (r : Req) (p : Port) : (answerOk r p s).store = s.store := rfl
@[simp] theorem answerOk_nv (s : State) (r : Req) (p : Port) : (answerOk r p s).nv = s.nv := rfl
@[simp] theorem answerOk_fresh (s : State) (r : Req) (p : Port) : (answerOk r p s).fresh = s.fresh := rfl
@[simp] theorem answerOk_pending (s : State) (r : Req) (p : Port) : (answerOk r p s).pending = s.pending := rfl

@[simp] theorem foreignRequest_line (s : State) (r : Req) (p : Port) : (foreignRequest r p s).line = s.line := by
  unfold foreignRequest; split <;> rfl
@[simp] theorem foreignRequest_recipe (s : State) (r : Req) (p : Port) : (foreignRequest r p s).recipe = s.recipe := by
  unfold foreignRequest; split <;> rfl
@[simp] theorem foreignRequest_geometry (s : State) (r : Req) (p : Port) : (foreignRequest r p s).geometry = s.geometry := by
  unfold foreignRequest; split <;> rfl
@[simp] theorem foreignRequest_web (s : State) (r : Req) (p : Port) : (foreignRequest r p s).web = s.web := by
  unfold foreignRequest; split <;> rfl
@[simp] theorem foreignRequest_clock (s : State) (r : Req) (p : Port) : (foreignRequest r p s).clock = s.clock := by
  unfold foreignRequest; split <;> rfl
@[simp] theorem foreignRequest_capture (s : State) (r : Req) (p : Port) : (foreignRequest r p s).capture = s.capture := by
  unfold foreignRequest; split <;> rfl
@[simp] theorem foreignRequest_register (s : State) (r : Req) (p : Port) : (foreignRequest r p s).register = s.register := by
  unfold foreignRequest; split <;> rfl
@[simp] theorem foreignRequest_emboss (s : State) (r : Req) (p : Port) : (foreignRequest r p s).emboss = s.emboss := by
  unfold foreignRequest; split <;> rfl
@[simp] theorem foreignRequest_map (s : State) (r : Req) (p : Port) : (foreignRequest r p s).map = s.map := by
  unfold foreignRequest; split <;> rfl
@[simp] theorem foreignRequest_roll (s : State) (r : Req) (p : Port) : (foreignRequest r p s).roll = s.roll := by
  unfold foreignRequest; split <;> rfl
@[simp] theorem foreignRequest_shade (s : State) (r : Req) (p : Port) : (foreignRequest r p s).shade = s.shade := by
  unfold foreignRequest; split <;> rfl
@[simp] theorem foreignRequest_label (s : State) (r : Req) (p : Port) : (foreignRequest r p s).label = s.label := by
  unfold foreignRequest; split <;> rfl
@[simp] theorem foreignRequest_store (s : State) (r : Req) (p : Port) : (foreignRequest r p s).store = s.store := by
  unfold foreignRequest; split <;> rfl
@[simp] theorem foreignRequest_nv (s : State) (r : Req) (p : Port) : (foreignRequest r p s).nv = s.nv := by
  unfold foreignRequest; split <;> rfl
@[simp] theorem foreignRequest_fresh (s : State) (r : Req) (p : Port) : (foreignRequest r p s).fresh = s.fresh := by
  unfold foreignRequest; split <;> rfl
@[simp] theorem foreignRequest_pending (s : State) (r : Req) (p : Port) : (foreignRequest r p s).pending = s.pending := by
  unfold foreignRequest; split <;> rfl

@[simp] theorem dropPurge_line (s : State) (r : Req) (p : Port) : (dropPurge r p s).line = s.line := by
  unfold dropPurge; split <;> rfl
@[simp] theorem dropPurge_recipe (s : State) (r : Req) (p : Port) : (dropPurge r p s).recipe = s.recipe := by
  unfold dropPurge; split <;> rfl
@[simp] theorem dropPurge_geometry (s : State) (r : Req) (p : Port) : (dropPurge r p s).geometry = s.geometry := by
  unfold dropPurge; split <;> rfl
@[simp] theorem dropPurge_web (s : State) (r : Req) (p : Port) : (dropPurge r p s).web = s.web := by
  unfold dropPurge; split <;> rfl
@[simp] theorem dropPurge_clock (s : State) (r : Req) (p : Port) : (dropPurge r p s).clock = s.clock := by
  unfold dropPurge; split <;> rfl
@[simp] theorem dropPurge_capture (s : State) (r : Req) (p : Port) : (dropPurge r p s).capture = s.capture := by
  unfold dropPurge; split <;> rfl
@[simp] theorem dropPurge_register (s : State) (r : Req) (p : Port) : (dropPurge r p s).register = s.register := by
  unfold dropPurge; split <;> rfl
@[simp] theorem dropPurge_emboss (s : State) (r : Req) (p : Port) : (dropPurge r p s).emboss = s.emboss := by
  unfold dropPurge; split <;> rfl
@[simp] theorem dropPurge_map (s : State) (r : Req) (p : Port) : (dropPurge r p s).map = s.map := by
  unfold dropPurge; split <;> rfl
@[simp] theorem dropPurge_roll (s : State) (r : Req) (p : Port) : (dropPurge r p s).roll = s.roll := by
  unfold dropPurge; split <;> rfl
@[simp] theorem dropPurge_shade (s : State) (r : Req) (p : Port) : (dropPurge r p s).shade = s.shade := by
  unfold dropPurge; split <;> rfl
@[simp] theorem dropPurge_label (s : State) (r : Req) (p : Port) : (dropPurge r p s).label = s.label := by
  unfold dropPurge; split <;> rfl
@[simp] theorem dropPurge_store (s : State) (r : Req) (p : Port) : (dropPurge r p s).store = s.store := by
  unfold dropPurge; split <;> rfl
@[simp] theorem dropPurge_nv (s : State) (r : Req) (p : Port) : (dropPurge r p s).nv = s.nv := by
  unfold dropPurge; split <;> rfl
@[simp] theorem dropPurge_fresh (s : State) (r : Req) (p : Port) : (dropPurge r p s).fresh = s.fresh := by
  unfold dropPurge; split <;> rfl
@[simp] theorem dropPurge_pending (s : State) (r : Req) (p : Port) : (dropPurge r p s).pending = s.pending := by
  unfold dropPurge; split <;> rfl

@[simp] theorem takeInput_line (s : State) (r : Req) (p : Port) : (takeInput r p s).line = s.line := by
  unfold takeInput; split <;> rfl
@[simp] theorem takeInput_recipe (s : State) (r : Req) (p : Port) : (takeInput r p s).recipe = s.recipe := by
  unfold takeInput; split <;> rfl
@[simp] theorem takeInput_geometry (s : State) (r : Req) (p : Port) : (takeInput r p s).geometry = s.geometry := by
  unfold takeInput; split <;> rfl
@[simp] theorem takeInput_web (s : State) (r : Req) (p : Port) : (takeInput r p s).web = s.web := by
  unfold takeInput; split <;> rfl
@[simp] theorem takeInput_clock (s : State) (r : Req) (p : Port) : (takeInput r p s).clock = s.clock := by
  unfold takeInput; split <;> rfl
@[simp] theorem takeInput_capture (s : State) (r : Req) (p : Port) : (takeInput r p s).capture = s.capture := by
  unfold takeInput; split <;> rfl
@[simp] theorem takeInput_register (s : State) (r : Req) (p : Port) : (takeInput r p s).register = s.register := by
  unfold takeInput; split <;> rfl
@[simp] theorem takeInput_emboss (s : State) (r : Req) (p : Port) : (takeInput r p s).emboss = s.emboss := by
  unfold takeInput; split <;> rfl
@[simp] theorem takeInput_map (s : State) (r : Req) (p : Port) : (takeInput r p s).map = s.map := by
  unfold takeInput; split <;> rfl
@[simp] theorem takeInput_roll (s : State) (r : Req) (p : Port) : (takeInput r p s).roll = s.roll := by
  unfold takeInput; split <;> rfl
@[simp] theorem takeInput_shade (s : State) (r : Req) (p : Port) : (takeInput r p s).shade = s.shade := by
  unfold takeInput; split <;> rfl
@[simp] theorem takeInput_label (s : State) (r : Req) (p : Port) : (takeInput r p s).label = s.label := by
  unfold takeInput; split <;> rfl
@[simp] theorem takeInput_store (s : State) (r : Req) (p : Port) : (takeInput r p s).store = s.store := by
  unfold takeInput; split <;> rfl
@[simp] theorem takeInput_nv (s : State) (r : Req) (p : Port) : (takeInput r p s).nv = s.nv := by
  unfold takeInput; split <;> rfl
@[simp] theorem takeInput_fresh (s : State) (r : Req) (p : Port) : (takeInput r p s).fresh = s.fresh := by
  unfold takeInput; split <;> rfl
@[simp] theorem takeInput_pending (s : State) (r : Req) (p : Port) : (takeInput r p s).pending = s.pending := by
  unfold takeInput; split <;> rfl

end Sys2Proof.Machine
end

