-- ==== Sys2Proof/Laws/Ops.lean ====
section
/-!
SUPPORT. What each shared operation can do, said once: how a counter counts, how a request is checked and answered, a
change to a roll record or to a batch, the addressed banks of the order store, and the hold causes.
-/

namespace Sys2Proof.Machine

open Sys2Proof.Safety

/-! ### Counters -/

theorem bump_eq_min (limit n : Nat) : bump limit n = min limit (n + 1) := by
  unfold bump; split <;> omega

theorem bump_max32 (n : Nat) : bump max32 n = min 4294967295 (n + 1) := bump_eq_min _ _

theorem bump_max16 (n : Nat) : bump max16 n = min 65535 (n + 1) := bump_eq_min _ _

/-! ### Requests -/

theorem not_busy_iff (p : Port) (s : State) : (s.port p).busy = false ↔ Open p s := by
  simp [PortState.busy, Open]

/-- The state in which an admitted request's own rule acts: the frame shifted in, and the purge sequence
abandoned if the request is a mistake. -/
def received (r : Req) (p : Port) (args : List Byte) (s : State) : State :=
  foreignRequest r p (s.shiftOut p (List.replicate (args.length + 2) 0))

theorem takeRequest_busy (r : Req) (p : Port) (args : List Byte) (body : State → State) (s : State)
    (h : (s.port p).busy = true) :
    takeRequest r p args body s
      = discardRequest p (s.shiftOut p (List.replicate (args.length + 2) 0)) := by
  simp only [takeRequest, h, if_true]

theorem takeRequest_role (r : Req) (p : Port) (args : List Byte) (body : State → State) (s : State)
    (h : Open p s) (hr : p ∉ r.role.ports) :
    takeRequest r p args body s
      = takeInput r p (respond p r.role.code .role [] (received r p args s)) := by
  have : (s.ports.get p).busy = false := (not_busy_iff p s).2 h
  simp [takeRequest, received, this, hr]

theorem takeRequest_state (r : Req) (p : Port) (args : List Byte) (body : State → State) (s : State)
    (h : Open p s) (hr : p ∈ r.role.ports) (hs : s.line.state ∉ r.role.admitted) :
    takeRequest r p args body s
      = takeInput r p (respond p r.role.code .state [] (dropPurge r p (received r p args s))) := by
  have : (s.ports.get p).busy = false := (not_busy_iff p s).2 h
  simp [takeRequest, received, this, hr, hs]

theorem takeRequest_length (r : Req) (p : Port) (args : List Byte) (body : State → State) (s : State)
    (h : Open p s) (hr : p ∈ r.role.ports) (hs : s.line.state ∈ r.role.admitted)
    (hl : args.length ≠ r.role.length) :
    takeRequest r p args body s
      = takeInput r p (respond p r.role.code .range [] (received r p args s)) := by
  have : (s.ports.get p).busy = false := (not_busy_iff p s).2 h
  simp [takeRequest, received, this, hr, hs, hl]

theorem takeRequest_admitted {r : Req} {p : Port} {args : List Byte} {s : State} (body : State → State)
    (h : Admitted r p args s) :
    takeRequest r p args body s = takeInput r p (body (received r p args s)) := by
  have : (s.ports.get p).busy = false := (not_busy_iff p s).2 h.slots
  simp [takeRequest, received, this, h.role, h.state, h.length]

/-- The port as an admitted request's own rule finds it. -/
theorem received_get (r : Req) (p q : Port) (args : List Byte) (s : State) :
    (received r p args s).ports.get q
      = if q = p then
          { s.ports.get p with
            pending := (s.ports.get p).pending
              ||| (if isMistake r (s.ports.get p) then Notice.protect.bit else 0#16)
            purge := if isMistake r (s.ports.get p) then .nothing else (s.ports.get p).purge
            protect := (s.ports.get p).protect || isMistake r (s.ports.get p)
            sdo := s.summary p :: List.replicate (args.length + 2) 0 }
        else s.ports.get q := by
  have key : (r.isPurge || (s.ports.get p).purge == .nothing) = !isMistake r (s.ports.get p) := by
    simp [isMistake, Bool.not_and, bne]
  by_cases hq : q = p <;> by_cases hm : isMistake r (s.ports.get p) = true <;>
    simp [received, foreignRequest, key, hm, hq, purgeMistake]

@[simp] theorem takeInput_get (r : Req) (p q : Port) (s : State) :
    (takeInput r p s).ports.get q
      = if q = p then
          { s.ports.get p with
            fifo := if r.readsFifo && !(s.ports.get p).toStation then [] else (s.ports.get p).fifo }
        else s.ports.get q := by
  unfold takeInput
  by_cases hq : q = p <;> by_cases hm : (r.readsFifo && !(s.ports.get p).toStation) = true <;>
    simp [hq, hm]

/-- A request whose own rule answers a state in which the ports are as it found them but for notices raised. -/
theorem answered_of {r : Req} {p : Port} {args : List Byte} {s y : State} {status : Status} {result : List Byte}
    {raised : Raised} (h : Admitted r p args s)
    (hy : ∀ q, y.ports.get q =
      { (received r p args s).ports.get q with
        pending := ((received r p args s).ports.get q).pending ||| raised q }) :
    Answered r p args status result raised s (takeInput r p (respond p r.role.code status result y)) := by
  intro q
  have hr : (s.ports.get p).request = none := h.slots.1
  have hp := hy p
  rw [received_get] at hp
  simp at hp
  by_cases hq : q = p
  · subst hq
    simp [State.port, takeInput_get, respond, hp, hr, portAfter, State.modifyPort]
    split <;> simp_all
  · have hq' := hy q
    rw [received_get] at hq'
    simp [hq] at hq'
    simp [State.port, takeInput_get, respond, hq, hq']

/-- What a request finds differs from the state before it in its ports alone. -/
theorem received_eq (r : Req) (p : Port) (args : List Byte) (s : State) :
    received r p args s = { s with ports := (received r p args s).ports } := by
  unfold received foreignRequest
  split <;> rfl

theorem takeInput_eq (r : Req) (p : Port) (s : State) :
    takeInput r p s = { s with ports := (takeInput r p s).ports } := by
  unfold takeInput
  split <;> rfl

theorem respond_eq (p : Port) (code : Byte) (status : Status) (result : List Byte) (s : State) :
    respond p code status result s = { s with ports := (respond p code status result s).ports } := rfl

/-! ### Roll records -/

@[simp] theorem modifyRecord_same (i : Fin 24) (f : RollRecord → RollRecord) (s : State) :
    (modifyRecord i f s).record i
      = if f (s.record i) = s.record i then s.record i
        else { f (s.record i) with revision := bump max32 (s.record i).revision } := by
  unfold modifyRecord
  split <;> simp [State.record]

theorem modifyRecord_other (i j : Fin 24) (f : RollRecord → RollRecord) (s : State) (h : i ≠ j) :
    (modifyRecord i f s).record j = s.record j := by
  unfold modifyRecord
  split <;> simp [State.record, h]

/-- A change to a roll record changes the roll table alone. -/
theorem modifyRecord_eq (i : Fin 24) (f : RollRecord → RollRecord) (s : State) :
    modifyRecord i f s = { s with roll := { s.roll with records := (modifyRecord i f s).roll.records } } := by
  unfold modifyRecord
  split <;> rfl

/-- Re-evaluating the hold causes writes the causes that stand, and raises HOLD everywhere on a change. -/
theorem evalHolds_eq (s : State) :
    evalHolds s = { s with
      line := { s.line with holds := holdsNow s }, ports := (evalHolds s).ports } := by
  unfold evalHolds
  split
  · rename_i h; rw [h]
  · rfl

/-! ### Hold causes (01) -/

/-- The hold causes of a state stand when they are those that a re-evaluation would give (R19). -/
theorem holdsNow_stand (s : State) (h : s.line.holds = holdsNow s) : HoldsStand s := by
  have any_iff : s.roll.records.rows.any (fun r => r.state == .graded) = true ↔ ∃ i, (s.record i).state = .graded := by
    rw [List.any_eq_true]
    constructor
    · rintro ⟨r, hr, hs⟩
      obtain ⟨n, hn, rfl⟩ := List.mem_iff_getElem.1 hr
      refine ⟨⟨n, by rw [← s.roll.records.size]; exact hn⟩, ?_⟩
      have : s.roll.records.rows[n].state = .graded := by simpa using hs
      exact this
    · rintro ⟨i, hi⟩
      exact ⟨_, List.getElem_mem _, by simpa [State.record, Table.get] using hi⟩
  by_cases ho : OrderStands s
  · have hh : holdsNow s = { rolls := decide (20 ≤ (s.roll.records.rows.filter (fun r => r.state != .free)).length)
                             labels := s.roll.records.rows.any (fun r => r.state == .graded)
                             length := decide (4000000000 ≤ s.web.w) } := by
      unfold OrderStands at ho
      unfold holdsNow
      cases hs : s.line.state <;> simp_all
    refine ⟨fun hn => absurd ho hn, fun _ => ?_, fun _ => ?_, fun _ => ?_⟩
    · rw [h, hh]; simp
    · rw [h, hh]; exact any_iff
    · rw [h, hh]; simp
  · refine ⟨fun _ => ?_, fun hn => absurd hn ho, fun hn => absurd hn ho, fun hn => absurd hn ho⟩
    rw [h]
    unfold OrderStands at ho
    unfold holdsNow
    cases hs : s.line.state <;> simp_all

/-- After a re-evaluation the hold causes that are held are those whose conditions stand (R19). -/
theorem evalHolds_stand (s : State) : HoldsStand (evalHolds s) := by
  apply holdsNow_stand
  unfold evalHolds
  split
  · rename_i h; exact h.symm
  · simp [holdsNow]; cases s.line.state <;> rfl

/-- A re-evaluation changes the hold causes and raises HOLD everywhere, exactly when a cause changes (R19). -/
theorem evalHolds_noticed (s : State) :
    evalHolds s = { s with line := { s.line with holds := (evalHolds s).line.holds }, ports := (evalHolds s).ports } ∧
    Noticed (everywhereIf (decide ((evalHolds s).line.holds ≠ s.line.holds)) .hold) s (evalHolds s) := by
  unfold evalHolds
  split
  · refine ⟨rfl, fun q => ?_⟩
    simp [everywhereIf, quiet]
  · rename_i h
    refine ⟨rfl, fun q => ?_⟩
    have : decide (((({ s with line := { s.line with holds := holdsNow s } } : State)).raiseAll .hold).line.holds ≠ s.line.holds) = true := by
      exact decide_eq_true h
    rw [this]
    cases q <;> simp [everywhereIf, everywhere, State.port, State.raiseAll]

/-! ### Banks (10) -/

section
variable {α : Type}

theorem cellAt_insertCell (n : Nat) (c : StoreCell α) :
    ∀ cells : Cells α, (∀ x ∈ cells, x.1 ≠ n) → cellAt (insertCell n c cells) n = c
  | [], _ => by simp [insertCell, cellAt]
  | (k, d) :: rest, h => by
    have hk : k ≠ n := h (k, d) (by simp)
    unfold insertCell
    split
    · simp [cellAt]
    · simp only [cellAt, hk, if_false]
      exact cellAt_insertCell n c rest (fun x hx => h x (by simp [hx]))

theorem cellAt_insertCell_other (n m : Nat) (c : StoreCell α) (hm : m ≠ n) :
    ∀ cells : Cells α, cellAt (insertCell n c cells) m = cellAt cells m
  | [] => by simp [insertCell, cellAt, Ne.symm hm]
  | (k, d) :: rest => by
    unfold insertCell
    split
    · simp [cellAt, Ne.symm hm]
    · simp only [cellAt, cellAt_insertCell_other n m c hm rest]

theorem cellAt_eraseCell_same (n : Nat) : ∀ cells : Cells α, cellAt (eraseCell cells n) n = .blank
  | [] => rfl
  | (k, d) :: rest => by
    have ih := cellAt_eraseCell_same n rest
    by_cases h : k = n
    · subst h; simpa [eraseCell] using ih
    · simpa [eraseCell, h, cellAt] using ih

theorem cellAt_eraseCell_other (n m : Nat) (hm : m ≠ n) :
    ∀ cells : Cells α, cellAt (eraseCell cells n) m = cellAt cells m
  | [] => rfl
  | (k, d) :: rest => by
    have ih := cellAt_eraseCell_other n m hm rest
    by_cases h : k = n
    · subst h
      simp only [eraseCell, List.filter_cons, bne_self_eq_false, Bool.false_eq_true, if_false] at *
      simp [cellAt, Ne.symm hm, ih]
    · simp only [eraseCell, List.filter_cons, bne_iff_ne, ne_eq, h, not_false_eq_true, if_true] at *
      simp [cellAt, ih]

theorem mem_eraseCell {n : Nat} {cells : Cells α} {x : Nat × StoreCell α} :
    x ∈ eraseCell cells n ↔ x ∈ cells ∧ x.1 ≠ n := by
  simp [eraseCell]

/-- A position read after it is written gives what was written. -/
theorem cellAt_setCell_same (cells : Cells α) (n : Nat) (c : StoreCell α) :
    cellAt (setCell cells n c) n = c := by
  cases c with
  | blank => exact cellAt_eraseCell_same n cells
  | written a => exact cellAt_insertCell n _ _ (fun x hx => (mem_eraseCell.1 hx).2)
  | broken => exact cellAt_insertCell n _ _ (fun x hx => (mem_eraseCell.1 hx).2)

/-- Every other position of the bank reads as before. -/
theorem cellAt_setCell_other (cells : Cells α) (n m : Nat) (c : StoreCell α) (h : m ≠ n) :
    cellAt (setCell cells n c) m = cellAt cells m := by
  cases c with
  | blank => exact cellAt_eraseCell_other n m h cells
  | written a =>
    exact (cellAt_insertCell_other n m _ h _).trans (cellAt_eraseCell_other n m h cells)
  | broken =>
    exact (cellAt_insertCell_other n m _ h _).trans (cellAt_eraseCell_other n m h cells)

theorem mem_insertCell {n : Nat} {c : StoreCell α} {x : Nat × StoreCell α} :
    ∀ {cells : Cells α}, x ∈ insertCell n c cells ↔ x = (n, c) ∨ x ∈ cells
  | [] => by simp [insertCell]
  | (k, d) :: rest => by
    unfold insertCell
    split
    · simp
    · simp only [List.mem_cons, mem_insertCell (cells := rest)]; tauto

theorem insertCell_pairwise (n : Nat) (c : StoreCell α) :
    ∀ cells : Cells α, cells.Pairwise (fun x y => x.1 < y.1) → (∀ x ∈ cells, x.1 ≠ n) →
      (insertCell n c cells).Pairwise (fun x y => x.1 < y.1)
  | [], _, _ => by simp [insertCell]
  | (k, d) :: rest, h, hn => by
    rw [List.pairwise_cons] at h
    have hk : k ≠ n := hn (k, d) (by simp)
    unfold insertCell
    split
    · rename_i hlt
      simp only [List.pairwise_cons, List.mem_cons, forall_eq_or_imp]
      exact ⟨⟨hlt, fun x hx => lt_trans hlt (h.1 x hx)⟩, h.1, h.2⟩
    · rename_i hlt
      rw [List.pairwise_cons]
      refine ⟨fun x hx => ?_, insertCell_pairwise n c rest h.2 (fun x hx => hn x (by simp [hx]))⟩
      rcases mem_insertCell.1 hx with rfl | hx
      · show k < n; omega
      · exact h.1 x hx

variable [DecidableEq α]

theorem cellsWf_iff (cells : Cells α) :
    cellsWf cells = true ↔
      cells.Pairwise (fun x y => x.1 < y.1) ∧ ∀ x ∈ cells, x.2 ≠ .blank := by
  simp [cellsWf, List.pairwise_map, bne_iff_ne]

/-- A write of a position keeps the bank in its canonical form. -/
theorem cellsWf_setCell (cells : Cells α) (n : Nat) (c : StoreCell α) (h : cellsWf cells = true) :
    cellsWf (setCell cells n c) = true := by
  rw [cellsWf_iff] at h
  have hp : (eraseCell cells n).Pairwise (fun x y => x.1 < y.1) := h.1.filter _
  have hb : ∀ x ∈ eraseCell cells n, x.2 ≠ .blank := fun x hx => h.2 x (mem_eraseCell.1 hx).1
  have hn : ∀ x ∈ eraseCell cells n, x.1 ≠ n := fun x hx => (mem_eraseCell.1 hx).2
  have put : ∀ d : StoreCell α, d ≠ .blank → cellsWf (insertCell n d (eraseCell cells n)) = true := by
    intro d hd
    rw [cellsWf_iff]
    refine ⟨insertCell_pairwise n d _ hp hn, fun x hx => ?_⟩
    rcases mem_insertCell.1 hx with rfl | hx
    · exact hd
    · exact hb x hx
  cases c with
  | blank => rw [cellsWf_iff]; exact ⟨hp, hb⟩
  | written a => exact put _ (by simp)
  | broken => exact put _ (by simp)

/-- Dropping positions of a bank keeps its canonical form. -/
theorem cellsWf_filter (cells : Cells α) (f : Nat × StoreCell α → Bool) (h : cellsWf cells = true) :
    cellsWf (cells.filter f) = true := by
  rw [cellsWf_iff] at *
  exact ⟨h.1.filter _, fun x hx => h.2 x (List.mem_of_mem_filter hx)⟩

end

/-- An interrupted erase leaves the header, and every other record as it was or blank (R169). -/
theorem partlyErased_records (event : Nat) (c : SlotContent) :
    (partlyErased event c).header = c.header ∧
      ((partlyErased event c).recipe = c.recipe ∨ (partlyErased event c).recipe = .blank) ∧
      (∀ x ∈ (partlyErased event c).batches, x ∈ c.batches) ∧
      ∀ x ∈ (partlyErased event c).journal, x ∈ c.journal := by
  refine ⟨rfl, ?_, fun x hx => List.mem_of_mem_filter hx, fun x hx => List.mem_of_mem_filter hx⟩
  unfold partlyErased
  split <;> simp

/-- A failed erase leaves every record as it was or blank (R179). -/
theorem failedErase_records (event : Nat) (c : SlotContent) :
    ((failedErase event c).header = c.header ∨ (failedErase event c).header = .blank) ∧
      ((failedErase event c).recipe = c.recipe ∨ (failedErase event c).recipe = .blank) ∧
      (∀ x ∈ (failedErase event c).batches, x ∈ c.batches) ∧
      ∀ x ∈ (failedErase event c).journal, x ∈ c.journal := by
  refine ⟨?_, (partlyErased_records event c).2⟩
  unfold failedErase
  split <;> simp

end Sys2Proof.Machine
end

