-- ==== Sys2Proof/Laws/Map.lean ====
section
/-!
SUPPORT. What an addition, an extension, an owner's open and an owner's judgment can do to the web map, said once (06).
-/

namespace Sys2Proof.Safety

open Sys2Proof.Machine

/-- What the search for the youngest entry finds. -/
theorem youngestAt_none (p : MapEntry → Bool) (es : List MapEntry) :
    youngestAt p es = none ↔ ∀ e ∈ es, p e = false := by
  induction es with
  | nil => simp [youngestAt]
  | cons e es ih =>
    unfold youngestAt
    cases h : youngestAt p es with
    | none =>
      cases hp : p e <;> simp [hp]
      exact ih.1 h
    | some x =>
      simp only [List.mem_cons, forall_eq_or_imp]
      have : ¬ ∀ e ∈ es, p e = false := fun hh => by rw [ih.2 hh] at h; cases h
      constructor
      · split <;> simp
      · intro hh; exact absurd hh.2 this

/-- What the search for the youngest entry finds. -/
theorem youngestAt_some (p : MapEntry → Bool) (es : List MapEntry) (i a : Nat) (h : youngestAt p es = some (i, a)) :
    ∃ before e after, Youngest (fun x => p x = true) es before e after ∧ before.length = i ∧ e.age = a := by
  induction es generalizing i a with
  | nil => simp [youngestAt] at h
  | cons x es ih =>
    unfold youngestAt at h
    cases h0 : youngestAt p es with
    | none =>
      rw [h0] at h
      cases hp : p x <;> simp [hp] at h
      obtain ⟨rfl, rfl⟩ := h
      refine ⟨[], x, es, ⟨rfl, hp, by simp, ?_⟩, rfl, rfl⟩
      intro y hy hpy
      have := (youngestAt_none p es).1 h0 y hy
      simp [this] at hpy
    | some y =>
      obtain ⟨j, b⟩ := y
      rw [h0] at h
      obtain ⟨before, e, after, hy, hl, ha⟩ := ih j b h0
      simp only at h
      split at h
      · rename_i hc
        simp at hc h
        obtain ⟨rfl, rfl⟩ := h
        refine ⟨[], x, es, ⟨rfl, hc.1, by simp, ?_⟩, rfl, rfl⟩
        intro z hz hpz
        rw [hy.place] at hz
        rcases List.mem_append.1 hz with hz | hz
        · have := hy.before z hz hpz; omega
        · rcases List.mem_cons.1 hz with rfl | hz
          · omega
          · have := hy.after z hz hpz; omega
      · rename_i hc
        simp at hc h
        obtain ⟨rfl, rfl⟩ := h
        refine ⟨x :: before, e, after, ⟨by simp [hy.place], hy.holds, ?_, hy.after⟩, by simp [hl], ha⟩
        intro z hz hpz
        rcases List.mem_cons.1 hz with rfl | hz
        · have := hc hpz; omega
        · exact hy.before z hz hpz

/-- The youngest entry is one only. -/
theorem Youngest.unique {p : MapEntry → Prop} {es b1 b2 : List MapEntry} {e1 e2 : MapEntry} {a1 a2 : List MapEntry}
    (h1 : Youngest p es b1 e1 a1) (h2 : Youngest p es b2 e2 a2) : b1 = b2 ∧ e1 = e2 ∧ a1 = a2 := by
  obtain ⟨p1, q1, r1, t1⟩ := h1
  obtain ⟨p2, q2, r2, t2⟩ := h2
  rw [p1] at p2
  rcases List.append_eq_append_iff.1 p2 with ⟨m, hm, hm'⟩ | ⟨m, hm, hm'⟩
  · cases m with
    | nil => simp at hm hm'; exact ⟨hm.symm, hm'.1, hm'.2⟩
    | cons x m =>
      simp at hm'
      obtain ⟨rfl, rfl⟩ := hm'
      have h1 := t1 e2 (by simp) q2
      have h2 := r2 e1 (by simp [hm]) q1
      omega
  · cases m with
    | nil => simp at hm hm'; exact ⟨hm, hm'.1.symm, hm'.2.symm⟩
    | cons x m =>
      simp at hm'
      obtain ⟨rfl, rfl⟩ := hm'
      have h1 := t2 e1 (by simp) q1
      have h2 := r1 e2 (by simp [hm]) q2
      omega

theorem Youngest.congr {p q : MapEntry → Prop} (hpq : ∀ x, p x ↔ q x) {es b : List MapEntry} {e : MapEntry}
    {a : List MapEntry} (h : Youngest p es b e a) : Youngest q es b e a :=
  ⟨h.place, (hpq e).1 h.holds, fun x hx hq => h.before x hx ((hpq x).2 hq), fun x hx hq => h.after x hx ((hpq x).2 hq)⟩

theorem insertEntry_split (e : MapEntry) (es : List MapEntry) :
    ∃ before after, es = before ++ after ∧ insertEntry e es = before ++ e :: after ∧
      (∀ x ∈ before, x.start ≤ e.start) ∧ ∀ x ∈ after.head?, e.start < x.start := by
  induction es with
  | nil => exact ⟨[], [], rfl, rfl, by simp, by simp⟩
  | cons x es ih =>
    obtain ⟨b, a, h1, h2, h3, h4⟩ := ih
    unfold insertEntry
    split
    · rename_i hc
      exact ⟨x :: b, a, by simp [h1], by simp [h2], by simpa [hc] using h3, h4⟩
    · rename_i hc
      refine ⟨[], x :: es, rfl, rfl, by simp, ?_⟩
      simpa using hc

theorem insertEntry_perm (e : MapEntry) (es : List MapEntry) : List.Perm (insertEntry e es) (e :: es) := by
  obtain ⟨b, a, h1, h2, -, -⟩ := insertEntry_split e es
  rw [h2, h1]; exact List.perm_middle

theorem modify_middle (b a : List MapEntry) (e : MapEntry) (f : MapEntry → MapEntry) :
    (b ++ e :: a).modify b.length f = b ++ f e :: a := by
  induction b with
  | nil => rfl
  | cons x b ih => simpa using ih

theorem addAged_joined (e : MapEntry) (m : WebMap) : Joined e m (addAged e m) := by
  obtain ⟨b, a, h1, h2, h3, h4⟩ := insertEntry_split { e with age := bump max32 m.additions } m.entries
  exact ⟨bump_max32 _, rfl, b, a, h1, h2, h3, h4⟩


theorem isFault_iff (e : MapEntry) : MapEntry.isFault e = true ↔ IsFault e := by
  simp [MapEntry.isFault, IsFault, bne_iff_ne]

/-- The number of entries of a list that are not SPLICE. -/
def faultsIn (es : List MapEntry) : Nat := (es.filter (fun e => e.kind != .splice)).length

theorem takeYoungest_spec (es : List MapEntry) :
    (takeYoungest es = none ∧ faultsIn es = 0) ∨
    ∃ before e after, takeYoungest es = some (e, before ++ after) ∧ Youngest IsFault es before e after ∧
      faultsIn es = faultsIn (before ++ after) + 1 := by
  unfold takeYoungest
  cases h : youngestAt MapEntry.isFault es with
  | none =>
    left
    refine ⟨rfl, ?_⟩
    have := (youngestAt_none _ _).1 h
    unfold faultsIn
    rw [List.length_eq_zero_iff, List.filter_eq_nil_iff]
    intro e he
    have := this e he
    simpa [MapEntry.isFault] using this
  | some x =>
    obtain ⟨i, a⟩ := x
    obtain ⟨b, e, af, hy, hl, -⟩ := youngestAt_some _ _ _ _ h
    right
    refine ⟨b, e, af, ?_, hy.congr isFault_iff, ?_⟩
    · subst hl
      simp [hy.place, List.eraseIdx_append_of_length_le]
    · have : IsFault e := (isFault_iff e).1 hy.holds
      have hk : (e.kind != .splice) = true := by simpa [bne_iff_ne] using (show e.kind ≠ .splice from this)
      unfold faultsIn
      rw [hy.place]
      simp [hk]; omega

theorem overflowOf_madeOf (x y : MapEntry) : MadeOf x y (overflowOf x y) := by
  constructor
  · exact ⟨rfl, rfl, rfl⟩
  · rfl
  · intro a b ha hb; simp [overflowOf, ha, hb]
  · rintro (h | h) <;> simp [overflowOf, h]
  · simp [overflowOf, Covers, MapEntry.isOpenOf]; tauto
  · simp [overflowOf, Covers, MapEntry.isOpenOf]; tauto
  · have : ∀ a b c d : Option Pos, laterOf (laterOf a b) (laterOf c d) = ([a, b, c, d].filterMap id).max? := by
      intro a b c d
      cases a <;> cases b <;> cases c <;> cases d <;>
        simp [laterOf, List.max?, max_assoc]
    simp only [overflowOf]
    rw [this]
    rfl

theorem MadeOf.age {x y o : MapEntry} (h : MadeOf x y o) (a : Nat) : MadeOf x y { o with age := a } :=
  ⟨h.named, h.start, h.closed, h.opened, h.register, h.emboss, h.pending⟩


/-- An addition, by the room the map has. -/
theorem addEntry_spec (e : MapEntry) (m : WebMap) :
    (m.entries.length < 48 → ∃ m', addEntry e m = some (m', .added) ∧ Joined e m m') ∧
    (48 ≤ m.entries.length → 2 ≤ faults m → ∃ m', addEntry e m = some (m', .overflowed) ∧ OverflowJoined e m m') ∧
    (48 ≤ m.entries.length → faults m = 1 → e.kind ≠ .splice →
      ∃ m', addEntry e m = some (m', .overflowed) ∧ OverflowAbsorbed e m m') ∧
    (48 ≤ m.entries.length → faults m = 1 → e.kind = .splice → addEntry e m = none) ∧
    (48 ≤ m.entries.length → faults m = 0 → addEntry e m = none) := by
  have hf : faults m = faultsIn m.entries := rfl
  refine ⟨fun h => ⟨_, by simp [addEntry, mapSize, h], addAged_joined e m⟩, ?_⟩
  by_cases hl : 48 ≤ m.entries.length
  · have hl' : ¬ m.entries.length < 48 := by omega
    rcases takeYoungest_spec m.entries with ⟨h0, h1⟩ | ⟨b, x, a, h0, hy, h1⟩
    · refine ⟨fun _ h => by omega, fun _ h => by omega, fun _ h => by omega, fun _ _ => ?_⟩
      simp [addEntry, mapSize, hl', h0]
    · rcases takeYoungest_spec (b ++ a) with ⟨h2, h3⟩ | ⟨b', y, a', h2, hy', h3⟩
      · refine ⟨fun _ h => by omega, fun _ _ hk => ?_, fun _ _ hk => ?_, fun _ h => by omega⟩
        · refine ⟨_, by simp only [addEntry, mapSize, hl', h0, h2, hk, if_false]; rfl, ?_⟩
          refine ⟨b, x, a, _, hy, (overflowOf_madeOf x e).age _, rfl, bump_max32 _, bump_max16 _, insertEntry_perm _ _⟩
        · simp [addEntry, mapSize, hl', h0, h2, hk]
      · refine ⟨fun _ _ => ?_, fun _ h => by omega, fun _ h => by omega, fun _ h => by omega⟩
        refine ⟨_, by simp only [addEntry, mapSize, hl', h0, h2, if_false]; rfl, ?_⟩
        refine ⟨b, x, a, b', y, a', _, hy, hy', (overflowOf_madeOf x y).age _, bump_max32 _, ?_, bump_max16 _, ?_⟩
        · show bump max32 (bump max32 m.additions) = _
          rw [bump_max32, bump_max32]; omega
        · refine (insertEntry_perm _ _).trans ?_
          refine List.Perm.trans (List.Perm.cons _ (insertEntry_perm _ _)) (List.Perm.swap _ _ _)
  · exact ⟨fun h => absurd h hl, fun h => absurd h hl, fun h => absurd h hl, fun h => absurd h hl⟩

/-- Where a report may extend an entry. -/
theorem mergeTarget_spec (kind : MapKind) (d : Detail) (start : Pos) (m : WebMap) :
    (mergeTarget kind d start m = none ∧ ExtendsNone kind d start m.entries) ∨
    ∃ before e after b, Extends kind d start m.entries before e after b ∧
      mergeTarget kind d start m = some before.length ∧
      ∀ f, (modifyEntry before.length f m).entries = before ++ f e :: after := by
  have hp : ∀ x : MapEntry, ((x.kind == kind && x.detail == d && x.stop.isSome) = true) ↔
      (x.kind = kind ∧ x.detail = d ∧ x.stop ≠ none) := by
    intro x; cases x.stop <;> simp
  unfold mergeTarget
  cases h : youngestAt (fun e => e.kind == kind && e.detail == d && e.stop.isSome) m.entries with
  | none =>
    left
    refine ⟨rfl, fun b e a x hx => ?_⟩
    have := (youngestAt_none _ _).1 h e (by rw [hx.youngest.place]; simp)
    have h2 := (hp e).2 hx.youngest.holds
    rw [this] at h2; cases h2
  | some x =>
    obtain ⟨i, ag⟩ := x
    obtain ⟨b, e, a, hy, hl, -⟩ := youngestAt_some _ _ _ _ h
    have hy' := hy.congr hp
    subst hl
    have hget : m.entries[b.length]? = some e := by rw [hy.place]; simp
    simp only [hget]
    cases hs : e.stop with
    | none => exact absurd hs hy'.holds.2.2
    | some z =>
      simp only
      by_cases hc : e.start ≤ start ∧ start ≤ z + mergeDistance
      · right
        refine ⟨b, e, a, z, ⟨hy', hs, hc.1, hc.2⟩, by simp [hc], fun f => ?_⟩
        simp only [modifyEntry, hy.place]
        exact modify_middle b a e f
      · left
        refine ⟨by simp [hc], fun b' e' a' z' hx => ?_⟩
        obtain ⟨-, rfl, -⟩ := hx.youngest.unique hy'
        have : z' = z := by have := hx.stop; rw [hs] at this; exact (Option.some.inj this).symm
        subst this
        exact hc ⟨hx.reached, hx.near⟩

theorem Extends.unique {kind : MapKind} {d : Detail} {start : Pos} {es b1 b2 : List MapEntry} {e1 e2 : MapEntry}
    {a1 a2 : List MapEntry} {z1 z2 : Pos} (h1 : Extends kind d start es b1 e1 a1 z1)
    (h2 : Extends kind d start es b2 e2 a2 z2) : b1 = b2 ∧ e1 = e2 ∧ a1 = a2 ∧ z1 = z2 := by
  obtain ⟨rfl, rfl, rfl⟩ := h1.youngest.unique h2.youngest
  have := h1.stop; rw [h2.stop] at this
  exact ⟨rfl, rfl, rfl, (Option.some.inj this).symm⟩

/-- An owner opens its span. -/
theorem openSpan_opened (kind : MapKind) (start : Pos) (d : Detail) (m : WebMap) (hk : kind ≠ .splice) :
    SpanOpened kind start d m (openSpan kind start d m) := by
  have ho : hasOpen kind m = true ↔ ∃ e ∈ m.entries, e.kind = kind ∧ e.stop = none := by
    simp [hasOpen, MapEntry.isOpenOf]
  constructor
  · intro h
    simp [openSpan, ho.2 h]
  · intro h
    have hn : ¬ hasOpen kind m = true := fun hh => by
      obtain ⟨e, he, hk', hs⟩ := ho.1 hh
      exact h e he hk' hs
    constructor
    · intro b e a z hx
      rcases mergeTarget_spec kind d start m with ⟨-, h2⟩ | ⟨b', e', a', z', hx', h2, h3⟩
      · exact absurd hx (h2 b e a z)
      · obtain ⟨rfl, rfl, rfl, rfl⟩ := hx.unique hx'
        simp only [openSpan, hn, h2]
        have := h3 (fun e => { e with stop := none })
        show modifyEntry _ _ m = _
        rw [← this]; rfl
    · intro hx
      rcases mergeTarget_spec kind d start m with ⟨h2, -⟩ | ⟨b', e', a', z', hx', -, -⟩
      · have heq : openedEntry kind start d = newEntry kind start none d false := rfl
        have sp := addEntry_spec (newEntry kind start none d false) m
        have hos : openSpan kind start d m =
            match addEntry (newEntry kind start none d false) m with
            | some (m', _) => m'
            | none => m := by simp only [openSpan, hn, h2]; rfl
        rw [heq, hos]
        refine ⟨fun hr => ?_, fun hl hr => ?_, fun hl hr => ?_, fun hl hr => ?_⟩
        · obtain ⟨m', h4, h5⟩ := sp.1 hr; simpa [h4] using h5
        · obtain ⟨m', h4, h5⟩ := sp.2.1 hl hr; simpa [h4] using h5
        · obtain ⟨m', h4, h5⟩ := sp.2.2.1 hl hr hk; simpa [h4] using h5
        · have h4 := sp.2.2.2.2 hl hr; simp [h4]
      · exact absurd hx' (hx b' e' a' z')

theorem release_eq (kind : MapKind) (position : Pos) (e : MapEntry) (hk : kind = .register ∨ kind = .emboss) :
    MapEntry.release kind position e = releasedEntry kind position e := by
  rcases hk with rfl | rfl <;> unfold MapEntry.release releasedEntry <;>
    cases h1 : e.forRegister <;> cases h2 : e.forEmboss <;> cases h3 : e.pendingEnd <;> simp_all [laterOf]

/-- What an owner's judgment makes of the map. -/
theorem spanJudged (kind : MapKind) (position : Pos) (fault : Option Detail) (m : WebMap)
    (hk : kind = .register ∨ kind = .emboss) :
    SpanJudged kind position fault m
      (match fault with
        | some d => openSpan kind position d (releaseKind kind position m)
        | none => closeSpan kind position (releaseKind kind position m)) := by
  have hr : releaseKind kind position m = { m with entries := m.entries.map (releasedEntry kind position) } := by
    unfold releaseKind
    congr 1
    exact List.map_congr_left (fun e _ => release_eq kind position e hk)
  refine ⟨_, rfl, ?_, ?_⟩
  · rintro rfl
    simp only [hr, closeSpan]
    congr 1
    refine List.map_congr_left (fun e _ => ?_)
    have : e.isOpenOf kind = true ↔ e.kind = kind ∧ e.stop = none := by
      cases h : e.stop <;> simp [MapEntry.isOpenOf, h]
    by_cases h : e.kind = kind ∧ e.stop = none
    · rw [if_pos h, if_pos (this.2 h)]
    · rw [if_neg h, if_neg (fun hh => h (this.1 hh))]
  · rintro d rfl
    simp only [hr]
    exact openSpan_opened kind position d _ (by rcases hk with rfl | rfl <;> simp)

end Sys2Proof.Safety
end

