-- ==== Sys2Proof/Laws/Plan.lean ====
section
/-!
SUPPORT. What placing a segment's end and planning the next segment can do, said once (07).
-/

namespace Sys2Proof.Machine

open Sys2Proof.Safety

/-- The arithmetic that places an end (R113). -/
theorem usesMatch_eq (s : State) : usesMatch s = MatchUsed s := by
  unfold usesMatch MatchUsed Recipe.matchedMode
  cases s.clock.k0 <;> simp [beq_eq_decide]

theorem firstMatch_iff (s : State) (x y : Pos) : FirstMatch s x y ↔ y = firstMatch s x := by
  unfold FirstMatch firstMatch matchOrigin
  rw [usesMatch_eq]
  unfold MatchUsed
  cases hk : s.clock.k0 with
  | none => simp
  | some k =>
    by_cases hm : s.recipe.cutModeField = 0
    · simp [hm]
    · simp [hm]

theorem lastMatch_iff (s : State) (x y : Pos) : LastMatch s x y ↔ y = lastMatch s x := by
  unfold LastMatch lastMatch matchOrigin
  rw [usesMatch_eq]
  unfold MatchUsed
  cases hk : s.clock.k0 with
  | none => simp
  | some k =>
    by_cases hm : s.recipe.cutModeField = 0
    · simp [hm, sub_sub]
    · simp [hm]

/-- A plan whose cut due point is not reached is left as it is (R119). -/
theorem settlePlan_notDue (n : Nat) (s : State) (h : dueNow s = none) : settlePlan n s = s := by
  cases n <;> simp [settlePlan, h]

theorem dueNow_none (s : State) (p : Plan) (c : Pos) (hp : s.roll.plan = some p) (hc : p.stop = some c)
    (h : DueAhead s c) : dueNow s = none := by
  unfold dueNow duePoint
  rw [hp]
  unfold DueAhead at h
  simp only
  rw [hc]
  cases hph : p.phase
  · show (if c + (s.geometry.dK : Int) - s.recipe.cutLead ≤ s.web.w then some (p, c) else none) = none
    exact if_neg (Int.not_le.2 h)
  · rfl

/-- Placing an end changes the plan and its record alone (R111, R113). -/
theorem placeEnd_placed (p : Plan) (c : Pos) (s : State) :
    EndPlaced p c s (placeEnd p c s) ∧ placeEnd p c s = { s with roll := (placeEnd p c s).roll } := by
  unfold placeEnd
  cases h : p.record with
  | none =>
    simp only [putPlan]
    refine ⟨⟨?_, fun _ => rfl, ?_, fun j _ => rfl⟩, trivial⟩
    · simp [usesMatch_eq, h]
    · intro i hi; simp [h] at hi
  | some i =>
    simp only
    refine ⟨⟨?_, fun hh => by simp [h] at hh, ?_, ?_⟩, ?_⟩
    · rw [modifyRecord_eq]; simp [putPlan, usesMatch_eq, h]
    · intro j hj
      rw [h] at hj; cases hj
      rw [modifyRecord_same, usesMatch_eq]
      split
      · rename_i hh
        constructor
        · exact (congrArg RollRecord.stop hh).symm
        · exact (congrArg RollRecord.unmatched hh).symm
      · exact ⟨rfl, rfl⟩
    · intro j hj
      rw [modifyRecord_other]
      · rfl
      · rintro rfl; exact hj h
    · rw [modifyRecord_eq]; rfl

/-- The splices at or beyond a position, in map order. -/
def splicesFrom (start : Pos) (m : WebMap) : List Pos := (splices m).filter (fun p => decide (start ≤ p))

theorem guarded_fold (s : State) (e : Pos) (zs : List Pos) (e' : Pos) (h : Guarded s e zs e') :
    zs.foldl (guardWaste s) e = e' := by
  induction zs generalizing e with
  | nil => exact h.symm
  | cons z zs ih =>
    obtain ⟨y, hy, hg⟩ := h
    rw [(firstMatch_iff s _ y).1 hy] at hg
    exact ih _ hg

theorem dodgeEnd_eq (s : State) (start z c : Pos) (hl : LastMatch s (z - s.recipe.spliceGuard) c) :
    (Dodges s start z c → dodgeEnd s start z = some c) ∧ (¬ Dodges s start z c → dodgeEnd s start z = none) := by
  have hc := (lastMatch_iff s _ c).1 hl
  unfold dodgeEnd
  simp only
  rw [← hc]
  exact ⟨fun h => if_pos h, fun h => if_neg h⟩

/-- The plan of a SALE segment is the one R114 describes. -/
theorem salePlan_planned (s : State) (start : Pos) :
    SalePlanned s start (splicesFrom start s.map) (salePlan s start) := by
  constructor
  · unfold salePlan
    simp only
    split
    · simp [usesMatch_eq]
    · split
      · simp [usesMatch_eq]
      · split <;> simp [usesMatch_eq]
  · intro c hc hz
    have hc := (firstMatch_iff s _ c).1 hc
    unfold salePlan
    simp only
    rw [← hc]
    unfold splicesFrom at hz
    split
    · exact ⟨rfl, rfl, rfl, rfl⟩
    · rename_i z later hs
      rw [hs] at hz
      rw [if_pos (hz z (by simp))]
      exact ⟨rfl, rfl, rfl, rfl⟩
  · intro c z later c' e e' hc hz hlt hl hd he hg
    have hc := (firstMatch_iff s _ c).1 hc
    have he := (firstMatch_iff s _ e).1 he
    unfold splicesFrom at hz
    unfold salePlan
    simp only
    rw [← hc, hz]
    simp only
    rw [if_neg (Int.not_le.2 hlt), (dodgeEnd_eq s start z c' hl).1 hd]
    have hf : followingEnd s z c' = e := he.symm
    simp only [hf, guarded_fold s e later e' hg, usesMatch_eq]
    exact ⟨trivial, trivial, trivial, trivial⟩
  · intro c z later c' e e' hc hz hlt hl hd he hg
    have hc := (firstMatch_iff s _ c).1 hc
    have he := (firstMatch_iff s _ e).1 he
    unfold splicesFrom at hz
    unfold salePlan
    simp only
    rw [← hc, hz]
    simp only
    rw [if_neg (Int.not_le.2 hlt), (dodgeEnd_eq s start z c' hl).2 hd]
    simp only
    rw [← he, guarded_fold s e later e' hg]
    refine ⟨?_, ?_, ?_, ?_⟩ <;> trivial

end Sys2Proof.Machine
end

