-- ==== Sys2Proof/Laws/Share.lean ====
section
/-!
SUPPORT. What a segment's share of the web map and of the sample queue makes of a roll record, said once (06, 08).
-/

namespace Sys2Proof.Machine

open Sys2Proof.Safety

/-! ### Charges (R104) -/

@[simp] theorem addItem_registerOff (r : RollRecord) (x : DefectItem) :
    (r.addItem x).registerOff = r.registerOff := by unfold RollRecord.addItem; split <;> rfl

@[simp] theorem addItem_embossOff (r : RollRecord) (x : DefectItem) :
    (r.addItem x).embossOff = r.embossOff := by unfold RollRecord.addItem; split <;> rfl

@[simp] theorem addItem_defectTotal (r : RollRecord) (x : DefectItem) :
    (r.addItem x).defectTotal = r.defectTotal := by unfold RollRecord.addItem; split <;> rfl

@[simp] theorem addItem_splice (r : RollRecord) (x : DefectItem) :
    (r.addItem x).splice = r.splice := by unfold RollRecord.addItem; split <;> rfl

theorem addItem_defects (r : RollRecord) (x : DefectItem) :
    (r.addItem x).defects = if r.defects.length < 8 then r.defects ++ [x] else r.defects := by
  unfold RollRecord.addItem; split <;> rfl

theorem addItem_overflow (r : RollRecord) (x : DefectItem) :
    (r.addItem x).defectOverflow =
      if r.defects.length < 8 then r.defectOverflow else bump max16 r.defectOverflow := by
  unfold RollRecord.addItem; split <;> rfl

theorem charge_registerOff (r : RollRecord) (x : DefectItem) :
    (r.charge x).registerOff =
      if x.kind = .register then addHeld max32 r.registerOff x.length.toNat else r.registerOff := by
  unfold RollRecord.charge; cases x.kind <;> simp

theorem charge_embossOff (r : RollRecord) (x : DefectItem) :
    (r.charge x).embossOff =
      if x.kind = .emboss then addHeld max32 r.embossOff x.length.toNat else r.embossOff := by
  unfold RollRecord.charge; cases x.kind <;> simp

theorem charge_defectTotal (r : RollRecord) (x : DefectItem) :
    (r.charge x).defectTotal =
      if x.kind = .defect then addHeld max32 r.defectTotal x.length.toNat else r.defectTotal := by
  unfold RollRecord.charge; cases x.kind <;> simp

theorem charge_splice (r : RollRecord) (x : DefectItem) :
    (r.charge x).splice = (r.splice || x.kind == .splice) := by
  unfold RollRecord.charge; cases x.kind <;> simp

theorem charge_defects (r : RollRecord) (x : DefectItem) :
    (r.charge x).defects = if r.defects.length < 8 then r.defects ++ [x] else r.defects := by
  unfold RollRecord.charge; cases x.kind <;> simp [addItem_defects]

theorem charge_overflow (r : RollRecord) (x : DefectItem) :
    (r.charge x).defectOverflow =
      if r.defects.length < 8 then r.defectOverflow else bump max16 r.defectOverflow := by
  unfold RollRecord.charge; cases x.kind <;> simp [addItem_overflow]

/-- A total that holds at its limit, charged once more (Conventions, Counters). -/
theorem held_cons (limit a : Nat) (kind : MapKind) (xs : List DefectItem) (x : DefectItem) (y : Nat)
    (h : ∀ c, c ≤ limit → c = (if x.kind = kind then addHeld limit a x.length.toNat else a) →
      y = min limit (c + chargedLength kind xs)) (ha : a ≤ limit) :
    y = min limit (a + chargedLength kind (x :: xs)) := by
  have h2 := h _ (by split <;> simp [addHeld, ha]) rfl
  rw [h2]
  by_cases hk : x.kind = kind
  · simp only [hk, if_true, addHeld, chargedLength, List.filter_cons, beq_self_eq_true, List.map_cons, List.sum_cons]
    omega
  · simp [hk, chargedLength]

/-- Charging the items in turn leaves what R104 says. -/
theorem charge_charged (xs : List DefectItem) : ∀ r : RollRecord, Charged xs r (xs.foldl RollRecord.charge r) := by
  induction xs with
  | nil =>
    intro r
    exact ⟨fun h => by simp [chargedLength]; omega, fun h => by simp [chargedLength]; omega,
      fun h => by simp [chargedLength]; omega, by simp, fun h => by simp [List.take_of_length_le h],
      fun h h2 => by simp; omega⟩
  | cons x xs ih =>
    intro r
    have step := ih (r.charge x)
    simp only [List.foldl_cons]
    generalize xs.foldl RollRecord.charge (r.charge x) = r' at step ⊢
    have hlen : r.defects.length ≤ 8 → (r.charge x).defects.length ≤ 8 := by
      intro h; rw [charge_defects]; split
      · rw [List.length_append, List.length_singleton]; omega
      · exact h
    refine ⟨fun h => held_cons _ _ _ _ _ _ (fun c hc e => ?_) h,
      fun h => held_cons _ _ _ _ _ _ (fun c hc e => ?_) h,
      fun h => held_cons _ _ _ _ _ _ (fun c hc e => ?_) h, ?_, fun h => ?_, fun h h2 => ?_⟩
    · have e2 := charge_registerOff r x; rw [show max32 = 4294967295 from rfl, ← e] at e2
      have := step.register (by omega); rw [e2] at this; exact this
    · have e2 := charge_embossOff r x; rw [show max32 = 4294967295 from rfl, ← e] at e2
      have := step.emboss (by omega); rw [e2] at this; exact this
    · have e2 := charge_defectTotal r x; rw [show max32 = 4294967295 from rfl, ← e] at e2
      have := step.defect (by omega); rw [e2] at this; exact this
    · rw [step.splice, charge_splice]; simp [Bool.or_assoc]
    · rw [step.items (hlen h), charge_defects]
      split
      · simp
      · rename_i h8
        have : r.defects.length = 8 := by omega
        simp [this]
    · have ho : (r.charge x).defectOverflow ≤ 65535 := by
        rw [charge_overflow]; split
        · exact h2
        · rw [bump_max16]; omega
      rw [step.overflow (hlen h) ho, charge_overflow, charge_defects]
      split
      · simp; congr 1; omega
      · rw [bump_max16, List.length_cons]; omega

/-! ### Samples (R137, R139) -/

theorem accumulate_range (xs : List Sample) : ∀ (a : Accumulator) (y : ShadeRange), a.range = some y →
    ∃ x, (xs.foldl (fun a x => a.take x.shade) a).range = some x ∧
      x.least.l = (xs.map (fun y => y.shade.l)).foldl min y.least.l ∧
      x.least.a = (xs.map (fun y => y.shade.a)).foldl min y.least.a ∧
      x.least.b = (xs.map (fun y => y.shade.b)).foldl min y.least.b ∧
      x.greatest.l = (xs.map (fun y => y.shade.l)).foldl max y.greatest.l ∧
      x.greatest.a = (xs.map (fun y => y.shade.a)).foldl max y.greatest.a ∧
      x.greatest.b = (xs.map (fun y => y.shade.b)).foldl max y.greatest.b := by
  induction xs with
  | nil => intro a y h; exact ⟨y, h, rfl, rfl, rfl, rfl, rfl, rfl⟩
  | cons x xs ih =>
    intro a y h
    have h2 : (a.take x.shade).range =
        some ⟨y.least.least x.shade, y.greatest.greatest x.shade⟩ := by
      simp [Accumulator.take, joinRange, h]
    exact ih _ _ h2

theorem accumulate_sums (xs : List Sample) : ∀ a : Accumulator,
    (xs.foldl (fun a x => a.take x.shade) a).n = a.n + xs.length ∧
    (xs.foldl (fun a x => a.take x.shade) a).sum =
      ⟨a.sum.l + (xs.map (fun x => x.shade.l)).sum, a.sum.a + (xs.map (fun x => x.shade.a)).sum,
        a.sum.b + (xs.map (fun x => x.shade.b)).sum⟩ := by
  induction xs with
  | nil => intro a; simp
  | cons x xs ih =>
    intro a
    simp only [List.foldl_cons, List.map_cons, List.sum_cons, List.length_cons]
    have := ih (a.take x.shade)
    simp only [Accumulator.take, Shade.add] at this ⊢
    refine ⟨by omega, ?_⟩
    rw [this.2]
    simp [Int.add_assoc]

/-- Taking the samples in turn accumulates them (R139). -/
theorem accumulate_accumulated (xs : List Sample) (a : Accumulator) :
    Accumulated xs a (xs.foldl (fun a x => a.take x.shade) a) := by
  refine ⟨(accumulate_sums xs a).1, (accumulate_sums xs a).2, fun h => by rw [h]; rfl, fun h => ?_⟩
  obtain ⟨x, rest, rfl⟩ := List.exists_cons_of_ne_nil h
  cases hr : a.range with
  | none =>
    obtain ⟨z, hz, h1, h2, h3, h4, h5, h6⟩ := accumulate_range rest (a.take x.shade) ⟨x.shade, x.shade⟩
      (by simp [Accumulator.take, joinRange, hr])
    exact ⟨z, hz, by simp [List.min?, List.max?, *]⟩
  | some y =>
    obtain ⟨z, hz, h1, h2, h3, h4, h5, h6⟩ := accumulate_range rest (a.take x.shade)
      ⟨y.least.least x.shade, y.greatest.greatest x.shade⟩ (by simp [Accumulator.take, joinRange, hr])
    exact ⟨z, hz, by simp [List.min?, List.max?, Shade.least, Shade.greatest, *]⟩

/-- The samples of `xs` that a record takes for a segment from `start` on (R137, R139). -/
def takenOf (start : Pos) (r : RollRecord) (xs : List Sample) : List Sample :=
  if r.kind = .sale then (xs.filter (fun x => decide (start ≤ x.position))).take (65535 - r.shade.n) else []

/-- A change to a record, with the revision count set apart (R111). -/
theorem modifyRecord_parts (i : Fin 24) (f : RollRecord → RollRecord) (s : State)
    (hf : ∀ r n, f { r with revision := n } = { f r with revision := n }) :
    (modifyRecord i f s).record i = { f (s.record i) with revision := ((modifyRecord i f s).record i).revision } := by
  rw [modifyRecord_same]
  split
  · rename_i h
    have := hf (s.record i) (s.record i).revision
    rw [h] at this ⊢
  · rfl

/-- What the samples `xs`, taken from the queue in turn for a tracked segment, leave (R137, R139). -/
structure Drained (i : Fin 24) (start : Pos) (xs : List Sample) (s t : State) : Prop where
  record : t.record i = { s.record i with
    shade := (takenOf start (s.record i) xs).foldl (fun a x => a.take x.shade) (s.record i).shade
    revision := (t.record i).revision }
  others : ∀ j, j ≠ i → t.record j = s.record j
  rest : t = { s with
    roll := { s.roll with records := t.roll.records }
    shade := { s.shade with wasteSamples := t.shade.wasteSamples } }
  waste : s.shade.wasteSamples ≤ 4294967295 →
    t.shade.wasteSamples =
      min 4294967295 (s.shade.wasteSamples + (xs.length - (takenOf start (s.record i) xs).length))

theorem takenOf_length (start : Pos) (r : RollRecord) (xs : List Sample) :
    (takenOf start r xs).length ≤ xs.length := by
  unfold takenOf
  split
  · rw [List.length_take]
    have := List.length_filter_le (fun x : Sample => decide (start ≤ x.position)) xs
    omega
  · simp

theorem drain_drained (i : Fin 24) (start : Pos) (xs : List Sample) : ∀ s : State,
    Drained i start xs s (xs.foldl (fun s x => drainSample (some i) start x s) s) := by
  induction xs with
  | nil =>
    intro s
    refine ⟨?_, fun _ _ => rfl, rfl, fun h => ?_⟩
    · simp [takenOf]
    · simp only [List.foldl_nil]; unfold takenOf; split <;> simp <;> omega
  | cons x xs ih =>
    intro s
    rw [List.foldl_cons]
    by_cases hc : start ≤ x.position ∧ (s.record i).kind = .sale ∧ (s.record i).shade.n < max16
    · have hd : drainSample (some i) start x s =
          modifyRecord i (fun r => { r with shade := r.shade.take x.shade }) s := by
        simp only [drainSample]; exact if_pos hc
      have step := ih (drainSample (some i) start x s)
      rw [hd] at step ⊢
      generalize ht : xs.foldl (fun s x => drainSample (some i) start x s) _ = t at step ⊢
      have hr := modifyRecord_parts i (fun r => { r with shade := r.shade.take x.shade }) s (fun _ _ => rfl)
      have ht : takenOf start (s.record i) (x :: xs) =
          x :: takenOf start ((modifyRecord i (fun r => { r with shade := r.shade.take x.shade }) s).record i) xs := by
        rw [hr]
        simp only [takenOf, hc.2.1, if_true, Accumulator.take, List.filter_cons, hc.1, decide_true]
        have : 65535 - (s.record i).shade.n = (65535 - ((s.record i).shade.n + 1)) + 1 := by
          have := hc.2.2; simp only [max16] at this; omega
        rw [this, List.take_succ_cons]
      have he := modifyRecord_eq i (fun r => { r with shade := r.shade.take x.shade }) s
      refine ⟨?_, fun j hj => ?_, ?_, fun hw => ?_⟩
      · rw [ht, step.record, List.foldl_cons, hr]
      · rw [step.others j hj, modifyRecord_other _ _ _ _ (Ne.symm hj)]
      · rw [step.rest, he]
      · have := step.waste (by rw [he]; exact hw)
        rw [this, ht, he]
        simp only [List.length_cons]
        congr 2
        omega
    · have hd : drainSample (some i) start x s = wasteSamples 1 s := by
        simp only [drainSample]; exact if_neg hc
      have step := ih (drainSample (some i) start x s)
      rw [hd] at step ⊢
      generalize ht : xs.foldl (fun s x => drainSample (some i) start x s) _ = t at step ⊢
      have hr : (wasteSamples 1 s).record i = s.record i := rfl
      have ht : takenOf start (s.record i) (x :: xs) = takenOf start (s.record i) xs := by
        unfold takenOf
        split
        · rename_i hk
          rw [List.filter_cons]
          split
          · rename_i hp
            have : 65535 - (s.record i).shade.n = 0 := by
              have : ¬ (s.record i).shade.n < max16 := fun h => hc ⟨by simpa using hp, hk, h⟩
              simp only [max16] at this; omega
            simp [this]
          · rfl
        · rfl
      refine ⟨?_, fun j hj => ?_, ?_, fun hw => ?_⟩
      · rw [step.record, hr, ht]
      · rw [step.others j hj]; rfl
      · rw [step.rest]; rfl
      · have := step.waste (by simp [wasteSamples, addHeld, max32])
        rw [this, hr, ht]
        have hl := takenOf_length start (s.record i) xs
        simp only [wasteSamples, addHeld, max32, List.length_cons]
        omega

/-- A charge changes the totals, the splice flag and the defect list with its overflow count alone (R104). -/
theorem charge_rest (xs : List DefectItem) : ∀ r : RollRecord,
    xs.foldl RollRecord.charge r = { r with
      registerOff := (xs.foldl RollRecord.charge r).registerOff
      embossOff := (xs.foldl RollRecord.charge r).embossOff
      defectTotal := (xs.foldl RollRecord.charge r).defectTotal
      splice := (xs.foldl RollRecord.charge r).splice
      defects := (xs.foldl RollRecord.charge r).defects
      defectOverflow := (xs.foldl RollRecord.charge r).defectOverflow } := by
  induction xs with
  | nil => intro r; rfl
  | cons x xs ih =>
    intro r
    have h : r.charge x = { r with
        registerOff := (r.charge x).registerOff, embossOff := (r.charge x).embossOff
        defectTotal := (r.charge x).defectTotal, splice := (r.charge x).splice
        defects := (r.charge x).defects, defectOverflow := (r.charge x).defectOverflow } := by
      unfold RollRecord.charge RollRecord.addItem
      cases x.kind <;> simp only <;> split <;> rfl
    have step := ih (r.charge x)
    rw [List.foldl_cons]
    generalize r.charge x = q at h step ⊢
    generalize xs.foldl RollRecord.charge q = y at step ⊢
    cases y; cases q; cases r
    simp_all

theorem charge_revision (r : RollRecord) (x : DefectItem) (n : Nat) :
    ({ r with revision := n } : RollRecord).charge x = { r.charge x with revision := n } := by
  unfold RollRecord.charge RollRecord.addItem; cases x.kind <;> simp only <;> split <;> rfl

theorem charges_revision (xs : List DefectItem) : ∀ (r : RollRecord) (n : Nat),
    xs.foldl RollRecord.charge { r with revision := n } = { xs.foldl RollRecord.charge r with revision := n } := by
  induction xs with
  | nil => intro r n; rfl
  | cons x xs ih => intro r n; rw [List.foldl_cons, charge_revision, ih]; rfl

/-- Charging a record with the items in turn changes that record alone (R104). -/
theorem charged_record (i : Fin 24) (xs : List DefectItem) : ∀ s : State,
    (xs.foldl (fun s x => modifyRecord i (fun r => r.charge x) s) s).record i =
      { xs.foldl RollRecord.charge (s.record i) with
        revision := ((xs.foldl (fun s x => modifyRecord i (fun r => r.charge x) s) s).record i).revision } ∧
    (∀ j, j ≠ i → (xs.foldl (fun s x => modifyRecord i (fun r => r.charge x) s) s).record j = s.record j) ∧
    xs.foldl (fun s x => modifyRecord i (fun r => r.charge x) s) s = { s with roll := { s.roll with
      records := (xs.foldl (fun s x => modifyRecord i (fun r => r.charge x) s) s).roll.records } } := by
  induction xs with
  | nil => intro s; exact ⟨rfl, fun _ _ => rfl, rfl⟩
  | cons x xs ih =>
    intro s
    simp only [List.foldl_cons]
    obtain ⟨h1, h2, h3⟩ := ih (modifyRecord i (fun r => r.charge x) s)
    have hr := modifyRecord_parts i (fun r => r.charge x) s (fun r n => by
      simp only; rw [charge_revision])
    have he := modifyRecord_eq i (fun r => r.charge x) s
    refine ⟨?_, fun j hj => ?_, ?_⟩
    · rw [h1, hr, charges_revision]
    · rw [h2 j hj, modifyRecord_other _ _ _ _ (Ne.symm hj)]
    · rw [h3, he]

/-- What the share of a tracked segment [start, c) leaves (R103, R104, R137 to R139). -/
structure SegmentShared (i : Fin 24) (p : Plan) (c : Pos) (s t : State) : Prop where
  share : ShareTaken p.start c s.map s.shade (s.record i) (t.record i)
  record : t.record i = { s.record i with
    registerOff := (t.record i).registerOff, embossOff := (t.record i).embossOff
    defectTotal := (t.record i).defectTotal, splice := (t.record i).splice, defects := (t.record i).defects
    defectOverflow := (t.record i).defectOverflow, shade := (t.record i).shade
    thinSampling := (t.record i).thinSampling, revision := (t.record i).revision }
  others : ∀ j, j ≠ i → t.record j = s.record j
  rest : t = { s with
    roll := { s.roll with records := t.roll.records }, map := consumed p.start c s.map
    shade := { s.shade with
      queue := s.shade.queue.filter (fun x => decide (c ≤ x.position)), thin := false
      wasteSamples := t.shade.wasteSamples } }
  waste : SamplesWasted p c (s.shade.queue.filter (fun x => decide (x.position < c))) s t

theorem takenOf_removed (start c : Pos) (r : RollRecord) (queue : List Sample) :
    takenOf start r (queue.filter (fun x => decide (x.position < c))) = samplesTaken start c r queue := by
  unfold takenOf samplesTaken
  rw [List.filter_filter]
  simp only [Bool.decide_and]

theorem charges_charged (start c : Pos) (m : WebMap) (r r' : RollRecord) (n : Nat) (x : Accumulator) (b : Bool)
    (h : r' = { (charges start c m).foldl RollRecord.charge r with revision := n, shade := x, thinSampling := b }) :
    Charged (charges start c m) r r' := by
  have := charge_charged (charges start c m) r
  subst h
  exact ⟨this.register, this.emboss, this.defect, this.splice, this.items, this.overflow⟩

theorem consumeSegment_tracked (i : Fin 24) (p : Plan) (c : Pos) (s : State) (hp : p.record = some i) :
    SegmentShared i p c s (consumeSegment p c s) := by
  obtain ⟨m1, m2, m3⟩ := charged_record i (charges p.start c s.map) s
  generalize ha : (charges p.start c s.map).foldl (fun s x => modifyRecord i (fun r => r.charge x) s) s = a
    at m1 m2 m3
  have hm : consumeMap p.record p.start c s = { a with map := consumed p.start c s.map } := by
    unfold consumeMap; rw [hp]; simp only [ha]
  have d := drain_drained i p.start (s.shade.queue.filter (fun x => decide (x.position < c)))
    { a with map := consumed p.start c s.map, shade := { s.shade with
      queue := s.shade.queue.filter (fun x => !decide (x.position < c)) } }
  generalize hb : (s.shade.queue.filter (fun x => decide (x.position < c))).foldl
    (fun s x => drainSample (some i) p.start x s) { a with map := consumed p.start c s.map, shade := { s.shade with
      queue := s.shade.queue.filter (fun x => !decide (x.position < c)) } } = b at d
  have hs : a.shade = s.shade := by rw [m3]
  have ht : consumeSegment p c s = { markThin (some i) b with
      shade := { (markThin (some i) b).shade with thin := false } } := by
    unfold consumeSegment drainSamples
    rw [hm]
    simp only [hp, hs, hb]
  have hbthin : b.shade.thin = s.shade.thin := by rw [d.rest]
  have hmark : (markThin (some i) b).record i = { b.record i with
      thinSampling := ((b.record i).thinSampling || b.shade.thin)
      revision := ((markThin (some i) b).record i).revision } ∧
      (∀ j, j ≠ i → (markThin (some i) b).record j = b.record j) ∧
      markThin (some i) b = { b with roll := { b.roll with records := (markThin (some i) b).roll.records } } := by
    unfold markThin
    by_cases h : b.shade.thin = true
    · simp only [h, if_true, Bool.or_true]
      exact ⟨modifyRecord_parts i (fun r => { r with thinSampling := true }) b (fun _ _ => rfl),
        fun j hj => modifyRecord_other _ _ _ _ (Ne.symm hj), modifyRecord_eq _ _ _⟩
    · simp only [h, Bool.or_false]
      exact ⟨rfl, fun _ _ => rfl, rfl⟩
  obtain ⟨k1, k2, k3⟩ := hmark
  generalize hk : markThin (some i) b = k at k1 k2 k3 ht
  have hrec : (consumeSegment p c s).record i = k.record i := by rw [ht]; rfl
  have hoth : ∀ j, (consumeSegment p c s).record j = k.record j := by intro j; rw [ht]; rfl
  have dr := d.record
  have harec : ({ a with map := consumed p.start c s.map, shade := { s.shade with
      queue := s.shade.queue.filter (fun x => !decide (x.position < c)) } } : State).record i = a.record i := rfl
  rw [harec] at dr
  have htk : takenOf p.start (a.record i) (s.shade.queue.filter (fun x => decide (x.position < c))) =
      samplesTaken p.start c (s.record i) s.shade.queue := by
    rw [takenOf_removed, m1, charge_rest]; rfl
  rw [htk] at dr
  have whole : (consumeSegment p c s).record i = { (charges p.start c s.map).foldl RollRecord.charge (s.record i) with
      shade := (samplesTaken p.start c (s.record i) s.shade.queue).foldl (fun a x => a.take x.shade)
        (s.record i).shade
      thinSampling := (s.record i).thinSampling || s.shade.thin
      revision := ((consumeSegment p c s).record i).revision } := by
    rw [hrec, k1, dr, hbthin, m1]
    rw [charge_rest]
  refine ⟨⟨?_, ?_, ?_⟩, ?_, ?_, ?_, ?_⟩
  · exact charges_charged _ _ _ _ _ _ _ _ whole
  · rw [whole]; exact accumulate_accumulated _ _
  · rw [whole]
  · rw [whole, charge_rest]
  · intro j hj
    rw [hoth, k2 j hj, d.others j hj]
    exact m2 j hj
  · rw [ht, k3, d.rest, m3]
    simp [← decide_not]
  · intro hw
    have := d.waste (by exact hw)
    rw [ht, k3]
    simp only [hp]
    rw [this, harec, htk]

/-- The share of an untracked segment leaves every record (R106, R137). -/
theorem consumeSegment_untracked (p : Plan) (c : Pos) (s : State) (hp : p.record = none) :
    consumeSegment p c s = { s with
      map := consumed p.start c s.map
      shade := { s.shade with
        queue := s.shade.queue.filter (fun x => decide (c ≤ x.position)), thin := false
        wasteSamples := (consumeSegment p c s).shade.wasteSamples } } ∧
    SamplesWasted p c (s.shade.queue.filter (fun x => decide (x.position < c))) s (consumeSegment p c s) := by
  have hd : ∀ (xs : List Sample) (s : State), (xs.foldl (fun s x => drainSample none p.start x s) s) =
      { s with shade := { s.shade with
        wasteSamples := (xs.foldl (fun s x => drainSample none p.start x s) s).shade.wasteSamples } } ∧
      (s.shade.wasteSamples ≤ 4294967295 →
      (xs.foldl (fun s x => drainSample none p.start x s) s).shade.wasteSamples =
        min 4294967295 (s.shade.wasteSamples + xs.length)) := by
    intro xs
    induction xs with
    | nil => intro s; exact ⟨rfl, fun h => by simp; omega⟩
    | cons x xs ih =>
      intro s
      obtain ⟨h1, h2⟩ := ih (drainSample none p.start x s)
      rw [List.foldl_cons]
      generalize hx : xs.foldl (fun s x => drainSample none p.start x s) (drainSample none p.start x s) = y at h1 h2 ⊢
      refine ⟨by rw [h1]; rfl, fun h => ?_⟩
      rw [h2 (by simp [drainSample, wasteSamples, addHeld, max32])]
      simp only [drainSample, wasteSamples, addHeld, max32, List.length_cons]
      omega
  unfold consumeSegment drainSamples consumeMap
  simp only [hp, markThin]
  obtain ⟨h1, h2⟩ := hd (s.shade.queue.filter (fun x => decide (x.position < c)))
    { s with map := consumed p.start c s.map, shade := { s.shade with
      queue := s.shade.queue.filter (fun x => !decide (x.position < c)) } }
  generalize (s.shade.queue.filter (fun x => decide (x.position < c))).foldl
    (fun s x => drainSample none p.start x s) _ = y at h1 h2 ⊢
  refine ⟨?_, ?_⟩
  · rw [h1]; simp [← decide_not]
  · intro hw
    simp only [hp]
    rw [h2 hw]; simp

end Sys2Proof.Machine
end

