-- ==== Sys2Proof/Laws/Cut.lean ====
section
/-!
SUPPORT. What finishing a roll record and ending the AWAITING cut can do, and which record a plan takes, said once
(07).
-/

namespace Sys2Proof.Machine

open Sys2Proof.Safety

/-! ### Finishing a record (R130, R131) -/

/-- What grading record i, or freeing it once its length is counted, can touch. -/
structure Finishing (i : Fin 24) (s t : State) : Prop where
  rest : t = { s with
    line := { s.line with holds := t.line.holds }
    roll := { s.roll with
      records := t.roll.records, saleCounter := t.roll.saleCounter }
    shade := { s.shade with batches := t.shade.batches }
    label := t.label, store := t.store, ports := t.ports }
  others : ∀ j, j ≠ i → t.record j = s.record j

theorem Finishing.refl (i : Fin 24) (s : State) : Finishing i s s := ⟨rfl, fun _ _ => rfl⟩

theorem Finishing.trans {i : Fin 24} {s t u : State} (a : Finishing i s t) (b : Finishing i t u) :
    Finishing i s u := by
  refine ⟨?_, fun j hj => (b.others j hj).trans (a.others j hj)⟩
  have h1 := a.rest
  have h2 := b.rest
  rw [h2, h1]

theorem finishing_modify (i : Fin 24) (f : RollRecord → RollRecord) (s : State) :
    Finishing i s (modifyRecord i f s) :=
  ⟨by rw [modifyRecord_eq], fun _ hj => modifyRecord_other _ _ _ _ (Ne.symm hj)⟩

theorem finishing_evalHolds (i : Fin 24) (s : State) : Finishing i s (evalHolds s) :=
  ⟨by rw [evalHolds_eq], fun j _ => by unfold State.record; rw [evalHolds_eq]⟩

theorem finishing_startHead (i : Fin 24) (n : Fin 4) (k : Nat) (s : State) :
    Finishing i s (startHead (.batchWrite n k) s) := by
  simp only [startHead]
  split <;> exact ⟨rfl, fun _ _ => rfl⟩

theorem finishing_push (i : Fin 24) (op : StoreOp) (s : State) : Finishing i s (pushOp op s) :=
  ⟨rfl, fun _ _ => rfl⟩

theorem finishing_sample (i : Fin 24) (s : State) : Finishing i s (sampleEnable s) := ⟨rfl, fun _ _ => rfl⟩

theorem finishing_wait (i : Fin 24) (s : State) : Finishing i s
    ({ s with store := { s.store with head := .waiting } }.raiseAll .store) := ⟨rfl, fun _ _ => rfl⟩

theorem finishing_enqueue (i : Fin 24) (n : Fin 4) (k : Nat) (s : State) (hd : (s.dir n).state ≠ .degraded) :
    Finishing i s (enqueue (.batchWrite n k) s) := by
  unfold enqueue
  split
  · rename_i h
    have hq : s.store.queue = [] := by simpa using h
    have ht : targetDegraded (.batchWrite n k) (pushOp (.batchWrite n k) s) = false := beq_eq_false_iff_ne.2 hd
    have hp : (pushOp (.batchWrite n k) s).store.queue = [.batchWrite n k] := by simp [pushOp, hq]
    refine Finishing.trans (finishing_push i (.batchWrite n k) s) ?_
    generalize pushOp (.batchWrite n k) s = u at ht hp ⊢
    rw [show headFuel = 63 + 1 from rfl, dealHead]
    simp only [hp, StoreOp.isRead, ht, appendIsFull, Bool.false_eq_true, if_false]
    refine Finishing.trans (finishing_sample i u) ?_
    split
    · exact finishing_startHead ..
    · exact finishing_wait ..
  · exact finishing_push ..

theorem finishing_batch (i : Fin 24) (k : Nat) (f : Batch → Batch) (s : State) : Finishing i s (modifyBatch k f s) :=
  ⟨rfl, fun _ _ => rfl⟩

theorem finishing_saveBatch (i : Fin 24) (k : Nat) (s : State) : Finishing i s (saveBatch k s) := by
  unfold saveBatch
  split
  · split
    · exact .refl _ _
    · dsimp only
      split
      · rename_i n hn
        have hd : ((modifyBatch k (fun b => { b with save := .unsaved }) s).dir n).state ≠ .degraded := by
          intro h
          unfold writableSlot at hn
          split at hn
          · split at hn
            · simp at hn
            · rename_i h2; simp at hn; subst hn; exact h2 (.inl h)
          · simp at hn
        split
        · refine Finishing.trans (t := modifyBatch k (fun b => { b with save := .unsaved }) s)
            (finishing_batch i k _ s) ?_
          generalize modifyBatch k (fun b => { b with save := .unsaved }) s = u at hd ⊢
          refine Finishing.trans (t := modifyBatch k (fun b => { b with save := .queued }) u)
            (finishing_batch i k _ _) (finishing_enqueue i n k _ hd)
        · exact finishing_batch ..
      · exact finishing_batch ..
  · exact .refl _ _

theorem finishing_batches (i : Fin 24) (bs : List Batch) (p : Port) (n : Notice) (s : State) :
    Finishing i s ({ s with shade := { s.shade with batches := bs } }.raise p n) := ⟨rfl, fun _ _ => rfl⟩

theorem finishing_found (i : Fin 24) (mean : Shade) (s : State) : Finishing i s (foundBatch i mean s) := by
  unfold foundBatch
  dsimp only
  generalize hx : ({ s with shade := { s.shade with batches := s.shade.batches ++ _ } } : State).raise
    .quality .batch = x
  refine Finishing.trans (t := x) ?_ (finishing_saveBatch ..)
  rw [← hx]
  exact finishing_batches ..

theorem finishing_foundOrUnclassed (i : Fin 24) (mean : Shade) (spread : Int) (d : Option Int) (low : Bool)
    (s : State) : Finishing i s (foundOrUnclassed i mean spread d low s) := by
  unfold foundOrUnclassed
  split
  · refine Finishing.trans (t := writeResult i ⟨some mean, some spread, .founded, d⟩
      (some (s.shade.batches.length + 1)) low s) (finishing_modify i _ s) ?_
    exact finishing_found ..
  · exact finishing_modify i _ s

theorem finishing_classify (i : Fin 24) (s : State) : Finishing i s (classify i s) := by
  unfold classify
  dsimp only
  split
  · exact finishing_modify i _ s
  · split
    · exact finishing_modify i _ s
    · unfold matchBatches
      dsimp only
      split
      · split
        · exact (finishing_modify i _ s).trans ((finishing_batch _ _ _ _).trans (finishing_saveBatch _ _ _))
        · exact finishing_foundOrUnclassed ..
      · exact finishing_foundOrUnclassed ..

theorem finishing_pushLabel (i : Fin 24) (s : State) : Finishing i s (pushLabel i s) := by
  refine (finishing_modify i (fun r => { r with state := .labelPending }) s).trans ?_
  unfold pushLabel
  dsimp only
  split <;> exact ⟨rfl, fun _ _ => rfl⟩

theorem finishing_joinLabel (i : Fin 24) (s : State) : Finishing i s (joinLabel i s) := by
  unfold joinLabel
  split
  · exact (finishing_pushLabel i s).trans (finishing_evalHolds _ _)
  · exact finishing_evalHolds _ _

theorem finishing_grade (i : Fin 24) (b : Bool) (s : State) : Finishing i s (gradeRecord i b s) := by
  unfold gradeRecord
  refine Finishing.trans ?_ (finishing_joinLabel _ _)
  refine Finishing.trans ?_ (finishing_modify _ _ _)
  refine Finishing.trans ?_ (finishing_classify _ _)
  unfold numberRoll
  refine Finishing.trans (t := { s with roll := { s.roll with saleCounter := bump max32 s.roll.saleCounter } })
    ⟨rfl, fun _ _ => rfl⟩ ?_
  exact finishing_modify _ _ _

theorem finishing_freeWaste (i : Fin 24) (s : State) :
    Finishing i (addWaste (s.record i).length s) (freeWaste i s) := by
  unfold freeWaste freeRecord
  refine Finishing.trans ?_ (finishing_evalHolds _ _)
  exact finishing_modify _ _ _

/-- What classification keeps of the record. -/
def KeptBy (i : Fin 24) (s t : State) : Prop :=
  (t.record i).saleNumber = (s.record i).saleNumber ∧ (t.record i).unconfirmedCut = (s.record i).unconfirmedCut ∧
  (t.record i).grade = (s.record i).grade

theorem KeptBy.trans {i : Fin 24} {s t u : State} (a : KeptBy i s t) (b : KeptBy i t u) : KeptBy i s u :=
  ⟨b.1.trans a.1, b.2.1.trans a.2.1, b.2.2.trans a.2.2⟩

theorem keptBy_of {i : Fin 24} {s t : State} (h : t.record i = s.record i) : KeptBy i s t := by
  unfold KeptBy; rw [h]; exact ⟨rfl, rfl, rfl⟩

theorem saveBatch_record (k : Nat) (s : State) (i : Fin 24) : (saveBatch k s).record i = s.record i :=
  (finishing_saveBatch (i + 1) k s).others i (by intro h; revert h; revert i; decide)

theorem keptBy_write (i : Fin 24) (x : ShadeResult) (b : Option Nat) (low : Bool) (s : State) :
    KeptBy i s (writeResult i x b low s) := by
  unfold KeptBy writeResult
  rw [modifyRecord_parts i _ s (fun _ _ => rfl)]
  exact ⟨rfl, rfl, rfl⟩

theorem keptBy_assign (i : Fin 24) (b : Batch) (s : State) : KeptBy i s (assignBatch i b s) := by
  refine keptBy_of ?_
  unfold assignBatch
  rw [saveBatch_record]; rfl

theorem keptBy_classify (i : Fin 24) (s : State) : KeptBy i s (classify i s) := by
  have hf : ∀ mean spread d low s, KeptBy i s (foundOrUnclassed i mean spread d low s) := by
    intro mean spread d low s
    unfold foundOrUnclassed
    split
    · refine (keptBy_write i ⟨some mean, some spread, .founded, d⟩
        (some (s.shade.batches.length + 1)) low s).trans (keptBy_of ?_)
      unfold foundBatch
      dsimp only
      rw [saveBatch_record]; rfl
    · exact keptBy_write ..
  unfold classify
  dsimp only
  split
  · exact keptBy_write ..
  · split
    · exact keptBy_write ..
    · unfold matchBatches
      dsimp only
      split
      · split
        · refine KeptBy.trans ?_ (keptBy_assign ..)
          exact keptBy_write ..
        · exact hf ..
      · exact hf ..

theorem evalHolds_record (i : Fin 24) (s : State) : (evalHolds s).record i = s.record i := by
  unfold State.record; rw [evalHolds_eq]

theorem joinLabel_record (i : Fin 24) (s : State) : ∃ st n, (joinLabel i s).record i =
    { s.record i with state := st, revision := n } ∧ (st = (s.record i).state ∨ st = .labelPending) := by
  unfold joinLabel
  rw [evalHolds_record]
  split
  · have : (pushLabel i s).record i = (modifyRecord i (fun r => { r with state := .labelPending }) s).record i := by
      unfold pushLabel; dsimp only; split <;> rfl
    rw [this, modifyRecord_parts i (fun r => { r with state := .labelPending }) s (fun _ _ => rfl)]
    exact ⟨_, _, rfl, .inr rfl⟩
  · exact ⟨_, _, rfl, .inl rfl⟩

theorem grade_record (i : Fin 24) (b : Bool) (s : State) :
    ((gradeRecord i b s).record i).grade.isSome = true ∧
    ((gradeRecord i b s).record i).saleNumber.isSome = true ∧
    ((gradeRecord i b s).record i).unconfirmedCut = ((s.record i).unconfirmedCut || b) ∧
    (((gradeRecord i b s).record i).state = .graded ∨ ((gradeRecord i b s).record i).state = .labelPending) := by
  unfold gradeRecord
  have h1 : ((numberRoll i s).record i).saleNumber.isSome = true ∧
      ((numberRoll i s).record i).unconfirmedCut = (s.record i).unconfirmedCut := by
    unfold numberRoll
    dsimp only
    rw [modifyRecord_parts i (fun r => { r with saleNumber := some (bump max32 s.roll.saleCounter) }) _
      (fun _ _ => rfl)]
    exact ⟨rfl, rfl⟩
  have h2 := keptBy_classify i (numberRoll i s)
  generalize classify i (numberRoll i s) = c at h2 ⊢
  obtain ⟨st, n, h3, h4⟩ := joinLabel_record i (modifyRecord i (fun r => { r with
    state := .graded, grade := some (gradeOf c.recipe r), unconfirmedCut := r.unconfirmedCut || b }) c)
  dsimp only
  rw [h3]
  rw [modifyRecord_parts i (fun r => { r with
    state := .graded, grade := some (gradeOf c.recipe r), unconfirmedCut := r.unconfirmedCut || b }) c
    (fun _ _ => rfl)] at h4 ⊢
  refine ⟨rfl, ?_, ?_, h4⟩
  · show (c.record i).saleNumber.isSome = true
    rw [h2.1]; exact h1.1
  · show ((c.record i).unconfirmedCut || b) = _
    rw [h2.2.1, h1.2]

/-! ### The AWAITING cut (R121 step 1, R129 step 1) -/

/-- What the end of the AWAITING cut at a strobe or a break leaves. -/
structure EndedAwaiting (s t : State) : Prop where
  rest : t = { s with
    line := { s.line with holds := t.line.holds }
    roll := { s.roll with
      records := t.roll.records, wasteTotal := t.roll.wasteTotal, saleCounter := t.roll.saleCounter
      cuts := s.roll.cuts.map (fun y => if y.state = .awaiting then { y with state := .unconfirmed } else y)
      lastUnconfirmed := match awaitingCutOf s with
        | some y => some y.number
        | none => s.roll.lastUnconfirmed }
    shade := { s.shade with batches := t.shade.batches }
    label := t.label, store := t.store, ports := t.ports }
  others : ∀ j, (∀ y, awaitingCutOf s = some y → y.ending ≠ some j) → t.record j = s.record j
  graded : ∀ y i, awaitingCutOf s = some y → y.ending = some i → (s.record i).kind = .sale →
    (t.record i).unconfirmedCut = true ∧ (t.record i).grade.isSome = true ∧
    (t.record i).saleNumber.isSome = true ∧
    ((t.record i).state = .graded ∨ (t.record i).state = .labelPending)
  freed : ∀ y i, awaitingCutOf s = some y → y.ending = some i → (s.record i).kind = .waste →
    (t.record i).state = .free
  waste : s.roll.wasteTotal ≤ 4294967295 → t.roll.wasteTotal = min 4294967295 (s.roll.wasteTotal + awaitedWaste s)

theorem endAwaiting_ended (s : State) : EndedAwaiting s (endAwaiting s) := by
  unfold endAwaiting
  cases h : cutIn .awaiting s with
  | none =>
    have ha : awaitingCutOf s = none := h
    have hn : ∀ y ∈ s.roll.cuts, y.state ≠ .awaiting := by
      intro y hy; have := List.find?_eq_none.1 h y hy; simpa using this
    refine ⟨?_, fun _ _ => rfl, ?_, ?_, ?_⟩
    · simp only [ha]
      have : s.roll.cuts.map (fun y => if y.state = .awaiting then { y with state := .unconfirmed } else y) =
          s.roll.cuts := by
        conv => rhs; rw [← List.map_id s.roll.cuts]
        exact List.map_congr_left (fun y hy => by simp [hn y hy])
      rw [this]
    · intro y i hy; rw [ha] at hy; cases hy
    · intro y i hy; rw [ha] at hy; cases hy
    · intro hw; simp only [awaitedWaste, ha]; omega
  | some x =>
    have ha : awaitingCutOf s = some x := h
    dsimp only
    generalize hu : ({ modifyCuts .awaiting (fun x => { x with state := .unconfirmed }) s with
      roll := { (modifyCuts .awaiting (fun x => { x with state := .unconfirmed }) s).roll with
        lastUnconfirmed := some x.number } } : State) = u
    have hur : u.roll.records = s.roll.records := by rw [← hu]; rfl
    have hrec : ∀ j, u.record j = s.record j := by intro j; unfold State.record; rw [hur]
    have hus : u = { s with roll := { s.roll with
        cuts := s.roll.cuts.map (fun y => if y.state = .awaiting then { y with state := .unconfirmed } else y)
        lastUnconfirmed := some x.number } } := by rw [← hu]; rfl
    unfold finishCut
    cases he : x.ending with
    | none =>
      dsimp only
      refine ⟨?_, ?_, ?_, ?_, ?_⟩
      · cases x.kindEnding <;> rw [hus] <;> simp [ha, addWaste]
      · intro j _; cases x.kindEnding <;> exact hrec j
      · intro y i hy hyi; rw [ha] at hy; cases hy; rw [he] at hyi; cases hyi
      · intro y i hy hyi; rw [ha] at hy; cases hy; rw [he] at hyi; cases hyi
      · intro hw
        simp only [awaitedWaste, ha, he]
        cases x.kindEnding
        · rw [hus]; simp; omega
        · rw [hus]; simp [addWaste, addHeld, max32]
    | some i =>
      dsimp only
      refine ⟨?_, ?_, ?_, ?_, ?_⟩
      · unfold finishRecord
        split
        · rw [(finishing_grade i true u).rest, hus]
          simp only [ha]
        · rw [(finishing_freeWaste i u).rest]
          simp only [addWaste]
          rw [hus]
          simp only [ha]
      · intro j hj
        have hne : j ≠ i := fun hji => hj x ha (by rw [he, hji])
        unfold finishRecord
        split
        · rw [(finishing_grade i true u).others j hne, hrec]
        · rw [(finishing_freeWaste i u).others j hne]; exact hrec j
      · intro y k hy hyk hk
        rw [ha] at hy; cases hy; rw [he] at hyk; cases hyk
        have hk2 : (u.record i).kind = .sale := by rw [hrec]; exact hk
        unfold finishRecord; rw [hk2]; dsimp only
        obtain ⟨g1, g2, g3, g4⟩ := grade_record i true u
        exact ⟨by rw [g3]; simp, g1, g2, g4⟩
      · intro y k hy hyk hk
        rw [ha] at hy; cases hy; rw [he] at hyk; cases hyk
        have hk2 : (u.record i).kind = .waste := by rw [hrec]; exact hk
        unfold finishRecord; rw [hk2]; dsimp only
        unfold freeWaste freeRecord
        rw [evalHolds_record, modifyRecord_parts i (fun r => RollRecord.freed r.revision) _ (fun _ _ => rfl)]
        rfl
      · intro hw
        simp only [awaitedWaste, ha, he]
        unfold finishRecord
        rw [hrec]
        cases hk : (s.record i).kind with
        | sale => dsimp only; rw [(finishing_grade i true u).rest, hus]; simp; omega
        | waste =>
          dsimp only
          unfold freeWaste freeRecord
          rw [evalHolds_eq, modifyRecord_eq, hrec, hus]
          simp [addWaste, addHeld, max32]

/-! ### Taking a record (R111) -/

/-- The record a plan takes is the lowest FREE one, and none is taken only when none is FREE. -/
theorem lowestFree_spec (s : State) :
    (∀ i, lowestFree s = some i → (s.record i).state = .free ∧ ∀ j, j < i → (s.record j).state ≠ .free) ∧
    (lowestFree s = none → ∀ j, (s.record j).state ≠ .free) := by
  have hs : (allRows 24).Pairwise (· < ·) := by decide
  have hm : ∀ j : Fin 24, j ∈ allRows 24 := by decide
  unfold lowestFree Table.which
  constructor
  · intro i hi
    have h1 : i ∈ (allRows 24).filter (fun i => (s.roll.records.get i).state == .free) :=
      List.mem_of_mem_head? hi
    refine ⟨by simpa [State.record] using (List.mem_filter.1 h1).2, fun j hj hf => ?_⟩
    have h2 : j ∈ (allRows 24).filter (fun i => (s.roll.records.get i).state == .free) :=
      List.mem_filter.2 ⟨hm j, by simpa [State.record] using hf⟩
    have hp := hs.filter (fun i => (s.roll.records.get i).state == .free)
    cases hl : (allRows 24).filter (fun i => (s.roll.records.get i).state == .free) with
    | nil => rw [hl] at h2; cases h2
    | cons a l =>
      rw [hl] at hi h2 hp
      simp at hi; subst hi
      rcases List.mem_cons.1 h2 with rfl | h
      · exact lt_irrefl _ hj
      · exact lt_asymm hj ((List.pairwise_cons.1 hp).1 j h)
  · intro h j hf
    rw [List.head?_eq_none_iff] at h
    have h2 : j ∈ (allRows 24).filter (fun i => (s.roll.records.get i).state == .free) :=
      List.mem_filter.2 ⟨hm j, by simpa [State.record] using hf⟩
    rw [h] at h2; cases h2

end Sys2Proof.Machine
end

