-- ==== Sys2Proof/Laws/Register.lean ====
section
/-!
SUPPORT. What a frame can do to a register channel, said once: by its state, its sample or miss and the trim that is
outstanding (04, 05).
-/

namespace Sys2Proof.Machine

open Sys2Proof.Safety

@[simp] theorem enterState_lastError (st : RegisterState) (x : ChannelStep) :
    (enterState st x).1.lastError = x.1.lastError := by unfold enterState; split <;> rfl

@[simp] theorem enterState_discarded (st : RegisterState) (x : ChannelStep) :
    (enterState st x).1.discarded = x.1.discarded := by unfold enterState; split <;> rfl

@[simp] theorem enterState_trim (st : RegisterState) (x : ChannelStep) :
    (enterState st x).1.trim = x.1.trim := by unfold enterState; split <;> rfl

@[simp] theorem enterState_outstanding (st : RegisterState) (x : ChannelStep) :
    (enterState st x).1.outstanding = x.1.outstanding := by unfold enterState; split <;> rfl

@[simp] theorem enterState_samples (st : RegisterState) (x : ChannelStep) :
    (enterState st x).1.samples = x.1.samples := by unfold enterState; split <;> rfl

@[simp] theorem enterState_state (st : RegisterState) (x : ChannelStep) : (enterState st x).1.state = st := by
  unfold enterState; split
  · assumption
  · rfl

theorem enterState_misses (st : RegisterState) (x : ChannelStep) (h : x.1.misses = 0) :
    (enterState st x).1.misses = 0 := by
  unfold enterState; split
  · exact h
  · rfl

theorem isDiscarded_iff (k : ChannelSettings) (ref : Pos) (c : RegisterChannel) :
    isDiscarded k ref c = false ↔ Usable k ref c := by
  simp only [isDiscarded, Usable, Bool.or_eq_false_iff, decide_eq_false_iff_not, Int.not_lt]
  cases c.outstanding <;> simp

theorem timeOut_noTimeout (k : ChannelSettings) (n : Nat) (x : ChannelStep) (h : NoTimeout n x.1) :
    timeOut k n x = x := by
  unfold timeOut timeoutDue
  cases h0 : x.1.outstanding with
  | none => simp
  | some o =>
    have := h o h0
    rcases this with h1 | h1
    · simp [h1]
    · simp; omega

theorem postWithLimit_spec (k : ChannelSettings) (n : Nat) (x : Int) (c : ChannelStep) (hx : x ≠ 0)
    (ho : c.1.outstanding = none) :
    Corrected k n x c.1 (postWithLimit k n x c).1 ∧
    NoTimeout n (postWithLimit k n x c).1 ∧
    (postWithLimit k n x c).1.samples = c.1.samples ∧
    (postWithLimit k n x c).1.sinceEvaluation = c.1.sinceEvaluation ∧
    (postWithLimit k n x c).1.lastError = c.1.lastError ∧
    (postWithLimit k n x c).1.discarded = c.1.discarded ∧
    (c.1.state ≠ .locked → (postWithLimit k n x c).1.state = c.1.state ∧
      (postWithLimit k n x c).1.misses = c.1.misses ∧ (postWithLimit k n x c).1.lockCount = c.1.lockCount) ∧
    (c.1.state = .locked →
      (postWithLimit k n x c).1.state =
        (if (postWithLimit k n x c).1.trim = c.1.trim + x then .locked else .limit)) := by
  obtain ⟨c, v⟩ := c
  simp only at ho ⊢
  by_cases h0 : clampInt (-k.trimLimit) k.trimLimit (c.trim + x) - c.trim = 0 <;>
  by_cases h1 : clampInt (-k.trimLimit) k.trimLimit (c.trim + x) - c.trim = x <;>
  by_cases h2 : c.state = .locked <;>
  refine ⟨⟨?_, ?_, ?_⟩, ?_, ?_, ?_, ?_, ?_, ?_, ?_⟩ <;>
  simp [postWithLimit, cutToLimit, h0, h1, h2, withhold, postTrim, enterState, hx, hx.symm, NoTimeout, ho, bump_eq_min,
    max16] <;> omega


theorem not_due_of_none (k : ChannelSettings) (n : Nat) (x : ChannelStep) (h : x.1.outstanding = none) :
    timeOut k n x = x :=
  timeOut_noTimeout k n x (fun o ho => by simp [h] at ho)

/-- A frame of a channel in ACQUIRE. -/
theorem channelFrame_acquire (k : ChannelSettings) (n : Nat) (ref : Pos) (res : Option Int) (c : RegisterChannel)
    (hs : c.state = .acquire) : AcquireFrame k n ref res c (channelFrame k n ref res c).1 := by
  have key : ∀ e, res = some e → Usable k ref c →
      channelFrame k n ref res c =
        timeOut k n (acquireUsable k n e ({ c with lastError := some e, misses := 0 }, .none)) := by
    intro e he hu
    simp [channelFrame, hs, he, takeSample, (isDiscarded_iff k ref c).2 hu]
  constructor
  · intro e he hu hw hl
    rw [key e he hu]
    have hn : bump 3 c.lockCount = 3 := by rw [bump_eq_min]; omega
    simp only [acquireUsable, lockSample, hw, if_true, hn]
    rw [not_due_of_none]
    · simp [acquireCorrection, enterState, hs, RegisterChannel.restart]
    · simp [acquireCorrection, enterState, hs, RegisterChannel.restart, hu.2.1]
  · intro e he hu hw
    rw [key e he hu]
    have hls : lockSample k e ({ c with lastError := some e, misses := 0 }, ChannelEvents.none) =
        ({ c with
            lastError := some e, misses := 0
            lockCount := (if mag e ≤ k.lockWindow then c.lockCount + 1 else 0) }, .none) := by
      unfold lockSample
      by_cases h : mag e ≤ k.lockWindow
      · have : c.lockCount < 2 := by omega
        have hb : bump 3 c.lockCount = c.lockCount + 1 := by rw [bump_eq_min]; omega
        have h3 : ¬ (c.lockCount + 1 = 3) := by omega
        simp [h, hb, h3]
      · simp [h]
    simp only [acquireUsable, hls]
    generalize hy : (({ c with
        lastError := some e, misses := 0
        lockCount := (if mag e ≤ k.lockWindow then c.lockCount + 1 else 0) },
      ChannelEvents.none) : ChannelStep) = y
    have y1 : y.1 = { c with
        lastError := some e, misses := 0
        lockCount := (if mag e ≤ k.lockWindow then c.lockCount + 1 else 0) } := by
      rw [← hy]
    have hst : y.1.state = .acquire := by rw [y1, hs]
    have hout : y.1.outstanding = none := by rw [y1]; exact hu.2.1
    by_cases hc : ¬ k.hold = true ∧ clampInt (-k.acquireStep) k.acquireStep (-e) ≠ 0
    · have hp := postWithLimit_spec k n _ y hc.2 hout
      have ha : acquireCorrection k n e y = postWithLimit k n (clampInt (-k.acquireStep) k.acquireStep (-e)) y := by
        simp [acquireCorrection, hst, hc]
      rw [ha, timeOut_noTimeout _ _ _ hp.2.1]
      obtain ⟨⟨q1, q2, q3⟩, -, q4, -, -, -, q5, -⟩ := hp
      have q5 := q5 (by rw [hst]; simp)
      rw [y1] at q1 q2 q3 q4 q5
      refine ⟨by rw [q5.1, hs], q4, q5.2.2, ?_, ?_⟩
      · rintro (h | h)
        · exact absurd h hc.1
        · exact absurd h hc.2
      · intro _ _
        exact ⟨q1, q2, q3⟩
    · have ha : acquireCorrection k n e y = y := by
        unfold acquireCorrection
        simp only [hst, true_and]
        rw [if_neg (by simpa using hc)]
      rw [ha, not_due_of_none _ _ _ hout, y1]
      refine ⟨hs, rfl, rfl, fun _ => ⟨rfl, rfl, rfl, rfl⟩, ?_⟩
      intro h1 h2
      exact absurd ⟨by simp [h1], h2⟩ hc
  · intro e he hu ht
    have hd : isDiscarded k ref c = true := by
      rw [← Bool.not_eq_false]; exact fun h => hu ((isDiscarded_iff k ref c).1 h)
    have : channelFrame k n ref res c =
        timeOut k n ({ c with lastError := some e, misses := 0, discarded := bump max16 c.discarded }, .none) := by
      simp [channelFrame, hs, he, takeSample, hd]
    rw [this, timeOut_noTimeout _ _ _ ht]
    exact ⟨hs, rfl, rfl, rfl, rfl, rfl⟩
  · intro he ht
    have : channelFrame k n ref res c =
        timeOut k n ({ c with misses := bump 255 c.misses, lockCount := 0 }, .none) := by
      simp [channelFrame, hs, he, takeMiss]
    rw [this, timeOut_noTimeout _ _ _ ht]
    exact ⟨hs, rfl, bump_eq_min _ _, rfl, rfl, rfl, rfl⟩


theorem evaluationDue_iff (k : ChannelSettings) (c d : RegisterChannel) (hs : d.state = .locked ∨ d.state = .limit)
    (hf : d.sinceEvaluation = framesAfter c) (ho : d.outstanding = c.outstanding) :
    evaluationDue k d = true ↔ Evaluated k d.samples c := by
  unfold evaluationDue Evaluated
  rw [hf, ho]
  rcases hs with h | h <;> cases c.outstanding <;> simp [h] <;> tauto

/-- An evaluation that is due, of a channel in LOCKED or LIMIT. -/
theorem evaluate_spec (k : ChannelSettings) (n : Nat) (y : ChannelStep) (hs : y.1.state = .locked ∨ y.1.state = .limit)
    (h : evaluationDue k y.1 = true) :
    (evaluate k n y).1.samples = [] ∧ (evaluate k n y).1.sinceEvaluation = 0 ∧ NoTimeout n (evaluate k n y).1 ∧
    ((evaluate k n y).1.state = .locked ∨ (evaluate k n y).1.state = .limit) ∧
    (evaluate k n y).1.lastError = y.1.lastError ∧ (evaluate k n y).1.discarded = y.1.discarded ∧
    ((evaluate k n y).1.misses = y.1.misses ∨ (evaluate k n y).1.misses = 0) ∧
    ∀ x, x = evaluationCorrection k y.1.samples →
      (x = 0 → (evaluate k n y).1.state = y.1.state ∧ Uncorrected y.1 (evaluate k n y).1) ∧
      (x ≠ 0 → y.1.state = .locked → Corrected k n x y.1 (evaluate k n y).1 ∧
        (evaluate k n y).1.state = (if (evaluate k n y).1.trim = y.1.trim + x then .locked else .limit)) ∧
      (x ≠ 0 → y.1.state = .limit → mag y.1.trim < mag (y.1.trim + x) →
        (evaluate k n y).1.state = .limit ∧ (evaluate k n y).1.trim = y.1.trim ∧
          (evaluate k n y).1.outstanding = none ∧ (evaluate k n y).1.sequence = y.1.sequence ∧
          (evaluate k n y).1.withheld = min 65535 (y.1.withheld + 1)) ∧
      (x ≠ 0 → y.1.state = .limit → mag (y.1.trim + x) ≤ mag y.1.trim →
        (evaluate k n y).1.state = .locked ∧ (evaluate k n y).1.trim = y.1.trim + x ∧
          (evaluate k n y).1.sequence = y.1.sequence + 1 ∧
          (evaluate k n y).1.outstanding = some
            { sequence := y.1.sequence + 1, delta := x, postedAt := n, timedOut := false }) := by
  have ho : y.1.outstanding = none := by
    unfold evaluationDue at h
    cases hh : y.1.outstanding <;> simp [hh] at h ⊢
  generalize hx : evaluationCorrection k y.1.samples = x0
  by_cases h0 : x0 = 0
  · have he : evaluate k n y = (y.1.restart, y.2) := by simp [evaluate, h, hx, h0]
    rw [he]
    refine ⟨rfl, rfl, fun o hh => ?_, hs, rfl, rfl, .inl rfl, ?_⟩
    · simp [RegisterChannel.restart, ho] at hh
    · rintro x rfl
      refine ⟨fun _ => ⟨rfl, rfl, rfl, rfl, rfl⟩, fun hh => absurd h0 hh, fun hh => absurd h0 hh, fun hh => absurd h0 hh⟩
  · rcases hs with hs | hs
    · have he : evaluate k n y = ((postWithLimit k n x0 y).1.restart, (postWithLimit k n x0 y).2) := by
        simp [evaluate, h, hx, h0, hs]
      have hp := postWithLimit_spec k n x0 y h0 ho
      obtain ⟨⟨q1, q2, q3⟩, q4, q5, q6, q7, q8, -, q9⟩ := hp
      have q9 := q9 hs
      rw [he]
      refine ⟨rfl, rfl, q4, ?_, q7, q8, ?_, ?_⟩
      · simp only [RegisterChannel.restart, q9]; split <;> simp
      · simp only [RegisterChannel.restart, postWithLimit]
        split <;> split <;> simp [enterState, withhold, postTrim, hs]
      · rintro x rfl
        refine ⟨fun hh => absurd hh h0, fun _ _ => ⟨⟨q1, q2, q3⟩, q9⟩, ?_, ?_⟩ <;>
          (intro _ hh; simp [hs] at hh)
    · have he : evaluate k n y = ((postInLimit n x0 y).1.restart, (postInLimit n x0 y).2) := by
        simp [evaluate, h, hx, h0, hs]
      rw [he]
      by_cases hm : mag y.1.trim < mag (y.1.trim + x0)
      · simp only [postInLimit, hm, if_true]
        refine ⟨rfl, rfl, fun o hh => ?_, .inr hs, rfl, rfl, .inl rfl, ?_⟩
        · simp [RegisterChannel.restart, withhold, ho] at hh
        · rintro x rfl
          refine ⟨fun hh => absurd hh h0, fun _ hh => by simp [hs] at hh, fun _ _ _ => ?_,
            fun _ _ hh => absurd hm (Int.not_lt.2 hh)⟩
          exact ⟨hs, rfl, ho, rfl, bump_eq_min _ _⟩
      · simp only [postInLimit, hm, if_false]
        refine ⟨rfl, rfl, fun o hh => ?_, ?_, ?_, ?_, ?_, ?_⟩
        · simp [RegisterChannel.restart, postTrim, enterState, hs] at hh
          right; rw [← hh]; simp
        · simp [RegisterChannel.restart, postTrim, enterState, hs]
        · simp [RegisterChannel.restart, postTrim, enterState, hs]
        · simp [RegisterChannel.restart, postTrim, enterState, hs]
        · simp [RegisterChannel.restart, postTrim, enterState, hs]
        · rintro x rfl
          refine ⟨fun hh => absurd hh h0, fun _ hh => by simp [hs] at hh, fun _ _ hh => absurd hh hm,
            fun _ _ _ => ?_⟩
          simp [RegisterChannel.restart, postTrim, enterState, hs]

theorem evaluate_not_due (k : ChannelSettings) (n : Nat) (y : ChannelStep) (h : ¬ evaluationDue k y.1 = true) :
    evaluate k n y = y := by simp [evaluate, h]

theorem isCorrection_eq (k : ChannelSettings) (xs : List Int) (x : Int) (h : IsCorrection k xs x) :
    x = evaluationCorrection k xs := h

/-- A frame of a channel in LOCKED or LIMIT, from the channel whose list and count have been brought up to date. -/
theorem lockedFrame_spec (k : ChannelSettings) (n : Nat) (res : Option Int) (xs : List Int) (c : RegisterChannel)
    (usable : Option Int) (second : Bool) (x : ChannelStep)
    (hs : c.state = .locked ∨ c.state = .limit) (hx : x.1.state = c.state)
    (hsec : second = true ↔ res = none ∧ 1 ≤ c.misses)
    (hxs : xs = listAfter k usable c) (hl : x.1.samples = c.samples) (hf : x.1.sinceEvaluation = c.sinceEvaluation)
    (ho : x.1.outstanding = c.outstanding) (ht : x.1.trim = c.trim) (hq : x.1.sequence = c.sequence)
    (hw : x.1.withheld = c.withheld) :
    LockedFrame k n res xs c (timeOut k n (lockedFrame k n usable second x)).1 := by
  obtain ⟨y, hy, y1, y2, y3, y4, y5, y6, y7⟩ : ∃ y : ChannelStep,
      (lockedFrame k n usable second x =
        if Config.evaluatesBeforeHold then holdOnMiss second (evaluate k n y)
        else evaluate k n (holdOnMiss second y)) ∧
      y.1.state = c.state ∧ y.1.samples = xs ∧ y.1.sinceEvaluation = framesAfter c ∧
      y.1.outstanding = c.outstanding ∧ y.1.trim = c.trim ∧ y.1.sequence = c.sequence ∧ y.1.withheld = c.withheld := by
    refine ⟨_, rfl, ?_⟩
    cases usable <;> simp [hx, hl, hf, ho, ht, hq, hw, hxs, listAfter, framesAfter, bump_eq_min, lastN, max16]
  have hys : y.1.state = .locked ∨ y.1.state = .limit := by rw [y1]; exact hs
  have due := evaluationDue_iff k c y.1 hys y3 y4
  rw [y2] at due
  rw [hy]
  constructor
  · intro h1 h2
    have hsec : second = true := hsec.2 ⟨h1, h2⟩
    have hhold : ∀ z : ChannelStep, z.1.state = .hold → (timeOut k n z).1.state = .hold ∧
        (timeOut k n z).1.misses = z.1.misses ∧ (timeOut k n z).1.lockCount = z.1.lockCount := by
      intro z hz
      unfold timeOut
      split <;> simp [hz]
    have hm : ∀ z : ChannelStep, z.1.state = .locked ∨ z.1.state = .limit →
        (holdOnMiss true z).1.state = .hold ∧ (holdOnMiss true z).1.misses = 0 ∧ (holdOnMiss true z).1.lockCount = 0 := by
      intro z hz
      rcases hz with hz | hz <;> simp [holdOnMiss, hz, enterState]
    rw [hsec]
    split
    · have hz : (evaluate k n y).1.state = .locked ∨ (evaluate k n y).1.state = .limit := by
        by_cases hd : evaluationDue k y.1 = true
        · exact (evaluate_spec k n y hys hd).2.2.2.1
        · rw [evaluate_not_due k n y hd]; exact hys
      have := hm _ hz
      have h3 := hhold _ this.1
      exact ⟨h3.1, by rw [h3.2.1, this.2.1], by rw [h3.2.2, this.2.2]⟩
    · have := hm _ hys
      have hnd : ¬ evaluationDue k (holdOnMiss true y).1 = true := by simp [evaluationDue, this.1]
      rw [evaluate_not_due k n _ hnd]
      have h3 := hhold _ this.1
      exact ⟨h3.1, by rw [h3.2.1, this.2.1], by rw [h3.2.2, this.2.2]⟩
  all_goals
    intro h1 h2
    have hsec : second = false := by
      rw [Bool.eq_false_iff]; intro hh
      have := hsec.1 hh
      rcases h1 with h1 | h1
      · exact h1 this.1
      · omega
    have hid : ∀ z, holdOnMiss second z = z := by intro z; simp [holdOnMiss, hsec]
    rw [hid, hid, ite_self]
  · intro h3
    rw [evaluate_not_due k n y (fun hh => h2 (due.1 hh))]
    rw [timeOut_noTimeout k n y (fun o hh => h3 o (by rw [← y4]; exact hh))]
    exact ⟨y1, y2, y3, y5, y4, y7, y6⟩
  · intro x0 hx0
    have hd := due.2 h2
    have sp := evaluate_spec k n y hys hd
    rw [timeOut_noTimeout k n _ sp.2.2.1]
    obtain ⟨p1, p2, -, -, -, -, -, p8⟩ := sp
    have p8 := p8 x0 (by rw [y2]; exact isCorrection_eq k xs x0 hx0)
    rw [y1, y5, y6, y7] at p8
    obtain ⟨r1, r2, r3, r4⟩ := p8
    refine ⟨p1, p2, fun hh => ?_, fun hh hh2 => ?_, r3, r4⟩
    · obtain ⟨a, b⟩ := r1 hh
      refine ⟨a, ?_⟩
      unfold Uncorrected at b ⊢
      rw [y4, y5, y6, y7] at b; exact b
    · obtain ⟨⟨a, b, d⟩, e⟩ := r2 hh hh2
      rw [y5] at a b d
      rw [y6, y7] at b
      rw [y6, y7] at d
      exact ⟨⟨a, b, d⟩, e⟩


theorem channelFrame_gathering (k : ChannelSettings) (n : Nat) (ref : Pos) (res : Option Int) (c : RegisterChannel)
    (hs : c.state = .locked ∨ c.state = .limit) :
    (∀ e, res = some e → Usable k ref c →
      LockedFrame k n res (listAfter k (some e) c) c (channelFrame k n ref res c).1) ∧
    ((∀ e, res = some e → ¬ Usable k ref c) →
      LockedFrame k n res c.samples c (channelFrame k n ref res c).1) := by
  constructor
  · intro e he hu
    have : channelFrame k n ref res c =
        timeOut k n (lockedFrame k n (some e) false ({ c with lastError := some e, misses := 0 }, .none)) := by
      rcases hs with h | h <;> simp [channelFrame, h, he, takeSample, (isDiscarded_iff k ref c).2 hu]
    rw [this]
    apply lockedFrame_spec <;> first | exact hs | rfl | simp [he]
  · intro hu
    cases hr : res with
    | none =>
      have : channelFrame k n ref none c =
          timeOut k n (lockedFrame k n none (decide (2 ≤ bump 255 c.misses))
            ({ c with misses := bump 255 c.misses }, .none)) := by
        rcases hs with h | h <;> simp [channelFrame, h, takeMiss]
      rw [this]
      apply lockedFrame_spec <;> first | exact hs | rfl | (simp only [bump_eq_min, decide_eq_true_eq, true_and]; omega)
    | some e =>
      have hd : isDiscarded k ref c = true := by
        rw [← Bool.not_eq_false]; exact fun h => hu e hr ((isDiscarded_iff k ref c).1 h)
      have : channelFrame k n ref (some e) c =
          timeOut k n (lockedFrame k n none false
            ({ c with lastError := some e, misses := 0, discarded := bump max16 c.discarded }, .none)) := by
        rcases hs with h | h <;> simp [channelFrame, h, takeSample, hd]
      rw [this]
      apply lockedFrame_spec <;> first | exact hs | rfl | simp

theorem timeOut_in_hold (k : ChannelSettings) (n : Nat) (x : ChannelStep) (h : x.1.state = .hold) :
    (timeOut k n x).1 = { x.1 with outstanding := (timeOut k n x).1.outstanding } := by
  unfold timeOut; split
  · simp [h]
  · rfl

/-- A frame of a channel in HOLD. -/
theorem channelFrame_hold (k : ChannelSettings) (n : Nat) (ref : Pos) (res : Option Int) (c : RegisterChannel)
    (hs : c.state = .hold) : HoldFrame k n ref res c (channelFrame k n ref res c).1 := by
  constructor
  · intro e he hu hw
    have : channelFrame k n ref res c =
        timeOut k n (holdUsable k e ({ c with lastError := some e, misses := 0 }, .none)) := by
      simp [channelFrame, hs, he, takeSample, (isDiscarded_iff k ref c).2 hu]
    rw [this, not_due_of_none]
    · simp [holdUsable, hw, enterState, hs, RegisterChannel.restart]
    · simp [holdUsable, hw, enterState, hs, RegisterChannel.restart, hu.2.1]
  · intro e he h
    by_cases hu : Usable k ref c
    · have hw : ¬ mag e ≤ k.lockWindow := by
        rcases h with h | h
        · exact absurd hu h
        · omega
      have : channelFrame k n ref res c = timeOut k n ({ c with lastError := some e, misses := 0 }, .none) := by
        simp [channelFrame, hs, he, takeSample, (isDiscarded_iff k ref c).2 hu, holdUsable, hw]
      rw [this, timeOut_in_hold _ _ _ hs]
      exact ⟨hs, rfl⟩
    · have hd : isDiscarded k ref c = true := by
        rw [← Bool.not_eq_false]; exact fun h => hu ((isDiscarded_iff k ref c).1 h)
      have : channelFrame k n ref res c =
          timeOut k n ({ c with lastError := some e, misses := 0, discarded := bump max16 c.discarded }, .none) := by
        simp [channelFrame, hs, he, takeSample, hd]
      rw [this, timeOut_in_hold _ _ _ hs]
      exact ⟨hs, rfl⟩
  · intro he h
    have hb : bump 255 c.misses = c.misses + 1 := by rw [bump_eq_min]; omega
    have : channelFrame k n ref res c = timeOut k n ({ c with misses := c.misses + 1 }, .none) := by
      have h8 : ¬ 8 ≤ c.misses + 1 := by omega
      simp [channelFrame, hs, he, takeMiss, holdMiss, hb, h8]
    rw [this, timeOut_in_hold _ _ _ hs]
    exact ⟨hs, rfl⟩
  · intro he h ht
    have hb : 8 ≤ bump 255 c.misses := by rw [bump_eq_min]; omega
    have : channelFrame k n ref res c =
        timeOut k n (enterState .acquire ({ c with misses := bump 255 c.misses, samples := [] }, .none)) := by
      simp [channelFrame, hs, he, takeMiss, holdMiss, hb]
    rw [this, timeOut_noTimeout]
    · simp [enterState, hs]
    · intro o ho
      simp [enterState, hs] at ho
      exact ht o ho

theorem lockedFrame_record (k : ChannelSettings) (n : Nat) (usable : Option Int) (second : Bool) (x : ChannelStep) :
    (lockedFrame k n usable second x).1.lastError = x.1.lastError ∧
    (lockedFrame k n usable second x).1.discarded = x.1.discarded ∧
    (x.1.misses = 0 → (lockedFrame k n usable second x).1.misses = 0) := by
  obtain ⟨y, hy, y1, y2, y3, y4⟩ : ∃ y : ChannelStep,
      (lockedFrame k n usable second x =
        if Config.evaluatesBeforeHold then holdOnMiss second (evaluate k n y)
        else evaluate k n (holdOnMiss second y)) ∧
      y.1.state = x.1.state ∧ y.1.lastError = x.1.lastError ∧ y.1.discarded = x.1.discarded ∧
      y.1.misses = x.1.misses := by
    refine ⟨_, rfl, ?_⟩
    cases usable <;> simp
  have hh : ∀ z : ChannelStep, (holdOnMiss second z).1.lastError = z.1.lastError ∧
      (holdOnMiss second z).1.discarded = z.1.discarded ∧ (z.1.misses = 0 → (holdOnMiss second z).1.misses = 0) := by
    intro z
    unfold holdOnMiss enterState
    split
    · split <;> simp
    · simp
  have he : ∀ z : ChannelStep, (evaluate k n z).1.lastError = z.1.lastError ∧
      (evaluate k n z).1.discarded = z.1.discarded ∧ (z.1.misses = 0 → (evaluate k n z).1.misses = 0) := by
    intro z
    by_cases hd : evaluationDue k z.1 = true
    · have hz : z.1.state = .locked ∨ z.1.state = .limit := by
        unfold evaluationDue at hd
        cases h : z.1.state <;> simp [h] at hd ⊢
      have sp := evaluate_spec k n z hz hd
      refine ⟨sp.2.2.2.2.1, sp.2.2.2.2.2.1, fun h0 => ?_⟩
      rcases sp.2.2.2.2.2.2.1 with h | h
      · rw [h, h0]
      · exact h
    · rw [evaluate_not_due k n z hd]; exact ⟨rfl, rfl, id⟩
  rw [hy]
  split
  · have a := hh (evaluate k n y); have b := he y
    exact ⟨by rw [a.1, b.1, y2], by rw [a.2.1, b.2.1, y3], fun h => a.2.2 (b.2.2 (by rw [y4, h]))⟩
  · have a := he (holdOnMiss second y); have b := hh y
    exact ⟨by rw [a.1, b.1, y2], by rw [a.2.1, b.2.1, y3], fun h => a.2.2 (b.2.2 (by rw [y4, h]))⟩

theorem timeOut_record (k : ChannelSettings) (n : Nat) (x : ChannelStep) :
    (timeOut k n x).1.lastError = x.1.lastError ∧ (timeOut k n x).1.discarded = x.1.discarded ∧
    (timeOut k n x).1.trim = x.1.trim ∧
    (x.1.misses = 0 → (timeOut k n x).1.misses = 0) := by
  by_cases hd : timeoutDue n x.1 = true
  · cases hs : x.1.state <;> cases hf : k.flush <;> simp [timeOut, hd, hs, hf] <;> intro h <;>
      exact enterState_misses _ _ h
  · simp [timeOut, hd]

theorem holdOnMiss_trim (second : Bool) (x : ChannelStep) :
    (holdOnMiss second x).1.trim = x.1.trim ∧ (holdOnMiss second x).1.outstanding = x.1.outstanding ∧
    (x.1.state ≠ .off → (holdOnMiss second x).1.state ≠ .off) := by
  unfold holdOnMiss; split <;> simp

theorem lockedFrame_trim (k : ChannelSettings) (n : Nat) (second : Bool) (x : ChannelStep) (o : Trim)
    (ho : x.1.outstanding = some o) (hs : x.1.state ≠ .off) :
    (lockedFrame k n none second x).1.trim = x.1.trim ∧
    (lockedFrame k n none second x).1.outstanding = x.1.outstanding ∧
    (lockedFrame k n none second x).1.state ≠ .off := by
  have hn : ∀ z : ChannelStep, z.1.outstanding = some o → evaluate k n z = z := by
    intro z hz
    exact evaluate_not_due k n z (by simp [evaluationDue, hz])
  unfold lockedFrame
  simp only
  split
  · rw [hn ({ x.1 with sinceEvaluation := bump max16 x.1.sinceEvaluation }, x.2) ho]
    have := holdOnMiss_trim second ({ x.1 with sinceEvaluation := bump max16 x.1.sinceEvaluation }, x.2)
    exact ⟨this.1, this.2.1, this.2.2 hs⟩
  · have := holdOnMiss_trim second ({ x.1 with sinceEvaluation := bump max16 x.1.sinceEvaluation }, x.2)
    rw [hn _ (by rw [this.2.1]; exact ho)]
    exact ⟨this.1, this.2.1, this.2.2 hs⟩

theorem channelFrame_trim (k : ChannelSettings) (n : Nat) (ref : Pos) (res : Option Int) (c : RegisterChannel) :
    TrimAfter k n c (channelFrame k n ref res c).1 := by
  by_cases hoff : c.state = .off
  · have : channelFrame k n ref res c = (c, .none) := by simp [channelFrame, hoff]
    rw [this]
    exact ⟨fun o ho => ⟨rfl, fun _ => ho⟩, fun _ _ _ _ h => absurd hoff h⟩
  · have key : ∀ o, c.outstanding = some o → ∃ x : ChannelStep,
        channelFrame k n ref res c = timeOut k n x ∧ x.1.trim = c.trim ∧ x.1.outstanding = c.outstanding ∧
        x.1.state ≠ .off := by
      intro o ho
      refine ⟨(match res with
          | some e => takeSample k n ref e c
          | none => takeMiss k n c), by cases res <;> simp only [channelFrame, hoff, if_false], ?_⟩
      have hd : isDiscarded k ref c = true := by simp [isDiscarded, ho]
      cases res with
      | some e =>
        simp only [takeSample, hd, if_true]
        cases hs : c.state <;> simp only
        · exact absurd hs hoff
        · simp
        · have := lockedFrame_trim k n false
            ({ c with lastError := some e, misses := 0, discarded := bump max16 c.discarded }, .none) o ho hoff
          rw [hs] at this; exact this
        · simp
        · have := lockedFrame_trim k n false
            ({ c with lastError := some e, misses := 0, discarded := bump max16 c.discarded }, .none) o ho hoff
          rw [hs] at this; exact this
      | none =>
        simp only [takeMiss]
        cases hs : c.state <;> simp only
        · exact absurd hs hoff
        · simp
        · have := lockedFrame_trim k n (decide (2 ≤ bump 255 c.misses))
            ({ c with misses := bump 255 c.misses }, .none) o ho hoff
          rw [hs] at this; exact this
        · unfold holdMiss
          split <;> simp
        · have := lockedFrame_trim k n (decide (2 ≤ bump 255 c.misses))
            ({ c with misses := bump 255 c.misses }, .none) o ho hoff
          rw [hs] at this; exact this
    constructor
    · intro o ho
      obtain ⟨x, hx, h1, h2, -⟩ := key o ho
      rw [hx]
      refine ⟨by rw [(timeOut_record k n x).2.2.1, h1], fun h => ?_⟩
      rw [timeOut_noTimeout k n x (fun o' h' => h o' (by rw [← h2]; exact h')), h2, ho]
    · intro o ho h1 h2 _
      obtain ⟨x, hx, -, h4, h5⟩ := key o ho
      rw [hx]
      have hd : timeoutDue n x.1 = true := by simp [timeoutDue, h4, ho, h1, h2]
      unfold timeOut
      rw [if_pos hd]
      cases hs : x.1.state <;> cases hf : k.flush <;> simp_all

theorem postWithLimit_record (k : ChannelSettings) (n : Nat) (e : Int) (x : ChannelStep) :
    (postWithLimit k n e x).1.lastError = x.1.lastError ∧ (postWithLimit k n e x).1.discarded = x.1.discarded ∧
    (x.1.misses = 0 → (postWithLimit k n e x).1.misses = 0) := by
  simp only [postWithLimit]
  split <;> split <;>
    exact ⟨by first | rfl | exact enterState_lastError _ _, by first | rfl | exact enterState_discarded _ _,
      fun h => by first | exact enterState_misses _ _ h | exact h⟩

theorem acquireUsable_record (k : ChannelSettings) (n : Nat) (e : Int) (x : ChannelStep) :
    (acquireUsable k n e x).1.lastError = x.1.lastError ∧ (acquireUsable k n e x).1.discarded = x.1.discarded ∧
    (x.1.misses = 0 → (acquireUsable k n e x).1.misses = 0) := by
  have hl : (lockSample k e x).1.lastError = x.1.lastError ∧ (lockSample k e x).1.discarded = x.1.discarded ∧
      (x.1.misses = 0 → (lockSample k e x).1.misses = 0) := by
    unfold lockSample
    generalize (if mag e ≤ k.lockWindow then bump 3 x.1.lockCount else 0) = m
    by_cases hm : m = 3
    · simp only [hm, if_true]
      exact ⟨enterState_lastError _ _, enterState_discarded _ _, fun h => enterState_misses _ _ h⟩
    · simp [hm]
  unfold acquireUsable acquireCorrection
  simp only
  split
  · have hp := postWithLimit_record k n (clampInt (-k.acquireStep) k.acquireStep (-e)) (lockSample k e x)
    exact ⟨by rw [hp.1, hl.1], by rw [hp.2.1, hl.2.1], fun h => hp.2.2 (hl.2.2 h)⟩
  · exact hl

theorem holdUsable_record (k : ChannelSettings) (e : Int) (x : ChannelStep) :
    (holdUsable k e x).1.lastError = x.1.lastError ∧ (holdUsable k e x).1.discarded = x.1.discarded ∧
    (x.1.misses = 0 → (holdUsable k e x).1.misses = 0) := by
  unfold holdUsable
  split
  · refine ⟨by simp [RegisterChannel.restart], by simp [RegisterChannel.restart], fun h => ?_⟩
    exact enterState_misses _ _ h
  · simp

theorem holdMiss_record (x : ChannelStep) :
    (holdMiss x).1.lastError = x.1.lastError ∧ (holdMiss x).1.discarded = x.1.discarded := by
  unfold holdMiss
  split <;> simp

theorem channelFrame_sample (k : ChannelSettings) (n : Nat) (ref : Pos) (res : Option Int) (c : RegisterChannel) :
    SampleTaken k ref res c (channelFrame k n ref res c).1 := by
  by_cases hoff : c.state = .off
  · have : channelFrame k n ref res c = (c, .none) := by simp [channelFrame, hoff]
    rw [this]
    exact ⟨fun _ => rfl, fun _ _ h => absurd hoff h, fun _ _ _ => rfl, fun _ _ h => absurd hoff h,
      fun _ => ⟨rfl, rfl⟩⟩
  · have hc : channelFrame k n ref res c = timeOut k n
        (match res with
          | some e => takeSample k n ref e c
          | none => takeMiss k n c) := by cases res <;> simp [channelFrame, hoff]
    rw [hc]
    have ts : ∀ e, (takeSample k n ref e c).1.lastError = some e ∧ (takeSample k n ref e c).1.misses = 0 ∧
        (takeSample k n ref e c).1.discarded =
          if isDiscarded k ref c then min 65535 (c.discarded + 1) else c.discarded := by
      intro e
      by_cases hd : isDiscarded k ref c = true
      · simp only [takeSample, hd, if_true]
        cases hs : c.state <;> simp only
        · simp [bump_eq_min, max16]
        · simp [bump_eq_min, max16]
        · obtain ⟨a, b, d⟩ := lockedFrame_record k n none false
            ({ c with lastError := some e, misses := 0, discarded := bump max16 c.discarded }, .none)
          rw [hs] at a b d
          exact ⟨a, d rfl, by rw [b]; exact bump_eq_min _ _⟩
        · simp [bump_eq_min, max16]
        · obtain ⟨a, b, d⟩ := lockedFrame_record k n none false
            ({ c with lastError := some e, misses := 0, discarded := bump max16 c.discarded }, .none)
          rw [hs] at a b d
          exact ⟨a, d rfl, by rw [b]; exact bump_eq_min _ _⟩
      · simp only [takeSample, hd]
        cases hs : c.state <;> simp only
        · exact absurd hs hoff
        all_goals simp only [Bool.false_eq_true, if_false]
        · obtain ⟨a, b, d⟩ := acquireUsable_record k n e ({ c with lastError := some e, misses := 0 }, .none)
          rw [hs] at a b d
          exact ⟨a, d rfl, b⟩
        · obtain ⟨a, b, d⟩ := lockedFrame_record k n (some e) false
            ({ c with lastError := some e, misses := 0 }, .none)
          rw [hs] at a b d
          exact ⟨a, d rfl, b⟩
        · obtain ⟨a, b, d⟩ := holdUsable_record k e ({ c with lastError := some e, misses := 0 }, .none)
          rw [hs] at a b d
          exact ⟨a, d rfl, b⟩
        · obtain ⟨a, b, d⟩ := lockedFrame_record k n (some e) false
            ({ c with lastError := some e, misses := 0 }, .none)
          rw [hs] at a b d
          exact ⟨a, d rfl, b⟩
    constructor
    · exact fun h => absurd h hoff
    · rintro e rfl -
      have a := timeOut_record k n (takeSample k n ref e c)
      have b := ts e
      exact ⟨by rw [a.1, b.1], a.2.2.2 b.2.1⟩
    · rintro e rfl hu
      have a := timeOut_record k n (takeSample k n ref e c)
      have b := ts e
      rw [(isDiscarded_iff k ref c).2 hu] at b
      show (timeOut k n (takeSample k n ref e c)).1.discarded = _
      rw [a.2.1, b.2.2]; rfl
    · rintro e rfl - hu
      have hd : isDiscarded k ref c = true := by
        rw [← Bool.not_eq_false]; exact fun h => hu ((isDiscarded_iff k ref c).1 h)
      have a := timeOut_record k n (takeSample k n ref e c)
      have b := ts e
      rw [hd] at b
      show (timeOut k n (takeSample k n ref e c)).1.discarded = _
      rw [a.2.1, b.2.2]; rfl
    · rintro rfl
      have a := timeOut_record k n (takeMiss k n c)
      show (timeOut k n (takeMiss k n c)).1.lastError = _ ∧ (timeOut k n (takeMiss k n c)).1.discarded = _
      rw [a.1, a.2.1]
      unfold takeMiss
      cases hs : c.state <;> simp only
      · simp
      · simp
      · have := lockedFrame_record k n none (decide (2 ≤ bump 255 c.misses))
          ({ c with misses := bump 255 c.misses }, .none)
        rw [hs] at this; exact ⟨this.1, this.2.1⟩
      · have := holdMiss_record ({ c with misses := bump 255 c.misses }, .none)
        rw [hs] at this; exact this
      · have := lockedFrame_record k n none (decide (2 ≤ bump 255 c.misses))
          ({ c with misses := bump 255 c.misses }, .none)
        rw [hs] at this; exact ⟨this.1, this.2.1⟩

/-- Whatever a frame brings, it takes a register channel by the rules of its state (R54 to R63, R67). -/
theorem channelFrame_taken (k : ChannelSettings) (n : Nat) (ref : Pos) (res : Option Int) (c : RegisterChannel) :
    FrameTaken k n ref res c (channelFrame k n ref res c).1 :=
  ⟨channelFrame_sample k n ref res c, channelFrame_acquire k n ref res c, channelFrame_gathering k n ref res c,
    channelFrame_hold k n ref res c, channelFrame_trim k n ref res c⟩

end Sys2Proof.Machine
end

