-- ==== Sys2Proof/Laws/View.lean ====
section
/-!
SUPPORT. How long the web map image is and where it shows an entry, said once (06, 11).
-/

namespace Sys2Proof.Machine

theorem wordsOpt_length {α : Type} (f : α → List Word16) (x : Option α) :
    (wordsOpt f x).length = 1 + (x.elim 0 (fun a => (f a).length)) := by
  cases x <;> simp [wordsOpt, word, Nat.add_comm]

/-- The words of an entry: 8, with those of its end, and, while it stands in for a kind, those of the kinds and of the
pending end. -/
theorem mapEntry_words_length (e : MapEntry) :
    e.words.length = 8 + e.stop.elim 0 (fun _ => 2)
      + e.standIn.elim 0 (fun _ => 3 + e.pendingEnd.elim 0 (fun _ => 2)) := by
  have hd : e.detail.words.length = 1 := by cases e.detail <;> rfl
  unfold MapEntry.words MapEntry.standInWords
  cases e.stop <;> cases e.standIn <;> cases e.pendingEnd <;>
    simp [wordsOpt_length, hd, codeWord, wordPos, wordFlag, word, word2]

/-- The words of an entry stand behind the number of entries, the counts and the entries before it (R108). -/
theorem mapImage_entry (m : WebMap) (before after : List MapEntry) (e : MapEntry)
    (h : m.entries = before ++ e :: after) (j : Nat) (hj : j < e.words.length) :
    (mapImage m)[4 + (before.map MapEntry.words).flatten.length + j]? = e.words[j]? := by
  have hi : mapImage m = (word m.entries.length ++ word2 m.additions ++ word m.overflows
      ++ (before.map MapEntry.words).flatten) ++ (e.words ++ (after.map MapEntry.words).flatten) := by
    unfold mapImage; rw [h]; simp
  have hl : (word m.entries.length ++ word2 m.additions ++ word m.overflows
      ++ (before.map MapEntry.words).flatten).length = 4 + (before.map MapEntry.words).flatten.length := by
    simp [word, word2]; omega
  rw [hi, List.getElem?_append_right (by omega), hl, List.getElem?_append_left (by omega)]
  congr 1
  omega

/-- The view shows the words of the web map image from 0400h on (11). -/
theorem viewWord_map (s : State) (k : Nat) (hk : k < 512) :
    viewWord s (BitVec.ofNat 16 (0x0400 + k)) = (mapImage s.map).getD k 0 := by
  have ha : (BitVec.ofNat 16 (0x0400 + k)).toNat = 0x0400 + k := by
    rw [BitVec.toNat_ofNat]; exact Nat.mod_eq_of_lt (by omega)
  have miss : ∀ (start size : Nat) (image : List Word16), start + size ≤ 0x0400 →
      imageWord (0x0400 + k) start size image = none := by
    intro start size image h; exact if_neg (by omega)
  have hit : imageWord (0x0400 + k) 0x0400 512 (mapImage s.map) = some ((mapImage s.map).getD k 0) := by
    unfold imageWord
    rw [if_pos (by omega), Nat.add_sub_cancel_left, List.getD_eq_getElem?_getD, List.getD_eq_getElem?_getD,
      List.getElem?_take_of_lt hk]
  unfold viewWord
  simp only [ha]
  rw [if_neg (by omega), miss 0x0000 64 _ (by omega), miss 0x0040 64 _ (by omega), miss 0x0080 25 _ (by omega),
    miss 0x0100 256 _ (by omega), miss 0x0200 512 _ (by omega), hit]
  rfl

/-- A full map fits the 512 words of its image while no more than five entries stand in for a kind; R97 and R98 let one
stand in for REGISTER and one for EMBOSS. -/
theorem mapImage_length_le (m : WebMap) (full : m.entries.length ≤ 48)
    (few : m.entries.countP (fun e => e.standIn.isSome) ≤ 5) : (mapImage m).length ≤ 512 := by
  have one : ∀ e : MapEntry, e.words.length ≤ 10 + if e.standIn.isSome then 5 else 0 := by
    intro e
    rw [mapEntry_words_length]
    cases e.stop <;> cases e.standIn <;> cases e.pendingEnd <;> simp
  have all : ∀ es : List MapEntry,
      (es.map MapEntry.words).flatten.length ≤ 10 * es.length + 5 * es.countP (fun e => e.standIn.isSome) := by
    intro es
    induction es with
    | nil => simp
    | cons e es ih =>
      have := one e
      simp only [List.map_cons, List.flatten_cons, List.length_append, List.length_cons, List.countP_cons]
      split at this <;> simp_all <;> omega
  have := all m.entries
  unfold mapImage
  simp only [List.length_append, word, word2, List.length_cons, List.length_nil]
  omega

end Sys2Proof.Machine
end

