-- ==== Sys2Proof/Laws/Web.lean ====
section
/-!
SUPPORT. The web counter under every operation that does not move the web: each leaves it as it is. The encoder's own
steps, the initialisation at an open and a cold reset are the only ones that change it.
-/

namespace Sys2Proof.Machine

open Sys2Proof.Safety

theorem foldl_web {γ : Type} (f : State → γ → State) (h : ∀ s x, (f s x).web = s.web)
    (xs : List γ) (s : State) : (xs.foldl f s).web = s.web := by
  induction xs generalizing s with
  | nil => rfl
  | cons x xs ih => simp [ih, h]

@[simp] theorem evalHolds_web (s : State) :
    (evalHolds s).web = s.web := by
  unfold evalHolds; split <;> simp

@[simp] theorem enterLineState_web (st : LineState) (s : State) :
    (enterLineState st s).web = s.web := by
  unfold enterLineState; split <;> simp

@[simp] theorem setBreakFlag_web (b : Bool) (s : State) :
    (setBreakFlag b s).web = s.web := by
  unfold setBreakFlag; split <;> simp

@[simp] theorem modifyRecord_web (i : Fin 24) (f : RollRecord → RollRecord) (s : State) :
    (modifyRecord i f s).web = s.web := by
  unfold modifyRecord; split <;> simp

@[simp] theorem freeRecord_web (i : Fin 24) (s : State) :
    (freeRecord i s).web = s.web := by
  simp [freeRecord]

@[simp] theorem sendRecords_web (p : Port) (code : Byte) (bytes result : List Byte) (s : State) :
    (sendRecords p code bytes result s).web = s.web := by
  unfold sendRecords; split <;> simp

@[simp] theorem reachWatch_web (p : Port) (s : State) :
    (reachWatch p s).web = s.web := by
  unfold reachWatch; (repeat' split) <;> simp [*]

@[simp] theorem reachWatches_web (s : State) :
    (reachWatches s).web = s.web := by
  unfold reachWatches; simp [foldl_web]

@[simp] theorem enterNoOrder_web (s : State) :
    (enterNoOrder s).web = s.web := by
  simp [enterNoOrder]

@[simp] theorem modifyDir_web (n : Fin 4) (f : DirectoryEntry → DirectoryEntry) (s : State) :
    (modifyDir n f s).web = s.web := rfl

@[simp] theorem modifySlot_web (n : Fin 4) (f : SlotContent → SlotContent) (s : State) :
    (modifySlot n f s).web = s.web := rfl

@[simp] theorem releaseUnjournalled_web (i : Fin 24) (s : State) :
    (releaseUnjournalled i s).web = s.web := by
  simp [releaseUnjournalled]

@[simp] theorem releaseWaiting_web (fuel : Nat) (s : State) :
    (releaseWaiting fuel s).web = s.web := by
  induction fuel generalizing s with
  | zero => rfl
  | succ n ih => unfold releaseWaiting; (repeat' split) <;> simp [*]

@[simp] theorem settleJournalPath_web (s : State) :
    (settleJournalPath s).web = s.web := by
  unfold settleJournalPath; split <;> simp

@[simp] theorem degradeSlot_web (n : Fin 4) (s : State) :
    (degradeSlot n s).web = s.web := by
  simp [degradeSlot]

@[simp] theorem recordFailure_web (op : StoreOp) (target : Option (Fin 4)) (kind : FailureKind) (s : State) :
    (recordFailure op target kind s).web = s.web := rfl

@[simp] theorem modifyBatch_web (n : Nat) (f : Batch → Batch) (s : State) :
    (modifyBatch n f s).web = s.web := rfl

@[simp] theorem pushOp_web (op : StoreOp) (s : State) :
    (pushOp op s).web = s.web := rfl

@[simp] theorem releaseHead_web (s : State) :
    (releaseHead s).web = s.web := rfl

@[simp] theorem pushBatchWrite_web (n : Fin 4) (b : Batch) (s : State) :
    (pushBatchWrite n b s).web = s.web := rfl

@[simp] theorem pushAppend_web (n : Fin 4) (i : Fin 24) (s : State) :
    (pushAppend n i s).web = s.web := by
  simp [pushAppend]

@[simp] theorem takePlaces_web (fuel : Nat) (s : State) :
    (takePlaces fuel s).web = s.web := by
  induction fuel generalizing s with
  | zero => rfl
  | succ n ih => unfold takePlaces; (repeat' split) <;> simp [*]

@[simp] theorem startHead_web (op : StoreOp) (s : State) :
    (startHead op s).web = s.web := by
  unfold startHead; (repeat' split) <;> simp [*]

@[simp] theorem closeOrderAfter_web (written : StoredState) (s : State) :
    (closeOrderAfter written s).web = s.web := by
  unfold closeOrderAfter; split <;> simp

@[simp] theorem failUnstarted_web (op : StoreOp) (s : State) :
    (failUnstarted op s).web = s.web := by
  unfold failUnstarted; split <;> simp

@[simp] theorem failFull_web (op : StoreOp) (s : State) :
    (failFull op s).web = s.web := by
  unfold failFull; split <;> simp

@[simp] theorem sampleEnable_web (s : State) :
    (sampleEnable s).web = s.web := rfl

@[simp] theorem dealHead_web (fuel : Nat) (s : State) :
    (dealHead fuel s).web = s.web := by
  induction fuel generalizing s with
  | zero => rfl
  | succ n ih => unfold dealHead; (repeat' split) <;> simp [*]

@[simp] theorem enqueue_web (op : StoreOp) (s : State) :
    (enqueue op s).web = s.web := by
  unfold enqueue; split <;> simp

@[simp] theorem headerContent_web (n : Fin 4) (f : DirectoryEntry → DirectoryEntry) (s : State) :
    (headerContent n f s).web = s.web := by
  unfold headerContent; split <;> simp

@[simp] theorem advanceClosing_web (s : State) :
    (advanceClosing s).web = s.web := by
  unfold advanceClosing; (repeat' split) <;> simp [*]

@[simp] theorem endHead_web (effects next : State → State) (s : State)
    (heffects : ∀ s, (effects s).web = s.web) (hnext : ∀ s, (next s).web = s.web) :
    (endHead effects next s).web = s.web := by
  unfold endHead; simp [*]

@[simp] theorem readHeader_web (fault : Bool) (n : Fin 4) (s : State) :
    (readHeader fault n s).web = s.web := by
  unfold readHeader; dsimp only; split <;> simp [*]

@[simp] theorem readGeometry_web (fault : Bool) (s : State) :
    (readGeometry fault s).web = s.web := by
  unfold readGeometry; (repeat' split) <;> simp [*]

@[simp] theorem geometryReadEffects_web (faults : BitVec 5) (s : State) :
    (geometryReadEffects faults s).web = s.web := by
  simp [geometryReadEffects]

@[simp] theorem answerOpening_web (status : Status) (s : State) :
    (answerOpening status s).web = s.web := by
  unfold answerOpening; split <;> simp

@[simp] theorem resumeHeader_web (n : Fin 4) (s : State) :
    (resumeHeader n s).web = s.web := by
  simp [resumeHeader]

@[simp] theorem useFresh_web (s : State) :
    (useFresh s).web = s.web := rfl

@[simp] theorem failWrite_web (op : StoreOp) (n : Fin 4) (kind : FailureKind) (s : State) :
    (failWrite op n kind s).web = s.web := by
  simp [failWrite]

@[simp] theorem headerWriteEffects_web (n : Fin 4) (written : StoredState) (h : Header) (verified : Bool)
    (s : State) :
    (headerWriteEffects n written h verified s).web = s.web := by
  unfold headerWriteEffects; split <;> simp

@[simp] theorem recipeWriteEffects_web (n : Fin 4) (r : Recipe) (verified : Bool) (s : State) :
    (recipeWriteEffects n r verified s).web = s.web := by
  unfold recipeWriteEffects; split <;> simp

@[simp] theorem batchWriteEffects_web (n : Fin 4) (b : Batch) (verified : Bool) (s : State) :
    (batchWriteEffects n b verified s).web = s.web := by
  unfold batchWriteEffects; split <;> simp

@[simp] theorem appendDone_web (n : Fin 4) (i : Fin 24) (x : Summary) (s : State) :
    (appendDone n i x s).web = s.web := by
  simp [appendDone]

@[simp] theorem journalAppendEffects_web (n : Fin 4) (i : Fin 24) (x : Summary) (verified : Bool)
    (s : State) :
    (journalAppendEffects n i x verified s).web = s.web := by
  unfold journalAppendEffects; (repeat' split) <;> simp [*]

@[simp] theorem geometryWriteEffects_web (g : Geometry) (verified : Bool) (s : State) :
    (geometryWriteEffects g verified s).web = s.web := by
  unfold geometryWriteEffects; split <;> simp

@[simp] theorem slotEraseEffects_web (n : Fin 4) (verified : Bool) (s : State) :
    (slotEraseEffects n verified s).web = s.web := by
  unfold slotEraseEffects; split <;> simp

@[simp] theorem interruptStore_web (s : State) :
    (interruptStore s).web = s.web := by
  unfold interruptStore; (repeat' split) <;> simp [*]

@[simp] theorem answerJournal_web (p : Port) (bytes : List Byte) (s : State) :
    (answerJournal p bytes s).web = s.web := by
  unfold answerJournal; (repeat' split) <;> simp [*]

@[simp] theorem journalReadEffects_web (n : Fin 4) (position : Nat) (p : Port) (verified : Bool) (s : State) :
    (journalReadEffects n position p verified s).web = s.web := by
  unfold journalReadEffects; split <;> simp

@[simp] theorem pushLabel_web (i : Fin 24) (s : State) :
    (pushLabel i s).web = s.web := by
  unfold pushLabel; split <;> simp

@[simp] theorem joinLabel_web (i : Fin 24) (s : State) :
    (joinLabel i s).web = s.web := by
  unfold joinLabel; split <;> simp

@[simp] theorem removeHead_web (s : State) :
    (removeHead s).web = s.web := by
  unfold removeHead; dsimp only; (repeat' split) <;> simp [*]

@[simp] theorem takeJournalPath_web (i : Fin 24) (s : State) :
    (takeJournalPath i s).web = s.web := by
  unfold takeJournalPath; (repeat' split) <;> simp [*]

@[simp] theorem reportRecord_web (i : Fin 24) (f : RollRecord → RollRecord) (s : State) :
    (reportRecord i f s).web = s.web := rfl

@[simp] theorem finishLabel_web (i : Fin 24) (f : RollRecord → RollRecord) (s : State) :
    (finishLabel i f s).web = s.web := by
  simp [finishLabel]

@[simp] theorem labelFetchBody_web (p : Port) (s : State) :
    (labelFetchBody p s).web = s.web := by
  unfold labelFetchBody; (repeat' split) <;> simp [*]

@[simp] theorem labelDoneBody_web (p : Port) (args : List Byte) (s : State) :
    (labelDoneBody p args s).web = s.web := by
  unfold labelDoneBody; (repeat' split) <;> simp [*]

@[simp] theorem labelSkipBody_web (p : Port) (args : List Byte) (s : State) :
    (labelSkipBody p args s).web = s.web := by
  unfold labelSkipBody; (repeat' split) <;> simp [*]

@[simp] theorem wasteSamples_web (n : Nat) (s : State) :
    (wasteSamples n s).web = s.web := rfl

@[simp] theorem emptySamples_web (s : State) :
    (emptySamples s).web = s.web := rfl

@[simp] theorem shadeSampleBody_web (p : Port) (args : List Byte) (s : State) :
    (shadeSampleBody p args s).web = s.web := by
  unfold shadeSampleBody; split <;> simp

@[simp] theorem drainSample_web (record : Option (Fin 24)) (start : Pos) (x : Sample) (s : State) :
    (drainSample record start x s).web = s.web := by
  unfold drainSample; (repeat' split) <;> simp [*]

@[simp] theorem markThin_web (record : Option (Fin 24)) (s : State) :
    (markThin record s).web = s.web := by
  unfold markThin; (repeat' split) <;> simp [*]

@[simp] theorem drainSamples_web (record : Option (Fin 24)) (start c : Pos) (s : State) :
    (drainSamples record start c s).web = s.web := by
  unfold drainSamples; simp [foldl_web]

@[simp] theorem saveBatch_web (k : Nat) (s : State) :
    (saveBatch k s).web = s.web := by
  unfold saveBatch; dsimp only; (repeat' split) <;> simp [*]

@[simp] theorem writeResult_web (i : Fin 24) (result : ShadeResult) (batch : Option Nat) (low : Bool)
    (s : State) :
    (writeResult i result batch low s).web = s.web := by
  simp [writeResult]

@[simp] theorem assignBatch_web (i : Fin 24) (b : Batch) (s : State) :
    (assignBatch i b s).web = s.web := by
  simp [assignBatch]

@[simp] theorem foundBatch_web (i : Fin 24) (mean : Shade) (s : State) :
    (foundBatch i mean s).web = s.web := by
  simp [foundBatch]

@[simp] theorem foundOrUnclassed_web (i : Fin 24) (mean : Shade) (spread : Int) (distance : Option Int)
    (low : Bool) (s : State) :
    (foundOrUnclassed i mean spread distance low s).web = s.web := by
  unfold foundOrUnclassed; split <;> simp

@[simp] theorem matchBatches_web (i : Fin 24) (mean : Shade) (spread : Int) (s : State) :
    (matchBatches i mean spread s).web = s.web := by
  unfold matchBatches; (repeat' split) <;> simp [*]

@[simp] theorem classify_web (i : Fin 24) (s : State) :
    (classify i s).web = s.web := by
  unfold classify; dsimp only; (repeat' split) <;> simp [*]

@[simp] theorem batchCloseBody_web (p : Port) (args : List Byte) (s : State) :
    (batchCloseBody p args s).web = s.web := by
  unfold batchCloseBody; dsimp only; (repeat' split) <;> simp [*]

@[simp] theorem readBatchBody_web (p : Port) (args : List Byte) (s : State) :
    (readBatchBody p args s).web = s.web := by
  unfold readBatchBody; dsimp only; (repeat' split) <;> simp [*]

@[simp] theorem consumeMap_web (record : Option (Fin 24)) (start c : Pos) (s : State) :
    (consumeMap record start c s).web = s.web := by
  unfold consumeMap; dsimp only; (repeat' split) <;> simp [foldl_web]

@[simp] theorem defectBody_web (p : Port) (args : List Byte) (s : State) :
    (defectBody p args s).web = s.web := by
  unfold defectBody; dsimp only; (repeat' split) <;> simp [*]

@[simp] theorem raiseCut_web (s : State) :
    (raiseCut s).web = s.web := rfl

@[simp] theorem putPlan_web (p : Option Plan) (s : State) :
    (putPlan p s).web = s.web := rfl

@[simp] theorem installPlan_web (p : Plan) (s : State) :
    (installPlan p s).web = s.web := by
  unfold installPlan; split <;> simp

@[simp] theorem beginWaste_web (start : Pos) (s : State) :
    (beginWaste start s).web = s.web := by
  simp [beginWaste]

@[simp] theorem placeEnd_web (p : Plan) (c : Pos) (s : State) :
    (placeEnd p c s).web = s.web := by
  unfold placeEnd; split <;> simp

@[simp] theorem addWaste_web (length : Int) (s : State) :
    (addWaste length s).web = s.web := rfl

@[simp] theorem numberRoll_web (i : Fin 24) (s : State) :
    (numberRoll i s).web = s.web := by
  simp [numberRoll]

@[simp] theorem gradeRecord_web (i : Fin 24) (unconfirmed : Bool) (s : State) :
    (gradeRecord i unconfirmed s).web = s.web := by
  simp [gradeRecord]

@[simp] theorem freeWaste_web (i : Fin 24) (s : State) :
    (freeWaste i s).web = s.web := by
  simp [freeWaste]

@[simp] theorem finishRecord_web (i : Fin 24) (unconfirmed : Bool) (s : State) :
    (finishRecord i unconfirmed s).web = s.web := by
  unfold finishRecord; split <;> simp

@[simp] theorem finishCut_web (x : CutRecord) (unconfirmed : Bool) (s : State) :
    (finishCut x unconfirmed s).web = s.web := by
  unfold finishCut; (repeat' split) <;> simp [*]

@[simp] theorem modifyCuts_web (st : CutState) (f : CutRecord → CutRecord) (s : State) :
    (modifyCuts st f s).web = s.web := rfl

@[simp] theorem pushCut_web (x : CutRecord) (s : State) :
    (pushCut x s).web = s.web := rfl

@[simp] theorem endAwaiting_web (s : State) :
    (endAwaiting s).web = s.web := by
  unfold endAwaiting; split <;> simp

@[simp] theorem withdrawCut_web (s : State) :
    (withdrawCut s).web = s.web := rfl

@[simp] theorem takeTransport_web (c : Pos) (s : State) :
    (takeTransport c s).web = s.web := by
  unfold takeTransport; split <;> simp

@[simp] theorem closeRecord_web (p : Plan) (c : Pos) (s : State) :
    (closeRecord p c s).web = s.web := by
  unfold closeRecord; split <;> simp

@[simp] theorem fixCut_web (p : Plan) (c : Pos) (s : State) :
    (fixCut p c s).web = s.web := by
  simp [fixCut]

@[simp] theorem assertStrobe_web (position : Pos) (s : State) :
    (assertStrobe position s).web = s.web := rfl

@[simp] theorem modifyTracked_web (p : Plan) (f : RollRecord → RollRecord) (s : State) :
    (modifyTracked p f s).web = s.web := by
  unfold modifyTracked; split <;> simp

@[simp] theorem consumeSegment_web (p : Plan) (c : Pos) (s : State) :
    (consumeSegment p c s).web = s.web := by
  simp [consumeSegment]

@[simp] theorem strobeFor_web (p : Plan) (x : CutRecord) (s : State) :
    (strobeFor p x s).web = s.web := by
  simp [strobeFor]

@[simp] theorem strobeNow_web (s : State) :
    (strobeNow s).web = s.web := by
  unfold strobeNow; split <;> simp

@[simp] theorem settlePlan_web (fuel : Nat) (s : State) :
    (settlePlan fuel s).web = s.web := by
  induction fuel generalizing s with
  | zero => rfl
  | succ n ih => unfold settlePlan; dsimp only; (repeat' split) <;> simp [*]

@[simp] theorem cutDue_web (s : State) :
    (cutDue s).web = s.web := by
  simp [cutDue]

@[simp] theorem strobe_web (s : State) :
    (strobe s).web = s.web := by
  unfold strobe; split <;> simp

@[simp] theorem strobeDeassert_web (s : State) :
    (strobeDeassert s).web = s.web := by
  unfold strobeDeassert; (repeat' split) <;> simp [*]

@[simp] theorem confirmTimeout_web (s : State) :
    (confirmTimeout s).web = s.web := by
  unfold confirmTimeout; (repeat' split) <;> simp [*]

@[simp] theorem endWasteAt_web (clean : Pos) (s : State) :
    (endWasteAt clean s).web = s.web := by
  unfold endWasteAt; (repeat' split) <;> simp [*]

@[simp] theorem forceWasteEnd_web (s : State) :
    (forceWasteEnd s).web = s.web := by
  unfold forceWasteEnd; (repeat' split) <;> simp [*]

@[simp] theorem spliceFollowing_web (x : Pos) (s : State) :
    (spliceFollowing x s).web = s.web := by
  unfold spliceFollowing; dsimp only; (repeat' split) <;> simp [*]

@[simp] theorem handSplice_web (x : Pos) (s : State) :
    (handSplice x s).web = s.web := by
  unfold handSplice; (repeat' split) <;> simp [*]

@[simp] theorem spliceBody_web (p : Port) (args : List Byte) (s : State) :
    (spliceBody p args s).web = s.web := by
  unfold spliceBody; dsimp only; split <;> simp [*]

@[simp] theorem cutFetchBody_web (p : Port) (s : State) :
    (cutFetchBody p s).web = s.web := by
  unfold cutFetchBody; split <;> simp

@[simp] theorem enterDrain_web (s : State) :
    (enterDrain s).web = s.web := rfl

@[simp] theorem afterReport_web (x : CutRecord) (s : State) :
    (afterReport x s).web = s.web := by
  unfold afterReport; dsimp only; (repeat' split) <;> simp [*]

@[simp] theorem takeCutDone_web (x : CutRecord) (s : State) :
    (takeCutDone x s).web = s.web := by
  simp [takeCutDone]

@[simp] theorem cutDoneBody_web (p : Port) (args : List Byte) (s : State) :
    (cutDoneBody p args s).web = s.web := by
  unfold cutDoneBody; split <;> simp

@[simp] theorem mergePlan_web (i : Fin 24) (p : Plan) (s : State) :
    (mergePlan i p s).web = s.web := by
  unfold mergePlan; split <;> simp

@[simp] theorem takeOver_web (i : Fin 24) (p : Plan) (s : State) :
    (takeOver i p s).web = s.web := by
  simp [takeOver]

@[simp] theorem failTracked_web (i : Fin 24) (s : State) :
    (failTracked i s).web = s.web := by
  unfold failTracked; split <;> simp

@[simp] theorem failUntracked_web (x : CutRecord) (s : State) :
    (failUntracked x s).web = s.web := by
  unfold failUntracked; dsimp only; split <;> simp [*]

@[simp] theorem takeCutFailed_web (x : CutRecord) (s : State) :
    (takeCutFailed x s).web = s.web := by
  unfold takeCutFailed; split <;> simp

@[simp] theorem cutFailedBody_web (p : Port) (args : List Byte) (s : State) :
    (cutFailedBody p args s).web = s.web := by
  unfold cutFailedBody; split <;> simp

@[simp] theorem breakRecord_web (p : Plan) (e : Pos) (s : State) :
    (breakRecord p e s).web = s.web := by
  unfold breakRecord; (repeat' split) <;> simp [*]

@[simp] theorem breakPlan_web (s : State) :
    (breakPlan s).web = s.web := by
  unfold breakPlan; split <;> simp

@[simp] theorem breakRolls_web (s : State) :
    (breakRolls s).web = s.web := by
  unfold breakRolls; split <;> simp

@[simp] theorem closingCutOf_web (p : Plan) (s : State) :
    (closingCutOf p s).web = s.web := by
  simp [closingCutOf]

@[simp] theorem closingCut_web (s : State) :
    (closingCut s).web = s.web := by
  unfold closingCut; split <;> simp

@[simp] theorem rollFlagBody_web (p : Port) (args : List Byte) (s : State) :
    (rollFlagBody p args s).web = s.web := by
  unfold rollFlagBody; (repeat' split) <;> simp [*]

@[simp] theorem readRollBody_web (p : Port) (args : List Byte) (s : State) :
    (readRollBody p args s).web = s.web := by
  unfold readRollBody; (repeat' split) <;> simp [*]

@[simp] theorem applyTune_web (t : Tune) (s : State) :
    (applyTune t s).web = s.web := rfl

@[simp] theorem applyStaged_web (s : State) :
    (applyStaged s).web = s.web := by
  unfold applyStaged; split <;> simp

@[simp] theorem discardTune_web (s : State) :
    (discardTune s).web = s.web := rfl

@[simp] theorem boundaryAt_web (position : Pos) (s : State) :
    (boundaryAt position s).web = s.web := by
  simp [boundaryAt]

@[simp] theorem coast_web (s : State) :
    (coast s).web = s.web := by
  simp [coast]

@[simp] theorem checkStretch_web (s : State) :
    (checkStretch s).web = s.web := by
  unfold checkStretch; dsimp only; split <;> simp [*]

@[simp] theorem measure_web (c : Pos) (fromSeek : Bool) (misses : Nat) (s : State) :
    (measure c fromSeek misses s).web = s.web := by
  unfold measure; split <;> simp

@[simp] theorem forgetMeasured_web (s : State) :
    (forgetMeasured s).web = s.web := rfl

@[simp] theorem keyCapture_web (c : Pos) (channel : ChannelRecord) (s : State) :
    (keyCapture c channel s).web = s.web := by
  unfold keyCapture; (repeat' split) <;> simp [*]

@[simp] theorem startClock_web (s : State) :
    (startClock s).web = s.web := rfl

@[simp] theorem haltClock_web (s : State) :
    (haltClock s).web = s.web := rfl

@[simp] theorem endPulse_web (s : State) :
    (endPulse s).web = s.web := by
  unfold endPulse; split <;> simp

@[simp] theorem putUnit_web (k : Fin 7) (x : ChannelStep) (s : State) :
    (putUnit k x s).web = s.web := by
  unfold putUnit; (repeat' split) <;> simp [*]

@[simp] theorem eachUnit_web (f : Fin 7 → RegisterChannel → ChannelStep) (s : State) :
    (eachUnit f s).web = s.web := by
  unfold eachUnit; simp [foldl_web]

@[simp] theorem judgeFrame_web (f : Frame) (s : State) :
    (judgeFrame f s).web = s.web := rfl

@[simp] theorem registerFrame_web (f : Frame) (s : State) :
    (registerFrame f s).web = s.web := by
  simp [registerFrame]

@[simp] theorem openUnverified_web (s : State) :
    (openUnverified s).web = s.web := rfl

@[simp] theorem trimFetchBody_web (p : Port) (s : State) :
    (trimFetchBody p s).web = s.web := by
  unfold trimFetchBody; split <;> simp

@[simp] theorem trimAppliedBody_web (p : Port) (args : List Byte) (s : State) :
    (trimAppliedBody p args s).web = s.web := by
  unfold trimAppliedBody; (repeat' split) <;> simp [*]

@[simp] theorem trimHoldBody_web (p : Port) (args : List Byte) (s : State) :
    (trimHoldBody p args s).web = s.web := by
  unfold trimHoldBody; split <;> simp

@[simp] theorem setFlush_web (on : Bool) (s : State) :
    (setFlush on s).web = s.web := by
  unfold setFlush; split <;> simp

@[simp] theorem sampleFlushBody_web (p : Port) (args : List Byte) (s : State) :
    (sampleFlushBody p args s).web = s.web := by
  unfold sampleFlushBody; split <;> simp

@[simp] theorem trimTimeout_web (k : Fin 7) (s : State) :
    (trimTimeout k s).web = s.web := by
  simp [trimTimeout]

@[simp] theorem putEmboss_web (x : ChannelStep) (s : State) :
    (putEmboss x s).web = s.web := by
  unfold putEmboss; split <;> simp

@[simp] theorem modifyNip_web (f : Nip → Nip) (s : State) :
    (modifyNip f s).web = s.web := rfl

@[simp] theorem enterNip_web (st : NipState) (s : State) :
    (enterNip st s).web = s.web := by
  unfold enterNip; split <;> simp

@[simp] theorem orderNipOpen_web (reason : OrderReason) (s : State) :
    (orderNipOpen reason s).web = s.web := by
  simp [orderNipOpen]

@[simp] theorem judgeEmboss_web (s : State) :
    (judgeEmboss s).web = s.web := by
  unfold judgeEmboss; split <;> simp

@[simp] theorem judgeChange_web (before : NipState) (s : State) :
    (judgeChange before s).web = s.web := by
  unfold judgeChange; split <;> simp

@[simp] theorem embossAcquired_web (s : State) :
    (embossAcquired s).web = s.web := by
  unfold embossAcquired; dsimp only; split <;> simp [*]

@[simp] theorem withdrawPermit_web (s : State) :
    (withdrawPermit s).web = s.web := by
  unfold withdrawPermit; split <;> simp

@[simp] theorem countClose_web (result : Option Int) (s : State) :
    (countClose result s).web = s.web := by
  unfold countClose; split <;> simp

@[simp] theorem closedSample_web (result : Option Int) (s : State) :
    (closedSample result s).web = s.web := by
  unfold closedSample; dsimp only; (repeat' split) <;> simp [*]

@[simp] theorem nipFrame_web (result : Option Int) (s : State) :
    (nipFrame result s).web = s.web := by
  unfold nipFrame; dsimp only; (repeat' split) <;> simp [*]

@[simp] theorem holdMke_web (c : Pos) (s : State) :
    (holdMke c s).web = s.web := rfl

@[simp] theorem recordEmbossFrame_web (ci : Pos) (ce : Option Pos) (s : State) :
    (recordEmbossFrame ci ce s).web = s.web := rfl

@[simp] theorem embossFrame_web (ci : Pos) (s : State) :
    (embossFrame ci s).web = s.web := by
  unfold embossFrame; dsimp only; (repeat' split) <;> simp [*]

@[simp] theorem idxReturned_web (s : State) :
    (idxReturned s).web = s.web := by
  unfold idxReturned; dsimp only; split <;> simp [*]

@[simp] theorem embTimeout_web (s : State) :
    (embTimeout s).web = s.web := by
  simp [embTimeout]

@[simp] theorem embFetchBody_web (p : Port) (s : State) :
    (embFetchBody p s).web = s.web := by
  unfold embFetchBody; split <;> simp

@[simp] theorem embAppliedBody_web (p : Port) (args : List Byte) (s : State) :
    (embAppliedBody p args s).web = s.web := by
  unfold embAppliedBody; split <;> simp

@[simp] theorem closeNip_web (cause : CloseCause) (s : State) :
    (closeNip cause s).web = s.web := by
  simp [closeNip]

@[simp] theorem nipClosedBody_web (p : Port) (s : State) :
    (nipClosedBody p s).web = s.web := by
  unfold nipClosedBody; split <;> simp

@[simp] theorem openNip_web (s : State) :
    (openNip s).web = s.web := by
  simp [openNip]

@[simp] theorem nipOpenedBody_web (p : Port) (s : State) :
    (nipOpenedBody p s).web = s.web := by
  unfold nipOpenedBody; split <;> simp

@[simp] theorem putChannel_web (ch : Channel) (c : ChannelRecord) (s : State) :
    (putChannel ch c s).web = s.web := rfl

@[simp] theorem armPhased_web (ch : Channel) (limit : Pos) (s : State) :
    (armPhased ch limit s).web = s.web := by
  unfold armPhased; split <;> simp

@[simp] theorem phasedFollow_web (before : Option Pos) (ch : Channel) (s : State) :
    (phasedFollow before ch s).web = s.web := by
  unfold phasedFollow; dsimp only; (repeat' split) <;> simp [*]

@[simp] theorem phasedFollowAll_web (before : Option Pos) (s : State) :
    (phasedFollowAll before s).web = s.web := by
  unfold phasedFollowAll; split <;> simp

@[simp] theorem phasedDrop_web (s : State) :
    (phasedDrop s).web = s.web := rfl

@[simp] theorem phasedNext_web (ch : Channel) (x : Pos) (s : State) :
    (phasedNext ch x s).web = s.web := by
  simp [phasedNext]

@[simp] theorem setResult_web (k : Fin 7) (position : Pos) (s : State) :
    (setResult k position s).web = s.web := rfl

@[simp] theorem acceptUnit_web (k : Fin 7) (position : Pos) (c : ChannelRecord) (s : State) :
    (acceptUnit k position c s).web = s.web := rfl

@[simp] theorem openUnit_web (c0 : Pos) (k : Fin 7) (s : State) :
    (openUnit c0 k s).web = s.web := by
  unfold openUnit; dsimp only; (repeat' split) <;> simp [*]

@[simp] theorem openFrame_web (c0 : Pos) (s : State) :
    (openFrame c0 s).web = s.web := by
  unfold openFrame; simp [foldl_web]

@[simp] theorem closeUnit_web (f : Frame) (k : Fin 7) (s : State) :
    (closeUnit f k s).web = s.web := by
  unfold closeUnit; dsimp only; split <;> simp [*]

@[simp] theorem finishFrame_web (f : Frame) (s : State) :
    (finishFrame f s).web = s.web := by
  unfold finishFrame; simp [foldl_web]

@[simp] theorem closeFrame_web (s : State) :
    (closeFrame s).web = s.web := by
  unfold closeFrame; split <;> simp

@[simp] theorem acceptKey_web (s : State) :
    (acceptKey s).web = s.web := by
  simp [acceptKey]

@[simp] theorem acceptIndex_web (s : State) :
    (acceptIndex s).web = s.web := by
  simp [acceptIndex]

@[simp] theorem keyReturned_web (s : State) :
    (keyReturned s).web = s.web := by
  simp [keyReturned]

@[simp] theorem returned_web (ch : Channel) (s : State) :
    (returned ch s).web = s.web := by
  unfold returned; split <;> simp

@[simp] theorem missKey_web (ch : Channel) (x : Pos) (s : State) :
    (missKey ch x s).web = s.web := by
  unfold missKey; dsimp only; split <;> simp [*]

@[simp] theorem openWindow_web (ch : Channel) (s : State) :
    (openWindow ch s).web = s.web := by
  unfold openWindow; split <;> simp

@[simp] theorem endWindow_web (ch : Channel) (s : State) :
    (endWindow ch s).web = s.web := by
  unfold endWindow; (repeat' split) <;> simp [*]

@[simp] theorem keyEdge_web (ch : Channel) (accept : State → State) (s : State)
    (haccept : ∀ s, (accept s).web = s.web) :
    (keyEdge ch accept s).web = s.web := by
  unfold keyEdge; dsimp only; split <;> simp [*]

@[simp] theorem unitEdge_web (k : Fin 7) (s : State) :
    (unitEdge k s).web = s.web := by
  unfold unitEdge; dsimp only; (repeat' split) <;> simp [*]

@[simp] theorem acceptPhased_web (ch : Channel) (hand : State → State) (s : State)
    (hhand : ∀ s, (hand s).web = s.web) :
    (acceptPhased ch hand s).web = s.web := by
  unfold acceptPhased; simp [*]

@[simp] theorem phasedEdge_web (ch : Channel) (hand : State → State) (s : State)
    (hhand : ∀ s, (hand s).web = s.web) :
    (phasedEdge ch hand s).web = s.web := by
  unfold phasedEdge; dsimp only; split <;> simp [*]

@[simp] theorem takeEdge_web (ch : Channel) (s : State) :
    (takeEdge ch s).web = s.web := by
  cases ch with
  | mke => exact phasedEdge_web .mke _ s (fun _ => rfl)
  | mk0 | unit k | idx | mkw => unfold takeEdge; simp

@[simp] theorem markEdge_web (ch : Channel) (falling : Bool) (s : State) :
    (markEdge ch falling s).web = s.web := by
  unfold markEdge; split <;> simp

@[simp] theorem coastingBoundary_web (s : State) :
    (coastingBoundary s).web = s.web := by
  unfold coastingBoundary; split <;> simp

@[simp] theorem enableChannels_web (s : State) :
    (enableChannels s).web = s.web := rfl

@[simp] theorem disableChannels_web (s : State) :
    (disableChannels s).web = s.web := rfl

@[simp] theorem breakChannels_web (s : State) :
    (breakChannels s).web = s.web := by
  simp [breakChannels]

@[simp] theorem resumeSlot_web (p : Port) (order : Nat) (n : Fin 4) (s : State) :
    (resumeSlot p order n s).web = s.web := by
  simp [resumeSlot]

@[simp] theorem parkEmboss_web (s : State) :
    (parkEmboss s).web = s.web := by
  simp [parkEmboss]

@[simp] theorem enterClosing_web (s : State) :
    (enterClosing s).web = s.web := by
  simp [enterClosing]

@[simp] theorem orderCloseBody_web (p : Port) (s : State) :
    (orderCloseBody p s).web = s.web := by
  simp [orderCloseBody]

@[simp] theorem putRecipe_web (r : Recipe) (s : State) :
    (putRecipe r s).web = s.web := by
  unfold putRecipe; split <;> simp

@[simp] theorem recipeWriteBody_web (p : Port) (s : State) :
    (recipeWriteBody p s).web = s.web := by
  unfold recipeWriteBody; dsimp only; (repeat' split) <;> simp [*]

@[simp] theorem takeTune_web (t : Tune) (s : State) :
    (takeTune t s).web = s.web := by
  unfold takeTune; split <;> simp

@[simp] theorem recipeTuneBody_web (p : Port) (s : State) :
    (recipeTuneBody p s).web = s.web := by
  unfold recipeTuneBody; dsimp only; (repeat' split) <;> simp [*]

@[simp] theorem putGeometry_web (g : Geometry) (s : State) :
    (putGeometry g s).web = s.web := by
  simp [putGeometry]

@[simp] theorem geometryWriteBody_web (p : Port) (s : State) :
    (geometryWriteBody p s).web = s.web := by
  unfold geometryWriteBody; dsimp only; (repeat' split) <;> simp [*]

@[simp] theorem startEmboss_web (s : State) :
    (startEmboss s).web = s.web := by
  unfold startEmboss; split <;> simp

@[simp] theorem startFromSetup_web (s : State) :
    (startFromSetup s).web = s.web := by
  simp [startFromSetup]

@[simp] theorem startFromStopped_web (s : State) :
    (startFromStopped s).web = s.web := by
  unfold startFromStopped; split <;> simp

@[simp] theorem startBody_web (p : Port) (s : State) :
    (startBody p s).web = s.web := by
  unfold startBody; (repeat' split) <;> simp [*]

@[simp] theorem stopBody_web (p : Port) (s : State) :
    (stopBody p s).web = s.web := by
  simp [stopBody]

@[simp] theorem breakEmboss_web (s : State) :
    (breakEmboss s).web = s.web := by
  unfold breakEmboss; dsimp only; split <;> simp [*]

@[simp] theorem breakBlocks_web (s : State) :
    (breakBlocks s).web = s.web := by
  simp [breakBlocks]

@[simp] theorem takeBreak_web (s : State) :
    (takeBreak s).web = s.web := by
  unfold takeBreak; split <;> simp

@[simp] theorem brkBody_web (p : Port) (s : State) :
    (brkBody p s).web = s.web := by
  simp [brkBody]

@[simp] theorem responseRead_web (p : Port) (count : Nat) (s : State) :
    (responseRead p count s).web = s.web := by
  unfold responseRead; (repeat' split) <;> simp [*]

@[simp] theorem statusRead_web (p : Port) (count : Nat) (s : State) :
    (statusRead p count s).web = s.web := by
  unfold statusRead; split <;> simp

@[simp] theorem noticeClear_web (p : Port) (kinds : Word16) (s : State) :
    (noticeClear p kinds s).web = s.web := rfl

@[simp] theorem noticeMaskWrite_web (p : Port) (mask : Word16) (s : State) :
    (noticeMaskWrite p mask s).web = s.web := rfl

@[simp] theorem dropTransfer_web (p : Port) (s : State) :
    (dropTransfer p s).web = s.web := by
  unfold dropTransfer; split <;> simp

@[simp] theorem flushFifo_web (p : Port) (s : State) :
    (flushFifo p s).web = s.web := by
  simp [flushFifo]

@[simp] theorem setFrameFlag_web (p : Port) (s : State) :
    (setFrameFlag p s).web = s.web := rfl

@[simp] theorem fifoDirection_web (p : Port) (direction : Byte) (s : State) :
    (fifoDirection p direction s).web = s.web := by
  unfold fifoDirection; dsimp only; (repeat' split) <;> simp [*]

@[simp] theorem fifoFlush_web (p : Port) (s : State) :
    (fifoFlush p s).web = s.web := by
  simp [fifoFlush]

@[simp] theorem fifoData_web (p : Port) (bytes : List Byte) (s : State) :
    (fifoData p bytes s).web = s.web := rfl

@[simp] theorem writeLate_web (p : Port) (s : State) :
    (writeLate p s).web = s.web := by
  unfold writeLate; split <;> rfl

@[simp] theorem writeWord_web (p : Port) (s : State) :
    (writeWord p s).web = s.web := by
  unfold writeWord; (repeat' split) <;> simp [*]

@[simp] theorem viewPointerLoad_web (p : Port) (address : Word16) (s : State) :
    (viewPointerLoad p address s).web = s.web := rfl

@[simp] theorem viewDataRead_web (p : Port) (count : Nat) (s : State) :
    (viewDataRead p count s).web = s.web := rfl

@[simp] theorem nibbleWrite_web (p : Port) (value : Byte) (s : State) :
    (nibbleWrite p value s).web = s.web := rfl

@[simp] theorem ignoredTransaction_web (p : Port) (s : State) :
    (ignoredTransaction p s).web = s.web := rfl

@[simp] theorem requestShift_web (p : Port) (args : List Byte) (s : State) :
    (requestShift p args s).web = s.web := rfl

@[simp] theorem unknownRequest_web (p : Port) (code : Byte) (args : List Byte) (s : State) :
    (unknownRequest p code args s).web = s.web := by
  unfold unknownRequest; (repeat' split) <;> simp [*]

@[simp] theorem discardedRequest_web (p : Port) (args : List Byte) (s : State) :
    (discardedRequest p args s).web = s.web := by
  unfold discardedRequest; split <;> simp

@[simp] theorem watchSetBody_web (p : Port) (args : List Byte) (s : State) :
    (watchSetBody p args s).web = s.web := by
  simp [watchSetBody]

@[simp] theorem setPurge_web (p : Port) (x : Purge) (s : State) :
    (setPurge p x s).web = s.web := rfl

@[simp] theorem refusePurge_web (r : Req) (p : Port) (status : Status) (s : State) :
    (refusePurge r p status s).web = s.web := rfl

@[simp] theorem purgeBeginBody_web (p : Port) (args : List Byte) (s : State) :
    (purgeBeginBody p args s).web = s.web := by
  unfold purgeBeginBody; (repeat' split) <;> simp [*]

@[simp] theorem purgeConfirmBody_web (p : Port) (args : List Byte) (s : State) :
    (purgeConfirmBody p args s).web = s.web := by
  unfold purgeConfirmBody; (repeat' split) <;> simp [*]

@[simp] theorem queueErase_web (n : Fin 4) (s : State) :
    (queueErase n s).web = s.web := by
  simp [queueErase]

@[simp] theorem commitPurge_web (p : Port) (n : Fin 4) (s : State) :
    (commitPurge p n s).web = s.web := by
  unfold commitPurge; (repeat' split) <;> simp [*]

@[simp] theorem purgeCommitBody_web (p : Port) (args : List Byte) (s : State) :
    (purgeCommitBody p args s).web = s.web := by
  unfold purgeCommitBody; (repeat' split) <;> simp [*]

@[simp] theorem clearProtectBody_web (p : Port) (s : State) :
    (clearProtectBody p s).web = s.web := rfl

@[simp] theorem journalReadBody_web (p : Port) (args : List Byte) (s : State) :
    (journalReadBody p args s).web = s.web := by
  unfold journalReadBody; dsimp only; (repeat' split) <;> simp [*]

@[simp] theorem resetPort_web (p : Port) (s : State) :
    (resetPort p s).web = s.web := rfl

@[simp] theorem setEnable_web (level : Bool) (s : State) :
    (setEnable level s).web = s.web := rfl

@[simp] theorem storeEnRise_web (s : State) :
    (storeEnRise s).web = s.web := by
  unfold storeEnRise; split <;> simp

@[simp] theorem storeEnFall_web (s : State) :
    (storeEnFall s).web = s.web := rfl

@[simp] theorem geometryReadEnd_web (faults : BitVec 5) (s : State) :
    (geometryReadEnd faults s).web = s.web := by
  unfold geometryReadEnd; split <;> simp

@[simp] theorem journalReadEnd_web (verified : Bool) (s : State) :
    (journalReadEnd verified s).web = s.web := by
  unfold journalReadEnd; split <;> simp

@[simp] theorem headerWriteEnd_web (verified : Bool) (s : State) :
    (headerWriteEnd verified s).web = s.web := by
  unfold headerWriteEnd; split <;> simp

@[simp] theorem recipeWriteEnd_web (verified : Bool) (s : State) :
    (recipeWriteEnd verified s).web = s.web := by
  unfold recipeWriteEnd; split <;> simp

@[simp] theorem batchWriteEnd_web (verified : Bool) (s : State) :
    (batchWriteEnd verified s).web = s.web := by
  unfold batchWriteEnd; split <;> simp

@[simp] theorem journalAppendEnd_web (verified : Bool) (s : State) :
    (journalAppendEnd verified s).web = s.web := by
  unfold journalAppendEnd; split <;> simp

@[simp] theorem geometryWriteEnd_web (verified : Bool) (s : State) :
    (geometryWriteEnd verified s).web = s.web := by
  unfold geometryWriteEnd; split <;> simp

@[simp] theorem slotEraseEnd_web (verified : Bool) (s : State) :
    (slotEraseEnd verified s).web = s.web := by
  unfold slotEraseEnd; split <;> simp

@[simp] theorem settleEvents_web (s : State) :
    (settleEvents s).web = s.web := by
  unfold settleEvents; simp [foldl_web]

end Sys2Proof.Machine
end

