-- ==== Sys2Proof/Tests/Slice0.lean ====
section
/-!
SUPPORT. Tests: what WellFormed refuses, for every statement with hypotheses a state and operands that meet them, and
a few worked examples from the manual.
-/

namespace Sys2Proof.Tests

open Sys2Proof.Machine Sys2Proof.Safety

/-! ### Small states -/

/-- The part after its start-up read, in NO_ORDER. -/
def calm : State :=
  { State.reset with store := { State.reset.store with queue := [], head := .absent, enabled := true } }

/-- An open, unstored order in a line state. -/
def opened (st : LineState) : State :=
  { calm with line := { calm.line with state := st, order := some 1, run := some 1 } }

/-- The request meets the checks of every request. -/
def admits (r : Req) (p : Port) (args : List Byte) (s : State) : Bool :=
  (s.port p).request.isNone && (s.port p).response.isNone && r.role.ports.contains p
    && r.role.admitted.contains s.line.state && args.length == r.role.length

theorem admitted {r : Req} {p : Port} {args : List Byte} {s : State} (h : admits r p args s = true) :
    Admitted r p args s := by
  simp only [admits, Bool.and_eq_true, Option.isNone_iff_eq_none, List.contains_iff_mem, beq_iff_eq] at h
  exact ⟨⟨h.1.1.1.1, h.1.1.1.2⟩, h.1.1.2, h.1.2, h.2⟩

/-- A port whose FIFO is set toward the station. -/
def reading (p : Port) (s : State) : State := s.modifyPort p (fun x => { x with toStation := true })

/-- A port whose FIFO holds bytes from the station. -/
def holding (p : Port) (bytes : List Byte) (s : State) : State :=
  s.modifyPort p (fun x => { x with fifo := bytes })

/-- The web at a position. -/
def web (w : Nat) (s : State) : State := { s with web := { s.web with w := w } }

/-! ### WellFormed -/

theorem test_wellFormed_frame_of_eight :
    (Instr.labelDone .quality (List.replicate 8 0#8)).wellFormed = true := by decide

theorem test_wellFormed_refuses_a_longer_frame :
    (Instr.labelDone .quality (List.replicate 9 0#8)).wellFormed = false := by decide

theorem test_wellFormed_refuses_a_known_code :
    (Instr.requestUnknownCode .press 0x10#8 []).wellFormed = false := by decide

theorem test_wellFormed_refuses_a_valid_access_byte :
    (Instr.accessByteInvalid .press 0x0C#8).wellFormed = false := by decide

theorem test_wellFormed_refuses_a_fifth_status_byte :
    (Instr.statusRead .press 5).wellFormed = false := by decide

theorem test_wellFormed_refuses_a_longer_response :
    (Instr.responseRead .press 24).wellFormed = false := by decide

/-! ### The encoder and the repeat clock -/

theorem witness_WebNeverDecreases :
    (opened .run).line.state ≠ .noOrder ∧ (opened .run).line.state ≠ .opening ∧
      inProgress (opened .run) = none ∧ Instr.forwardStep ≠ Instr.coldReset := by decide

theorem witness_EncoderSteps :
    calm.line.state = .noOrder ∧ (opened .run).line.state ≠ .noOrder ∧ (opened .run).web.debt = 0 ∧
      (web 4294967294 (opened .run)).web.w < 4294967295 ∧
      4294967295 ≤ (web 4294967295 (opened .run)).web.w := by decide

/-- An order in RUN one step before LENGTH is taken up. -/
def lengthNext : State := web 3999999999 (opened .run)

theorem witness_EncoderSteps_nothing_due :
    lengthNext.line.state ≠ .noOrder ∧ lengthNext.web.debt = 0 ∧ lengthNext.web.w < 4294967295 ∧
      NothingDue { lengthNext with web := { lengthNext.web with pair := .aHigh } } ∧
      lengthNext.web.pair = .bothLow ∧ lengthNext.line.holds.length = false := by
  refine ⟨by decide, by decide, by decide, ⟨fun p => by cases p <;> rfl, fun ch => ?_, fun i hi => ?_⟩, rfl, rfl⟩
  · cases ch with
    | unit k => fin_cases k <;> exact ⟨rfl, rfl⟩
    | mk0 => exact ⟨rfl, rfl⟩
    | mke => exact ⟨rfl, rfl⟩
    | idx => exact ⟨rfl, rfl⟩
    | mkw => exact ⟨rfl, rfl⟩
  · simp only [webEvents, List.mem_cons, List.not_mem_nil, or_false] at hi
    rcases hi with rfl | rfl | rfl | rfl | rfl | rfl | rfl | rfl <;> rfl

/-- A RUNNING clock at the end of its first repeat. -/
def running : State :=
  { web 5300 (opened .run) with clock := { calm.clock with state := .running, rpoEnd := some 5300 } }

theorem witness_CoastingBoundary :
    running.clock.state = .running ∧ running.clock.origin + running.recipe.repeatLength = running.web.w ∧
      (calm.clock.state ≠ .running) := by decide

theorem witness_PulsesEnd :
    running.clock.rpoEnd = some (running.web.w : Int) ∧
      (web 5299 running).clock.rpoEnd = some ((web 5299 running).web.w + 1 : Int) := by decide


/-- A store operation in progress. -/
def working (op : StoreOp) (c : InFlight) (s : State) : State :=
  { s with store := { s.store with queue := [op], head := .running c } }

/-- A head that waits for STORE_EN. -/
def waiting (op : StoreOp) (s : State) : State :=
  { s with store := { s.store with queue := [op], head := .waiting, enabled := false } }

theorem witness_ColdReset :
    calm.store.head = .absent ∧
      (∀ op c, (working op c calm).store.head = .running c ∧ (working op c calm).store.queue = [op]) ∧
      StoreOp.isRead .geometryRead = true ∧
      cellAt (calm.nv.slots.get 3).journal (calm.dir 3).count = .blank :=
  ⟨rfl, fun _ _ => ⟨rfl, rfl⟩, rfl, by decide⟩

/-- A request in execution on a port. -/
def executing (p : Port) (code : Byte) (x : Waiting) (s : State) : State :=
  s.modifyPort p (fun y => { y with request := some ⟨code, x, false⟩ })

theorem witness_PortReset :
    (calm.port .press).request = none ∧
      ((executing .press 0x38#8 (.words [1#8, 2#8] []) calm).port .press).request
        = some ⟨0x38#8, .words [1#8, 2#8] [], false⟩ ∧
      ((executing .press 0x10#8 .opening calm).port .press).request = some ⟨0x10#8, .opening, false⟩ ∧
      ((executing .press 0x54#8 .journal calm).port .press).request = some ⟨0x54#8, .journal, false⟩ := by
  decide

/-! ### Mark capture -/

/-- An order in RUN at w = 10,000 with a channel record replaced. -/
def onChannel (ch : Channel) (c : ChannelRecord) : State := putChannel ch c (web 10000 (opened .run))

/-- An enabled channel with a window of a state and centre. -/
def windowed (w : WindowState) (x : Option Pos) : ChannelRecord :=
  { ChannelRecord.initial with enabled := true, window := w, centre := x }

/-- A unit channel with an open frame. -/
def framed (c : ChannelRecord) : State :=
  let s := onChannel (.unit 6) c
  { s with capture := { s.capture with frame := some ⟨9900, Table.replicate 7 none⟩ } }

theorem witness_UnitEdges_ignored :
    (calm.channel .idx).enabled = false ∧
      0 < ({ (onChannel .idx (windowed .opened (some 10000))) with
        web := { calm.web with debt := 1 } } : State).web.debt ∧
      calm.geometry.polarity.getLsbD Channel.mk0.bit ≠ true := by decide

theorem witness_UnitEdges_pending :
    let s := onChannel (.unit 6) { windowed .closed none with edges := [1, 2, 3] }
    (s.channel (.unit 6)).enabled = true ∧ s.web.debt = 0 ∧
      s.geometry.polarity.getLsbD ((6 : Fin 7).val + 1) = false ∧ s.capture.frame = none ∧
      (s.channel (.unit 6)).edges.length < 4 := by decide

theorem witness_UnitEdges_bounds :
    ∀ x ∈ [(9600 : Int), 10400],
      let s := framed (windowed .opened (some x))
      (s.channel (.unit 6)).enabled = true ∧ s.capture.frame.isSome = true ∧
        (s.channel (.unit 6)).window ≠ .closed ∧ (s.channel (.unit 6)).centre = some x ∧
        x - s.recipe.window ≤ s.web.w ∧ (s.web.w : Int) ≤ x + s.recipe.window ∧
        (s.channel (.unit 6)).lastAccepted ≠ some (s.web.w : Int) := by decide

theorem witness_UnitEdges_strays :
    ((framed (windowed .closed none)).channel (.unit 6)).window = .closed ∧
      ((framed (windowed .opened (some 9599))).channel (.unit 6)).centre = some 9599 ∧
      (9599 : Int) + calm.recipe.window < 10000 ∧ (10000 : Int) < 10401 - calm.recipe.window ∧
      ((framed { windowed .opened (some 10000) with lastAccepted := some 10000 }).channel
        (.unit 6)).lastAccepted = some 10000 := by decide

/-- A key edge awaited in SEEK by a RUNNING clock. -/
def seeking : State :=
  { (onChannel .mk0 { ChannelRecord.initial with enabled := true }) with
    clock := { calm.clock with state := .running } }

theorem witness_FirstKeyEdge :
    (seeking.channel .mk0).enabled = true ∧ seeking.web.debt = 0 ∧
      seeking.geometry.polarity.getLsbD 0 = false ∧ (seeking.channel .mk0).state = .seek ∧
      seeking.clock.state = .running := by decide

/-- The same with a tune of the filter depth staged, a full sample list, a unit's pending edges, and a phased channel
that an earlier k0 left. -/
def seekingTuned (edges : List Pos) (offset : Int) (phased : ChannelRecord) (k0 : Option Pos) : State :=
  let s := putChannel .mke phased (putChannel (.unit 0) { windowed .closed none with edges := edges } seeking)
  { s with
    line := { s.line with stagedTune := some [(17, 2)] }
    recipe := s.recipe.setField 3 offset
    clock := { s.clock with k0 := k0 }
    register := { s.register with
      units := s.register.units.set 0 { RegisterChannel.initial with samples := [1, 2, 3] } } }

theorem witness_FirstKeyEdge_tune :
    let s := seekingTuned [] 0 (windowed .closed none) none
    (s.channel .mk0).enabled = true ∧ s.web.debt = 0 ∧ s.geometry.polarity.getLsbD 0 = false ∧
      (s.channel .mk0).state = .seek ∧ s.clock.state = .running ∧ s.line.stagedTune = some [(17, 2)] ∧
      s.line.stagedTune ≠ none ∧ (s.recipe.tuned [(17, 2)]).filterDepth = 2 ∧ (s.unit 0).samples = [1, 2, 3] := by
  decide

theorem witness_FirstKeyEdge_unit :
    (∀ x ∈ [(9599, 0), (9600, 0), (10400, 0), (10401, 0), (9199, (-401)), (9198, (-401)), (9200, (-400))],
      let s := seekingTuned [x.1] x.2 (windowed .closed none) none
      (s.channel (.unit 0)).enabled = true ∧ (s.channel (.unit 1)).enabled = false ∧
        (s.channel (.unit 0)).edges = [] ++ x.1 :: [] ∧ s.recipe.window = 400 ∧ s.recipe.unitOffset 0 = x.2) ∧
      Inside (10000 + 0) 400 9600 ∧ Inside (10000 + 0) 400 10400 ∧ ¬ Inside (10000 + 0) 400 9599 ∧
      ¬ Inside (10000 + 0) 400 10401 ∧ Inside (10000 - 401) 400 9199 ∧ ¬ Inside (10000 - 401) 400 9198 ∧
      (10000 - 401 : Int) + 400 < 10000 ∧ (10000 : Int) ≤ 10000 - 400 + 400 := by
  simp only [Inside]; decide

theorem witness_FirstKeyEdge_phased :
    (∀ k0 ∈ [none, some (10000 : Int), some 4700], ∀ st ∈ [WindowState.armed, .opened, .closed],
      let s := seekingTuned [] 0 (windowed st (some 12000)) k0
      (s.channel .mke).enabled = true ∧ (s.channel .mkw).enabled = false ∧ s.clock.k0 = k0 ∧
        (s.channel .mke).window = st ∧ 0 < (s.recipe.tuned [(17, 2)]).repeatLength) ∧
      (some (4700 : Int)) ≠ some 10000 := by decide

theorem test_key_in_seek_applies_the_tune :
    ∃ t, exec (.markEdge .mk0 false) (seekingTuned [9600] 0 (windowed .closed none) none) = .next t ∧
      t.recipe.filterDepth = 2 ∧ (t.unit 0).samples = [2, 3] ∧ (t.channel (.unit 0)).lastAccepted = some 9600 ∧
      (t.channel .mke).centre = some 10000 := ⟨_, rfl, by decide⟩

/-- A key edge awaited in TRACK about a centre, with the last coasting boundary and the previous capture. -/
def tracking (x : Pos) (last previous : Option Pos) : State :=
  { (onChannel .mk0 { windowed .opened (some x) with state := .track, run := 1 }) with
    clock := { calm.clock with state := .running, lastCoast := last, previousKey := previous } }

theorem witness_FirstKeyEdge_tracking :
    ∀ x ∈ [(9600 : Int), 10400], ∀ b ∈ [none, some x, some (x - 400), some (x - 401)],
      ∀ previous ∈ [none, some (4700 : Int)],
      let s := tracking x b previous
      (s.channel .mk0).enabled = true ∧ s.web.debt = 0 ∧ s.geometry.polarity.getLsbD 0 = false ∧
        (s.channel .mk0).state ≠ .seek ∧ s.clock.state = .running ∧ (s.channel .mk0).window ≠ .closed ∧
        (s.channel .mk0).centre = some x ∧ x - s.recipe.window ≤ s.web.w ∧ (s.web.w : Int) ≤ x + s.recipe.window ∧
        (s.channel .mk0).lastAccepted ≠ some (s.web.w : Int) ∧ s.clock.lastCoast = b ∧
        s.clock.previousKey = previous := by decide

/-- A winder channel with a window about a centre and a defined k0. -/
def winding (x : Pos) : State :=
  { (onChannel .mkw (windowed .opened (some x))) with clock := { calm.clock with k0 := some 9000 } }

theorem witness_WinderEdge :
    (∀ x ∈ [(9600 : Int), 10400], ((winding x).channel .mkw).enabled = true ∧
      (winding x).web.debt = 0 ∧ (winding x).geometry.polarity.getLsbD 10 = false ∧
      (winding x).clock.k0 = some 9000 ∧ ((winding x).channel .mkw).window ≠ .closed ∧
      ((winding x).channel .mkw).centre = some x ∧ 0 < (winding x).recipe.repeatLength ∧
      x - (winding x).recipe.window ≤ (winding x).web.w ∧
      ((winding x).web.w : Int) ≤ x + (winding x).recipe.window ∧
      ((winding x).channel .mkw).lastAccepted ≠ some ((winding x).web.w : Int)) ∧
      (10000 : Int) < 10401 - calm.recipe.window ∧ (9599 : Int) + calm.recipe.window < 10000 := by decide

/-- An emboss channel with a window about a centre and a defined k0. -/
def approaching (x : Pos) : State :=
  { (onChannel .mke (windowed .opened (some x))) with clock := { calm.clock with k0 := some 9000 } }

theorem witness_WinderEdge_emboss :
    ∀ x ∈ [(9599 : Int), 9600, 10400, 10401],
      let s := approaching x
      (s.channel .mke).enabled = true ∧ s.web.debt = 0 ∧ s.geometry.polarity.getLsbD 8 = false ∧
        s.clock.k0 = some 9000 ∧ (s.channel .mke).window ≠ .closed ∧ (s.channel .mke).centre = some x ∧
        0 < s.recipe.repeatLength ∧ (s.channel .mke).lastAccepted ≠ some (s.web.w : Int) ∧
        (x - s.recipe.window ≤ s.web.w ∧ (s.web.w : Int) ≤ x + s.recipe.window ∨ x = 9599 ∨ x = 10401) := by decide

theorem witness_WindowsOpenAndEnd_open :
    ∀ ch ∈ [Channel.mk0, .unit 0, .mke, .idx, .mkw],
      let s := onChannel ch (windowed .armed (some 10400))
      (s.channel ch).enabled = true ∧ (s.channel ch).window = .armed ∧
        (s.channel ch).centre = some 10400 ∧ 10400 - halfWidth s.recipe ch ≤ s.web.w ∧
        (s.channel ch).lastAccepted ≠ some (s.web.w : Int) ∧
        ((s.web.w : Int) < 10401 - halfWidth s.recipe ch) := by decide

theorem witness_WindowsOpenAndEnd_end :
    ∀ ch ∈ [Channel.mk0, .unit 0, .mke, .idx, .mkw], ∀ run ∈ [2, 3],
      let s := onChannel ch { windowed .opened (some 9599) with run := run }
      (s.channel ch).enabled = true ∧ (s.channel ch).window ≠ .closed ∧
        (s.channel ch).centre = some 9599 ∧ 9599 + halfWidth s.recipe ch < s.web.w ∧
        (s.web.w : Int) ≤ 9600 + halfWidth s.recipe ch ∧ (s.channel ch).run = run := by decide

theorem witness_FrameCloses :
    (web 12550 (framed (windowed .closed none))).capture.frame = some ⟨9900, Table.replicate 7 none⟩ ∧
      (9900 : Int) + calm.recipe.repeatLength / 2 = 12550 ∧
      ((web 12549 (framed (windowed .closed none))).web.w : Int)
        < 9900 + calm.recipe.repeatLength / 2 := by decide

/-- A register channel with a trim of sequence 7 posted at frame 0. -/
def trimmed (st : RegisterState) : RegisterChannel :=
  { RegisterChannel.initial with state := st, outstanding := some ⟨7#8, 12, 0, false⟩, trim := 12 }

/-- A register channel in a state, with a list, frames since evaluation and a trim. -/
def gathering (st : RegisterState) (samples : List Int) (frames : Nat) (trim : Int) : RegisterChannel :=
  { RegisterChannel.initial with state := st, samples := samples, sinceEvaluation := frames, trim := trim }

theorem witness_FrameCloses_sample :
    let k := unitSettings calm
    let c := { gathering .acquire [] 0 0 with lockCount := 2 }
    Usable k 9900 c ∧ Usable k 9900 { c with settleBoundary := 9900 } ∧
      ¬ Usable k 9900 { c with settleBoundary := 9901 } ∧
      mag (-50) ≤ k.lockWindow ∧ k.lockWindow < mag 51 ∧ NoTimeout 16 c ∧ k.hold = false ∧
      clampInt (-k.acquireStep) k.acquireStep (-51) ≠ 0 := by
  refine ⟨⟨rfl, rfl, by decide⟩, ⟨rfl, rfl, by decide⟩, fun h => absurd h.2.2 (by decide), by decide, by decide,
    (fun o h => nomatch h), rfl, by decide⟩

theorem witness_FrameCloses_evaluation :
    let k := unitSettings calm
    (∀ c ∈ [gathering .locked [6, 6, 6] 3 0, gathering .locked [6, 6, 6] 3 1999, gathering .limit [6, 6, 6] 3 2000,
        gathering .limit [6, 6, 6] 3 (-2000)], Evaluated k (listAfter k (some 6) c) c) ∧
      IsCorrection k [6, 6, 6, 6] (-3) ∧ IsCorrection k [5, 5, 5, 5] 0 ∧ IsCorrection k [-6, -6, -6, -6] 3 ∧
      ¬ Evaluated k [6, 6, 6] (gathering .locked [6, 6, 6] 3 0) ∧
      ¬ Evaluated k [6, 6, 6, 6] (gathering .locked [] 2 0) ∧
      mag 2000 < mag (2000 + 3) ∧ mag (2000 + -3) ≤ mag 2000 ∧ (gathering .locked [] 0 0).misses = 0 := by
  simp only [Evaluated, IsCorrection]; decide

theorem witness_FrameCloses_hold :
    (trimmed .hold).outstanding = some ⟨7#8, 12, 0, false⟩ ∧ ¬ NoTimeout 16 (trimmed .hold) ∧
      NoTimeout 15 (trimmed .hold) ∧ (trimmed .hold).state ≠ .off ∧ (unitSettings calm).flush = false ∧
      ({ trimmed .hold with misses := 6 } : RegisterChannel).misses < 7 ∧
      7 ≤ ({ trimmed .hold with misses := 7 } : RegisterChannel).misses := by
  refine ⟨rfl, fun h => ?_, fun o h => ?_, by decide, rfl, by decide, by decide⟩
  · rcases h _ rfl with h | h <;> exact absurd h (by decide)
  · cases h; exact .inr (by decide)

theorem witness_FrameCloses_plan :
    ∀ p, (web 12550 (framed (windowed .closed none))).roll.plan = some p → p.stop ≠ none := fun _ h => nomatch h

/-! ### Register control and embossing -/

/-- An order in RUN whose unit 7 and emboss channel have an outstanding trim, at a frame index. -/
def posted (st : RegisterState) (frame : Nat) : State :=
  { (opened .run) with
    register := { calm.register with units := calm.register.units.set 6 (trimmed st), frameIndex := frame }
    emboss := { calm.emboss with channel := trimmed st, frameIndex := frame } }

theorem witness_TrimsTimeOut :
    ((posted .locked 16).unit 6).outstanding = some ⟨7#8, 12, 0, false⟩ ∧
      0 + 16 ≤ (posted .locked 16).register.frameIndex ∧ (posted .locked 15).register.frameIndex < 0 + 16 ∧
      (posted .locked 16).emboss.channel.outstanding = some ⟨7#8, 12, 0, false⟩ ∧
      0 + 16 ≤ (posted .locked 16).emboss.frameIndex ∧ (posted .locked 15).emboss.frameIndex < 0 + 16 ∧
      (posted .locked 15).emboss.nip.state ≠ .ready := by decide

theorem witness_TrimsAcknowledged :
    Admitted .trimApplied .press [7#8, 7#8] (posted .locked 0) ∧
      Admitted .trimApplied .press [0#8, 7#8] (posted .locked 0) ∧
      Admitted .embApplied .emboss [7#8] (posted .locked 0) ∧
      ((posted .locked 0).unit 6).outstanding = some ⟨7#8, 12, 0, false⟩ ∧
      ((posted .locked 0).unit 6).state ≠ .off ∧ (posted .off 0).emboss.channel.state = .off ∧
      ((posted .locked 0).unit 5).state = .off ∧ ((7 : Byte) ≠ 8) :=
  ⟨admitted (by decide), admitted (by decide), admitted (by decide), by decide⟩

theorem witness_HoldAndFlush :
    (∀ v, Admitted .trimHold .press [v] (posted .locked 0)) ∧
      (∀ v, Admitted .sampleFlush .press [v] (posted .locked 0)) ∧
      (posted .locked 0).register.sampleFlush = false ∧ (1#8).toNat = 1 ∧ 1 < (2#8).toNat :=
  ⟨fun _ => ⟨⟨rfl, rfl⟩, by decide, by decide, rfl⟩, fun _ => ⟨⟨rfl, rfl⟩, by decide, by decide, rfl⟩,
    by decide⟩

theorem witness_TrimsFetched :
    Admitted .trimFetch .press [] (reading .press (posted .locked 0)) ∧
      Admitted .trimFetch .press [] (posted .locked 0) ∧
      Admitted .embFetch .emboss [] (reading .emboss (posted .locked 0)) ∧
      Admitted .embFetch .emboss [] (posted .locked 0) ∧
      Admitted .embFetch .emboss [] (reading .emboss (opened .setup)) ∧
      ((reading .press (posted .locked 0)).port .press).toStation = true ∧
      ((posted .locked 0).port .emboss).toStation = false ∧
      (reading .emboss (opened .setup)).emboss.channel.outstanding = none :=
  ⟨admitted (by decide), admitted (by decide), admitted (by decide), admitted (by decide),
    admitted (by decide), by decide⟩

theorem witness_TrimWithinLimit :
    let k := unitSettings calm
    0 ≤ k.trimLimit ∧ mag (trimmed .locked).trim ≤ k.trimLimit ∧ mag 2000 ≤ k.trimLimit := by decide

/-- An order in RUN with a nip state. -/
def nip (st : NipState) : State :=
  { (opened .run) with emboss := { calm.emboss with nip := { calm.emboss.nip with state := st } } }

theorem witness_NipReports :
    (∀ st, Admitted .nipClosed .emboss [] (nip st) ∧ Admitted .nipOpened .emboss [] (nip st)) ∧
      (nip .ready).emboss.nip.state = .ready ∧ (nip .parked).emboss.nip.state = .parked :=
  ⟨fun st => ⟨⟨⟨rfl, rfl⟩, by cases st <;> decide, by cases st <;> decide, rfl⟩,
    ⟨⟨rfl, rfl⟩, by cases st <;> decide, by cases st <;> decide, rfl⟩⟩, rfl, rfl⟩

/-- An order in RUN with emboss enabled and its channel in a state, with a nip and the capture that MKE holds. -/
def embossing (st : RegisterState) (x : Nip) (held : Option HeldCapture) : State :=
  { (onChannel .idx { windowed .opened (some 10400) with state := .track }) with
    recipe := calm.recipe.setField 22 1
    emboss := { calm.emboss with channel := gathering st [] 0 0, nip := x, held := held } }

theorem witness_NipReports_frame :
    (∀ held ∈ [none, some ⟨10000, false⟩, some ⟨4701, false⟩, some ⟨4700, false⟩, some ⟨10001, false⟩,
        some ⟨10000, true⟩], ∀ st ∈ [RegisterState.off, .acquire, .locked, .hold, .limit],
      let s := embossing st Nip.initial held
      (s.channel .idx).enabled = true ∧ s.web.debt = 0 ∧ s.geometry.polarity.getLsbD 9 = false ∧
        (s.channel .idx).window ≠ .closed ∧ (s.channel .idx).centre = some 10400 ∧
        10400 - s.recipe.embossWindow ≤ s.web.w ∧ (s.web.w : Int) ≤ 10400 + s.recipe.embossWindow ∧
        (s.channel .idx).lastAccepted ≠ some (s.web.w : Int) ∧ s.recipe.embossEnableField = 1 ∧
        s.line.state = .run ∧ s.emboss.held = held ∧ s.emboss.channel.state = st) ∧
      (10000 : Int) < 4701 + calm.recipe.repeatLength ∧ 4700 + calm.recipe.repeatLength ≤ (10000 : Int) ∧
      (onChannel .idx { ChannelRecord.initial with enabled := true }).channel .idx
        = { ChannelRecord.initial with enabled := true } ∧ ChannelRecord.initial.state = .seek ∧
      calm.recipe.embossEnableField ≠ 1 := by decide

theorem witness_NipReports_judged :
    (∀ st ∈ [NipState.opened, .ready, .opening, .closed],
      let s := embossing .locked { Nip.initial with state := st } none
      admits .nipClosed .emboss [] s = true ∧ admits .nipOpened .emboss [] s = true ∧
        s.emboss.nip.state = st ∧ s.recipe.embossEnableField = 1 ∧ s.line.state = .run) ∧
      (nip .ready).recipe.embossEnableField ≠ 1 := by decide

theorem witness_NipReports_nip :
    let r := calm.recipe
    mag (-30) ≤ r.nipCloseWindow ∧ r.nipCloseWindow < mag 31 ∧ mag 100 ≤ r.embossTolerance ∧
      r.embossTolerance < mag (-101) ∧ (Nip.initial.toleranceRun = 0) ∧
      1 ≤ ({ Nip.initial with state := .closed, toleranceRun := 1 } : Nip).toleranceRun ∧
      7 ≤ ({ gathering .hold [] 0 0 with misses := 7 } : RegisterChannel).misses := by decide

theorem witness_WindowsOpenAndEnd_nip :
    ∀ st ∈ [RegisterState.off, .acquire, .locked, .hold, .limit], ∀ n ∈ [NipState.ready, .closed, .opened],
      let s := putChannel .idx { windowed .opened (some 9599) with run := 3 }
        (embossing st { Nip.initial with state := n, closeRun := 2 } none)
      (s.channel .idx).enabled = true ∧ (s.channel .idx).window ≠ .closed ∧
        (s.channel .idx).centre = some 9599 ∧ 9599 + halfWidth s.recipe .idx < s.web.w ∧
        3 ≤ (s.channel .idx).run ∧ s.emboss.channel.state = st ∧ s.emboss.nip.state = n ∧
        s.recipe.embossEnableField = 1 ∧ s.line.state = .run := by decide

/-! ### The web map -/

theorem witness_DefectReported :
    (∀ c ∈ [15#8, 16#8], admits .defect .quality [c, 1#8, 0#8, 0#8, 0#8] (opened .run) = true) ∧
      natOfBytes ([15#8, 1#8, 0#8, 0#8, 0#8].take 1) = (15 : Fin 16).val ∧
      15 < natOfBytes ([16#8, 1#8, 0#8, 0#8, 0#8].take 1) ∧
      (opened .run).map.entries.length < 48 := by decide

/-- A map of a number of splices and then entries. -/
def mapped (n : Nat) (es : List MapEntry) : WebMap :=
  { entries := List.replicate n (newEntry .splice 0 (some 0) .nothing false) ++ es, additions := n, overflows := 0 }

/-- An order in RUN at w = 10,000 with a map. -/
def onMap (m : WebMap) : State := { web 10000 (opened .run) with map := m }

/-- A closed defect entry of class 15 that ends at a position. -/
def classed (stop : Pos) : MapEntry := newEntry .defect 9000 (some stop) (.defectClass 15) false

theorem extendsNone_of {kind : MapKind} {d : Detail} {start : Pos} {m : WebMap}
    (h : mergeTarget kind d start m = none) : ExtendsNone kind d start m.entries := by
  rcases mergeTarget_spec kind d start m with ⟨-, h2⟩ | ⟨b, e, a, z, -, h2, -⟩
  · exact h2
  · rw [h] at h2; cases h2

theorem witness_DefectReported_extended :
    ∀ b ∈ [(9499 : Int), 9999], Extends .defect (.defectClass 15) 9999 (onMap (mapped 0 [classed b])).map.entries
      [] (classed b) [] b := by
  intro b hb
  refine ⟨⟨rfl, ⟨rfl, rfl, by simp [classed, newEntry]⟩, (fun _ h => nomatch h), (fun _ h => nomatch h)⟩, rfl,
    by show (9000 : Int) ≤ 9999; decide, ?_⟩
  simp only [List.mem_cons, List.not_mem_nil, or_false] at hb
  rcases hb with rfl | rfl <;> decide

theorem witness_DefectReported_added :
    (∀ m ∈ [mapped 47 [], mapped 46 [classed 9498, classed 9498], mapped 47 [classed 9498], mapped 48 []],
      ExtendsNone .defect (.defectClass 15) 9999 m.entries) ∧
      (mapped 47 []).entries.length < 48 ∧ 48 ≤ (mapped 46 [classed 9498, classed 9498]).entries.length ∧
      2 ≤ faults (mapped 46 [classed 9498, classed 9498]) ∧ faults (mapped 47 [classed 9498]) = 1 ∧
      faults (mapped 48 []) = 0 ∧ 48 ≤ (mapped 48 []).entries.length := by
  refine ⟨fun m hm => extendsNone_of ?_, by decide, by decide, by decide, by decide, by decide, by decide⟩
  simp only [List.mem_cons, List.not_mem_nil, or_false] at hm
  rcases hm with rfl | rfl | rfl | rfl <;> decide

theorem witness_WindowsOpenAndEnd_span :
    (∃ e ∈ (mapped 0 [newEntry .register 9 none .unverified false]).entries, e.kind = .register ∧ e.stop = none) ∧
      (∀ e ∈ (mapped 47 []).entries, e.kind = .register → e.stop ≠ none) ∧
      ExtendsNone .register .unverified 10000 (mapped 47 []).entries :=
  ⟨⟨_, List.mem_singleton.2 rfl, rfl, rfl⟩, by decide, extendsNone_of (by decide)⟩

theorem witness_SpliceReported :
    Admitted .splice .press [0x80#8, 0x1A#8, 0x06#8, 0#8] (opened .setup) ∧
      Admitted .splice .press [0x81#8, 0x1A#8, 0x06#8, 0#8] (opened .setup) ∧
      natOfBytes [0x80#8, 0x1A#8, 0x06#8, 0#8] = 400000 ∧
      natOfBytes [0x81#8, 0x1A#8, 0x06#8, 0#8] = 400001 ∧
      (opened .setup).roll.plan = none ∧ (opened .setup).map.entries.length < 48 :=
  ⟨admitted (by decide), admitted (by decide), by decide⟩

/-- A defect entry of class 2. -/
def defect (start : Pos) (stop : Option Pos) : MapEntry := newEntry .defect start stop (.defectClass 2) false

theorem witness_Consumption :
    (1000 : Int) ≤ (defect 1000 (some 1200)).start ∧ (defect 999 (some 1000)).start < 1000 ∧
      (newEntry .splice 999 (some 999) .nothing false).kind = .splice ∧
      (max 999 100 : Int) < min 1000 1000 ∧ (100 : Int) ≤ 100 ∧ (100 : Int) < 101 ∧
      (defect 100 (some 100)).stop = some 100 ∧ (defect 999 none).stop = none ∧
      (defect 999 none).kind ≠ .splice := by decide

/-- A SALE record with a full list, a full overflow count and a number of samples. -/
def charging (n : Nat) : RollRecord :=
  { RollRecord.freed 1 with
    state := .winding, defects := List.replicate 8 ⟨.defect, .overflow, 0, 1⟩, defectOverflow := 65535
    shade := { n := n, sum := ⟨0, 0, 0⟩, range := none } }

/-- An order in RUN with the segment [0, 1,000) on record 0, one entry of the map and two samples in it. -/
def sharing (n : Nat) (record : Option (Fin 24)) : State :=
  let s := opened .run
  { s with
    roll := { s.roll with
      plan := some { openWaste 0 with kind := .sale, record := record }
      records := s.roll.records.set 0 (charging n) }
    map := mapped 0 [defect 900 none]
    shade := { s.shade with queue := [⟨0, ⟨5000, 1, -1⟩⟩, ⟨999, ⟨5001, 2, -2⟩⟩, ⟨1000, ⟨5002, 3, -3⟩⟩], thin := true } }

theorem witness_Consumption_share :
    (∀ n ∈ [0, 65533, 65534, 65535], ((sharing n (some 0)).record 0).defects.length ≤ 8 ∧
      ((sharing n (some 0)).record 0).defectOverflow ≤ 65535 ∧
      ((sharing n (some 0)).record 0).defectTotal ≤ 4294967295 ∧
      (sharing n (some 0)).shade.wasteSamples ≤ 4294967295 ∧
      (samplesTaken 0 1000 ((sharing n (some 0)).record 0) (sharing n (some 0)).shade.queue).length =
        min 2 (65535 - n)) ∧
      charges 0 1000 (sharing 0 none).map = [⟨.defect, .defectClass 2, 900, 100⟩] := by decide

/-! ### The roll former -/

/-- A SALE plan of [0, 100,500) on record 0. -/
def sale : Plan :=
  { openWaste 0 with kind := .sale, stop := some 100500, unmatched := true, record := some 0 }

/-- A winding record. -/
def wound (st : RecordState) (k : SegmentKind) : RollRecord :=
  { RollRecord.freed 1 with state := st, kind := k, stop := some 100500 }

/-- An order in RUN with a plan on record 0 and a roll record of its own kind, D_K being 0, at a web position. -/
def rolling (w : Nat) (p : Plan) : State :=
  { web w (opened .run) with
    roll := { calm.roll with plan := some p, records := calm.roll.records.set 0 (wound .winding p.kind) } }

/-- Without a defined k0 the first and the last match are the position itself. -/
theorem firstMatch_fixed {s : State} (h : s.clock.k0 = none) (x y : Pos) : FirstMatch s x y ↔ y = x := by
  simp [FirstMatch, h]

theorem lastMatch_fixed {s : State} (h : s.clock.k0 = none) (x y : Pos) : LastMatch s x y ↔ y = x := by
  simp [LastMatch, h]

/-- SPLICE entries at positions. -/
def spliced (zs : List Pos) : WebMap :=
  { entries := zs.map (fun z => newEntry .splice z (some z) .nothing false), additions := 0, overflows := 0 }

/-- A plan of waste of [0, 100,500). -/
def settled : Plan := { sale with kind := .waste }

/-- A dodged roll of [0, 100,500) with waste up to 110,000 to follow. -/
def dodged : Plan := { sale with following := some ⟨110000, false, true⟩, cause := .spliceDodge }

theorem witness_SpliceReported_plan :
    (∀ d ∈ [36999, 37000, 40500, 42499, 42500, 49999, 51999, 52000], ∀ p ∈ [sale, settled, dodged],
      admits .splice .press (bytesOfNat 4 d) (rolling 60000 p) = true ∧ natOfBytes (bytesOfNat 4 d) = d) ∧
      (rolling 60000 sale).recipe.spliceGuard = 2000 ∧ (rolling 60000 sale).clock.k0 = none ∧
      Dodges (rolling 60000 sale) 0 97000 95000 ∧ Dodges (rolling 60000 sale) 0 102499 100499 ∧
      ¬ Dodges (rolling 60000 sale) 0 96999 94999 ∧ ¬ Dodges (rolling 65001 sale) 0 97000 95000 ∧
      DueAhead (rolling 60000 sale) 95000 ∧ DueAhead (rolling 60000 settled) 102500 ∧
      settled.phase = .winding ∧ settled.stop = some 100500 ∧ dodged.following = some ⟨110000, false, true⟩ ∧
      (110000 : Int) < 109999 + 2000 ∧ ¬ (112000 : Int) < 110000 + 2000 ∧
      2 ≤ faults (mapped 46 [classed 9498, classed 9498]) ∧ faults (mapped 47 [classed 9498]) < 2 := by
  simp only [Dodges, DueAhead]; decide

/-- The order with the cut lead and the splice guard replaced and a transport error. -/
def rollingNear (w : Nat) (p : Plan) (lead guard transport : Int) : State :=
  let s := rolling w p
  { s with
    recipe := (s.recipe.setField 40 lead).setField 42 guard
    roll := { s.roll with transport := [transport] } }

theorem witness_SpliceReported_dodge_cut :
    admits .splice .press (bytesOfNat 4 32000) (rolling 65000 sale) = true ∧ natOfBytes (bytesOfNat 4 32000) = 32000 ∧
      Dodges (rolling 65000 sale) 0 97000 95000 ∧ ¬ DueAhead (rolling 65000 sale) 95000 ∧
      StrobeAhead (rolling 65000 sale) 95000 95000 ∧
      admits .splice .press (bytesOfNat 4 2000) (rollingNear 95000 sale 0 2000 0) = true ∧
      Dodges (rollingNear 95000 sale 0 2000 0) 0 97000 95000 ∧ ¬ DueAhead (rollingNear 95000 sale 0 2000 0) 95000 ∧
      StrobeReached (rollingNear 95000 sale 0 2000 0) 95000 ∧
      StrobeAhead (rollingNear 95000 sale 0 2000 1) 95000 95001 ∧
      0 < (rollingNear 95000 sale 0 2000 0).recipe.repeatLength := by
  simp only [Dodges, DueAhead, StrobeAhead, StrobeReached]; decide

theorem witness_SpliceReported_waste_cut :
    admits .splice .press (bytesOfNat 4 28000) (rolling 72500 settled) = true ∧
      natOfBytes (bytesOfNat 4 28000) = 28000 ∧ DueAhead (rolling 72499 settled) 102500 ∧
      ¬ DueAhead (rolling 72500 settled) 102500 ∧ StrobeAhead (rolling 72500 settled) 102500 102500 ∧
      admits .splice .press (bytesOfNat 4 0) (rollingNear 100500 settled 30000 400 (-400)) = true ∧
      ¬ DueAhead (rollingNear 100500 settled 30000 400 (-400)) 100900 ∧
      StrobeReached (rollingNear 100500 settled 30000 400 (-400)) 100900 ∧
      StrobeAhead (rollingNear 100500 settled 30000 400 (-399)) 100900 100501 := by
  simp only [DueAhead, StrobeAhead, StrobeReached]; decide

theorem witness_CutDue :
    (rolling 70500 sale).roll.plan = some sale ∧ sale.phase = .winding ∧ sale.stop = some 100500 ∧
      (100500 : Int) + calm.geometry.dK - calm.recipe.cutLead = 70500 ∧ sale.matched = false ∧
      (70500 : Int) < 100500 + calm.geometry.dK
        + clampInt (-calm.recipe.window) calm.recipe.window (meanNearest calm.roll.transport) ∧
      (∀ x ∈ (rolling 70500 sale).roll.cuts, x.state ≠ .issued) ∧
      ((rolling 70499 sale).web.w : Int) < 100500 + calm.geometry.dK - calm.recipe.cutLead := by decide

theorem witness_CutDue_struck :
    StrobeReached (rolling 100500 sale) 100500 ∧ ¬ StrobeReached (rolling 100499 sale) 100500 ∧
      (100500 : Int) + calm.geometry.dK - calm.recipe.cutLead ≤ 100500 ∧
      0 < (rolling 100500 sale).recipe.repeatLength ∧ sale.following = none ∧
      splicesFrom 100500 (rolling 100500 sale).map = [] ∧
      (salePlan (rolling 100500 sale) 100500).stop = some 201000 ∧ DueAhead (rolling 100500 sale) 201000 := by
  simp only [DueAhead, StrobeReached]; decide

theorem witness_CutDue_reanchored : Reanchored (rolling 100500 sale) sale 100500 100500 :=
  ⟨(fun _ h => nomatch h), fun _ => rfl⟩

theorem witness_CutDue_matched :
    ∀ x ∈ [((0 : Int), (100500 : Int), (99100 : Int)), (99099, 100500, 99100), (99100, 100500, 100500)],
      Reanchored { rolling 70500 { sale with start := x.1, matched := true } with
        clock := { calm.clock with k0 := some 93800 } } { sale with start := x.1, matched := true } x.2.1 x.2.2 := by
  intro x hx
  refine ⟨fun k0 _ hk => ?_, fun h => ?_⟩
  · cases hk
    simp only [List.mem_cons, List.not_mem_nil, or_false] at hx
    rcases hx with rfl | rfl | rfl <;> decide
  · rcases h with h | h
    · cases h
    · cases h

/-- A cut of the plan's segment in a state. -/
def cutOf (st : CutState) : CutRecord :=
  { number := 1, state := st, ending := some 0, kindEnding := .sale, kindNext := some .sale
    cause := .planned, cut := 100500, strobe := 100500, segmentStart := 0, confirm := none }

/-- A plan with cut records in order. -/
def cutting (w : Nat) (p : Plan) (cuts : List CutRecord) : State :=
  { rolling w p with roll := { (rolling w p).roll with cuts := cuts, cutCount := 1 } }

/-- The order at the strobe of the cut at 100,500, with SPLICE entries and the waste that a dodge left. -/
def striking (zs : List Pos) (following : Option FollowingWaste) : State :=
  { cutting 100500 { sale with phase := .closing, following := following } [cutOf .issued] with map := spliced zs }

theorem witness_CutStrobe :
    ∀ x ∈ [([], (201000 : Int)), ([203000], 201000), ([202999], 200999), ([197500], 195500), ([197499], 199499),
        ([150000, 153999], 155999)],
      let s := striking x.1 none
      s.roll.plan = some { sale with phase := .closing } ∧
        s.roll.cuts.find? (fun y => y.state == .issued) = some (cutOf .issued) ∧
        (cutOf .issued).strobe ≤ s.web.w ∧ 0 < s.recipe.repeatLength ∧ sale.following = none ∧
        x.1 = (s.map.entries.filter (fun e => e.kind == .splice && decide ((cutOf .issued).cut ≤ e.start))).map
          MapEntry.start ∧
        splicesFrom (cutOf .issued).cut s.map = x.1 ∧ (salePlan s (cutOf .issued).cut).stop = some x.2 ∧
        DueAhead s x.2 := by
  simp only [DueAhead]; decide

theorem witness_CutStrobe_planned (zs : List Pos)
    (h : splicesFrom (cutOf .issued).cut (striking zs none).map = zs) :
    SalePlanned (striking zs none) (cutOf .issued).cut zs (salePlan (striking zs none) (cutOf .issued).cut) := by
  have := salePlan_planned (striking zs none) (cutOf .issued).cut
  rwa [h] at this

theorem witness_CutStrobe_following :
    let s := striking [] (some ⟨150000, false, true⟩)
    s.roll.plan.bind Plan.following = some ⟨150000, false, true⟩ ∧
      (followingPlan (cutOf .issued).cut ⟨150000, false, true⟩).stop = some 150000 ∧ DueAhead s 150000 ∧
      ((100499 : Nat) : Int) < (cutOf .issued).strobe := by
  simp only [DueAhead]; decide

/-- The order at a strobe with an AWAITING cut of WASTE record 1, record 2 on being FREE or every record wound. -/
def strikingAwaited (full : Bool) : State :=
  let s := striking [] none
  { s with roll := { s.roll with
      cuts := [{ cutOf .awaiting with ending := some 1, kindEnding := .waste }, cutOf .issued]
      records := (if full then Table.replicate 24 (wound .winding .sale) else s.roll.records).set 1
        (wound .cutWait .waste) } }

theorem witness_CutStrobe_free :
    let p := { sale with phase := .closing }
    FreeAtStrobe p (striking [] none) 1 ∧ ¬ FreeAtStrobe p (striking [] none) 0 := by
  exact ⟨⟨by decide, .inr ⟨(fun _ h => nomatch h), by decide⟩⟩, fun h => h.1 rfl⟩

theorem witness_CutStrobe_awaited :
    ∀ full, let p := { sale with phase := .closing }
    (strikingAwaited full).roll.plan = some p ∧
      (strikingAwaited full).roll.cuts.find? (fun y => y.state == .issued) = some (cutOf .issued) ∧
      FreeAtStrobe p (strikingAwaited full) 1 ∧ AwaitsOther p (strikingAwaited full) := by
  intro full
  refine ⟨by cases full <;> rfl, by cases full <;> rfl, ⟨by decide, .inl ⟨_, rfl, rfl, by cases full <;> decide⟩⟩, ?_⟩
  intro y i hy hi
  cases full <;> (cases hy; cases hi; decide)

theorem witness_CutStrobe_lost :
    let p := { sale with phase := .closing }
    let s := { striking [] none with
      roll := { (striking [] none).roll with records := Table.replicate 24 (wound .winding .sale) } }
    ∀ j, ¬ FreeAtStrobe p s j := by
  have hf : ∀ j, (Table.replicate 24 (wound .winding .sale)).get j = wound .winding .sale := by decide
  intro p s j h
  rcases h.2 with ⟨y, hy, -⟩ | ⟨-, hj⟩
  · cases hy
  · have hr : s.record j = wound .winding .sale := hf j
    rw [hr] at hj; cases hj

theorem witness_CutStrobe_chained :
    let s := striking [] (some ⟨130500, false, true⟩)
    ¬ DueAhead s 130500 ∧ DueAhead s 130501 ∧
      s.web.w < (130500 : Int) + s.geometry.dK
        + clampInt (-s.recipe.window) s.recipe.window (meanNearest s.roll.transport) ∧
      Reanchored s (followingPlan (cutOf .issued).cut ⟨130500, false, true⟩) 130500 130500 := by
  exact ⟨by simp only [DueAhead]; decide, by simp only [DueAhead]; decide, by decide, (fun _ h => nomatch h),
    fun _ => rfl⟩

/-- An awaited cut with its confirm point. -/
def awaited (k : SegmentKind) (ending : Option (Fin 24)) : CutRecord :=
  { cutOf .awaiting with kindEnding := k, ending := ending, confirm := some 120500 }

/-- An order in RUN that awaits a report, the next segment being planned on record 1. -/
def reporting (w : Nat) (k : SegmentKind) (ending : Option (Fin 24)) : State :=
  let s := cutting w { sale with start := 100500, stop := some 201000, record := some 1 } [awaited k ending]
  { s with roll := { s.roll with
      records := (s.roll.records.set 0 (wound .cutWait k)).set 1 (wound .winding .sale) } }

theorem witness_ConfirmTimesOut :
    ∀ k ∈ [SegmentKind.sale, .waste],
      let s := reporting 120500 k (some 0)
      s.roll.cuts.find? (fun x => x.state == .awaiting) = some (awaited k (some 0)) ∧
        (awaited k (some 0)).confirm = some (s.web.w : Int) ∧ (s.record 0).kind = k ∧
        ((120499 : Nat) : Int) < 120500 := by decide

/-- Open-ended waste from 0 on record 0, planned with its limit ahead. -/
def endless : Plan := { openWaste 0 with record := some 0, limited := true }

/-- Open-ended waste at a web position, with a defined k0 or none. -/
def unended (w : Nat) (k0 : Option Pos) : State :=
  { rolling w endless with clock := { calm.clock with k0 := k0 } }

theorem firstMatch_unended : FirstMatch (unended 1970000 none) 2000000 2000000 ∧
    FirstMatch (unended 1970000 (some 1)) 2000000 2003401 := by
  simp only [firstMatch_iff]; decide

theorem witness_WasteEndForced :
    (∀ w ∈ [1970000, 1973400, 1973401], ∀ k0 ∈ [none, some (1 : Int)],
      let s := unended w k0
      s.roll.plan = some endless ∧ endless.stop = none ∧ endless.limited = true ∧ endless.phase = .winding ∧
        0 < s.recipe.repeatLength ∧ (0 : Int) + 2000000 + s.geometry.dK - s.recipe.cutLead ≤ s.web.w) ∧
      ¬ DueAhead (unended 1970000 none) 2000000 ∧ StrobeAhead (unended 1970000 none) 2000000 2000000 ∧
      DueAhead (unended 1973400 (some 1)) 2003401 ∧ ¬ DueAhead (unended 1973401 (some 1)) 2003401 ∧
      StrobeAhead (unended 1973401 (some 1)) 2003401 2003401 ∧
      ((1969999 : Nat) : Int) < 2000000 + calm.geometry.dK - calm.recipe.cutLead ∧
      (openWaste 0).limited = false := by
  simp only [DueAhead, StrobeAhead]; decide

/-- The same with a frame that is to close and MK0 in a state. -/
def endingFrame (w : Nat) (st : KeyState) : State :=
  { putChannel .mk0 { ChannelRecord.initial with enabled := true, state := st } (unended w none) with
    capture := { (putChannel .mk0 { ChannelRecord.initial with enabled := true, state := st }
      (unended w none)).capture with frame := some ⟨w - 2650, Table.replicate 7 none⟩ } }

theorem witness_WasteEndForced_frame :
    (∀ w ∈ [12550, 30000, 1970000, 1970001], ∀ st ∈ [KeyState.track, .seek],
      let s := endingFrame w st
      s.roll.plan = some endless ∧ endless.stop = none ∧ endless.phase = .winding ∧
        0 < s.recipe.repeatLength ∧ s.capture.frame = some ⟨w - 2650, Table.replicate 7 none⟩ ∧
        ((w : Int) - 2650) + s.recipe.repeatLength / 2 ≤ s.web.w ∧ (s.channel .mk0).state = st ∧
        s.recipe.embossEnableField ≠ 1 ∧ s.clock.k0 = none) ∧
      (endingFrame 12550 .track).recipe.startupWaste = 50000 ∧
      DueAhead (endingFrame 12550 .track) 50000 ∧ ¬ DueAhead (endingFrame 30000 .track) 60000 ∧
      StrobeAhead (endingFrame 30000 .track) 60000 60000 ∧
      (12550 : Int) - calm.geometry.dK + calm.recipe.cutLead ≤ 50000 ∧
      (30000 : Int) - calm.geometry.dK + calm.recipe.cutLead = 60000 ∧
      (1970000 : Int) - calm.geometry.dK + calm.recipe.cutLead = 2000000 ∧
      StrobeAhead (endingFrame 1970001 .track) 2000001 2000001 := by
  simp only [DueAhead, StrobeAhead]; decide

theorem witness_WasteEndForced_frame_in_register :
    ∃ t, exec .frameClose (endingFrame 12550 .track) = .next t ∧ t.register.verdict = some true :=
  ⟨_, rfl, by decide⟩

theorem witness_ReportsJudged :
    (∀ r ∈ [Req.cutDone, .cutFailed],
      admits r .winder [1#8, 0#8, 0#8, 0#8] (reporting 110000 .sale (some 0)) = true) ∧
      (∃ x ∈ (reporting 110000 .sale (some 0)).roll.cuts, x.number = 1 ∧ x.state = .awaiting) ∧
      (∀ x ∈ (cutting 110000 sale [cutOf .unconfirmed]).roll.cuts, x.number = 1 → x.state ≠ .awaiting) ∧
      (∃ x ∈ (cutting 110000 sale [cutOf .unconfirmed]).roll.cuts,
        x.number = 1 ∧ x.state = .unconfirmed) ∧
      (∀ x ∈ (cutting 110000 sale [cutOf .done]).roll.cuts,
        x.number = 1 → x.state ≠ .awaiting ∧ x.state ≠ .unconfirmed) ∧
      calm.roll.lastUnconfirmed ≠ some 1 := by decide

theorem witness_CutDoneTaken :
    ∀ k ∈ [SegmentKind.sale, .waste], ∀ e ∈ [some 0, none],
      let s := reporting 110000 k e
      admits .cutDone .winder [1#8, 0#8, 0#8, 0#8] s = true ∧
        s.roll.cuts.find? (fun y => y.number == natOfBytes [1#8, 0#8, 0#8, 0#8] && y.state == .awaiting)
          = some (awaited k e) ∧ (s.record 0).kind = k := by decide

theorem witness_CutFailedMerges :
    let s := reporting 110000 .sale (some 0)
    admits .cutFailed .winder [1#8, 0#8, 0#8, 0#8] s = true ∧
      s.roll.cuts.find? (fun y => y.number == natOfBytes [1#8, 0#8, 0#8, 0#8] && y.state == .awaiting)
        = some (awaited .sale (some 0)) ∧
      (awaited .sale (some 0)).kindNext ≠ none ∧ s.roll.plan.bind Plan.record = some 1 ∧
      (s.record 0).defects.length ≤ 8 := by decide

theorem witness_CutFailedMerges_untracked :
    ∀ k ∈ [SegmentKind.sale, .waste],
      let s := reporting 110000 k none
      admits .cutFailed .winder [1#8, 0#8, 0#8, 0#8] s = true ∧
        s.roll.cuts.find? (fun y => y.number == natOfBytes [1#8, 0#8, 0#8, 0#8] && y.state == .awaiting)
          = some (awaited k none) ∧
        (awaited k none).ending = none ∧ (awaited k none).kindNext ≠ none ∧
        s.roll.plan.bind Plan.record = some 1 := by decide

/-- The same with the plan of the next segment untracked. -/
def reportingUntracked (k : SegmentKind) (ending : Option (Fin 24)) : State :=
  let s := reporting 110000 k ending
  { s with roll := { s.roll with plan := s.roll.plan.map (fun q => { q with record := none }) } }

theorem witness_CutFailedMerges_plan :
    ∀ e ∈ [some (0 : Fin 24), none],
      let s := reportingUntracked .sale e
      admits .cutFailed .winder [1#8, 0#8, 0#8, 0#8] s = true ∧
        s.roll.cuts.find? (fun y => y.number == natOfBytes [1#8, 0#8, 0#8, 0#8] && y.state == .awaiting)
          = some (awaited .sale e) ∧ (awaited .sale e).ending = e ∧ (awaited .sale e).kindNext ≠ none ∧
        s.roll.plan.map Plan.record = some none := by decide

/-- The closing cut awaits its report. -/
def lastCut (k : SegmentKind) : State :=
  let s := reporting 110000 k (some 0)
  { s with
    line := { s.line with state := .closing, closing := .cutReport }
    roll := { s.roll with plan := none, cuts := [{ awaited k (some 0) with kindNext := none }] } }

theorem witness_CutFailedMerges_closing :
    ∀ k ∈ [SegmentKind.sale, .waste],
      admits .cutFailed .winder [1#8, 0#8, 0#8, 0#8] (lastCut k) = true ∧
        (lastCut k).roll.cuts.find? (fun y =>
            y.number == natOfBytes [1#8, 0#8, 0#8, 0#8] && y.state == .awaiting)
          = some { awaited k (some 0) with kindNext := none } ∧
        ((lastCut k).record 0).kind = k ∧ (lastCut k).roll.plan = none ∧
        (lastCut k).line.state = .closing ∧ (lastCut k).line.closing = .cutReport := by decide

/-- The closing cut of an untracked segment awaits its report. -/
def lastUntracked (k : SegmentKind) (step : ClosingStep) : State :=
  let s := lastCut k
  { s with
    line := { s.line with closing := step }
    roll := { s.roll with cuts := [{ awaited k none with kindNext := none }] } }

theorem witness_CutFailedMerges_closing_untracked :
    ∀ k ∈ [SegmentKind.sale, .waste], ∀ st ∈ [ClosingStep.cutReport, .drain],
      let s := lastUntracked k st
      admits .cutFailed .winder [1#8, 0#8, 0#8, 0#8] s = true ∧
        s.roll.cuts.find? (fun y => y.number == natOfBytes [1#8, 0#8, 0#8, 0#8] && y.state == .awaiting)
          = some { awaited k none with kindNext := none } ∧
        (awaited k none).ending = none ∧ s.roll.plan = none ∧ s.line.state = .closing ∧ s.line.closing = st := by
  decide

theorem witness_BreakEndsSegment :
    Admitted .brk .winder [] (rolling 50000 sale) ∧ (rolling 50000 sale).roll.plan = some sale ∧
      ((rolling 50000 sale).record 0).kind = .sale ∧
      Admitted .brk .press [] (opened .stopped) ∧ (opened .stopped).line.state = .stopped ∧
      (opened .stopped).roll.plan = none :=
  ⟨admitted (by decide), rfl, by decide, admitted (by decide), rfl, rfl⟩

/-- An order in RUN with emboss enabled, a plan of a kind on record 0 or untracked, and cut records. -/
def breaking (k : SegmentKind) (record : Option (Fin 24)) (cuts : List CutRecord) (n : NipState) : State :=
  let s := cutting 50000 { sale with kind := k, record := record } cuts
  { s with
    recipe := s.recipe.setField 22 1
    emboss := { s.emboss with nip := { s.emboss.nip with state := n } } }

theorem witness_BreakEndsSegment_kinds :
    (∀ k ∈ [SegmentKind.sale, .waste], ∀ e ∈ [some (0 : Fin 24), none], ∀ n ∈ [NipState.parked, .closed],
      let s := breaking k e [cutOf .done] n
      admits .brk .winder [] s = true ∧ s.roll.plan = some { sale with kind := k, record := e } ∧
        (s.record 0).kind = k ∧ s.recipe.embossEnableField = 1 ∧ s.line.state = .run ∧
        s.roll.wasteTotal ≤ 4294967295 ∧ s.emboss.nip.state = n ∧ awaitingCutOf s = none) ∧
      (rolling 50000 sale).recipe.embossEnableField ≠ 1 := by decide

theorem witness_BreakEndsSegment_awaited :
    ∀ k ∈ [SegmentKind.sale, .waste],
      let s := breaking k (some 0) [{ cutOf .awaiting with ending := some 1 }] .opened
      AwaitsOther { sale with kind := k } s ∧ awaitingCutOf s = some { cutOf .awaiting with ending := some 1 } := by
  intro k hk
  refine ⟨fun y i hy hi => ?_, rfl⟩
  cases hy; cases hi; exact fun h => absurd h (by decide : (some (0 : Fin 24)) ≠ some 1)

theorem test_break_opens_the_spans_afresh :
    ∃ t, exec (.brk .winder []) (breaking .waste (some 0) [] .closed) = .next t ∧
      t.map.entries.map (fun e => (e.kind, e.start, e.stop)) =
        [(.register, 50000, none), (.emboss, 50000, none)] ∧ (t.record 0).state = .free ∧
      t.roll.wasteTotal = 50000 := ⟨_, rfl, by decide⟩

theorem witness_RollFlag :
    (∀ n ∈ [0#8, 23#8, 24#8], admits .rollFlag .winder [n, 4#8, 16#8] (rolling 50000 sale) = true) ∧
      Open .winder calm ∧ calm.line.state = .noOrder ∧
      ((rolling 50000 sale).record 0).state ≠ .free ∧ ((rolling 50000 sale).record 23).state = .free ∧
      23 < (24#8).toNat :=
  ⟨by decide, ⟨rfl, rfl⟩, by decide⟩

/-- The order with record 0 at the head of the label queue. -/
def labelling : State :=
  let s := rolling 110000 { sale with record := none }
  { s with
    roll := { s.roll with
      plan := none
      records := s.roll.records.set 0 { wound .labelPending .sale with saleNumber := some 7 } }
    label := { s.label with entries := [⟨0, 7⟩] } }

/-- A batch of the working table. -/
def batchOne (closed : Bool) : Batch :=
  { number := 1, reference := ⟨5000, 100, -100⟩, foundingRoll := 1, foundingRun := 1, rolls := 2, lastRoll := 2
    isClosed := closed, save := .saved }

/-- An order in RUN with one batch. -/
def batched (closed : Bool) : State :=
  { (opened .run) with shade := { calm.shade with batches := [batchOne closed] } }

theorem witness_RecordsRead :
    (∀ s ∈ [opened .run, reading .winder (opened .run)], admits .cutFetch .winder [] s = true) ∧
      (∀ s ∈ [opened .run, reading .quality (opened .run), reading .quality labelling],
        admits .labelFetch .quality [] s = true) ∧
      labelling.label.entries = ⟨0, 7⟩ :: [] ∧ labelling.line.order = some 1 ∧
      (∀ n ∈ [0#8, 23#8, 24#8], admits .readRoll .press [n] (reading .press labelling) = true) ∧
      (∀ n ∈ [0#8, 1#8, 16#8, 17#8],
        admits .readBatch .quality [n] (reading .quality (batched false)) = true) ∧
      (batched false).batch 1 = some (batchOne false) ∧ (batched false).batch 16 = none := by decide

/-! ### Shade batches and labelling -/

/-- A full sample queue. -/
def sampled : State :=
  { (opened .run) with shade := { calm.shade with queue := List.replicate 128 ⟨0, ⟨5000, 0, 0⟩⟩ } }

theorem witness_ShadeSample :
    Admitted .shadeSample .quality [0x11#8, 0x27#8, 0x9D#8, 0x31#8, 0xFF#8, 0xCD#8] (opened .run) ∧
      Admitted .shadeSample .quality [0x11#8, 0x27#8, 0x9D#8, 0x31#8, 0xFF#8, 0xCD#8] sampled ∧
      (opened .run).shade.queue.length < 128 ∧ 128 ≤ sampled.shade.queue.length :=
  ⟨admitted (by decide), admitted (by decide), by decide,
    le_of_eq (List.length_replicate (n := 128)).symm⟩

theorem witness_BatchClose :
    (∀ n ∈ [0#8, 1#8, 16#8, 17#8], admits .batchClose .quality [n] (batched false) = true) ∧
      (batched false).batch 1 = some (batchOne false) ∧ (batchOne false).isClosed = false ∧
      (batched true).batch 1 = some (batchOne true) ∧ (batchOne true).isClosed = true ∧
      (batched false).batch 16 = none := by decide

/-- A record with samples over a range of lightness. -/
def shaded (spread : Int) : State :=
  { (opened .run) with roll := { calm.roll with
      records := calm.roll.records.set 0
        { wound .cutWait .sale with
          shade := ⟨2, ⟨10000 + spread, 0, 0⟩, some ⟨⟨5000, 0, 0⟩, ⟨5000 + spread, 0, 0⟩⟩⟩ } } }

theorem witness_SpreadClassified :
    0 < ((shaded 61).record 0).shade.n ∧
      (shaded 61).recipe.uniformityLimit < ((shaded 61).record 0).shade.spread ∧
      ((shaded 60).record 0).shade.spread ≤ (shaded 60).recipe.uniformityLimit := by decide

/-- The roll of record 0 with samples of one colour, beside a batch table. -/
def graded (n : Nat) (l : Int) (bs : List Batch) : State :=
  { (opened .run) with
    roll := { calm.roll with records := calm.roll.records.set 0 { wound .cutWait .sale with
      shade := ⟨n, ⟨n * l, n * 100, n * -100⟩, some ⟨⟨l, 100, -100⟩, ⟨l, 100, -100⟩⟩⟩ } }
    shade := { calm.shade with batches := bs } }

/-- Batches numbered upward, with references of a lightness. -/
def batches (ls : List Int) : List Batch :=
  ls.mapIdx (fun j l => { batchOne false with number := j + 1, reference := ⟨l, 100, -100⟩ })

theorem witness_SpreadClassified_batches :
    (∀ ls ∈ [[], [(4960 : Int), 5040], [4959, 5041], List.replicate 15 (4959 : Int), List.replicate 16 4959],
      (batches ls).Pairwise (fun x y => x.number < y.number) ∧
        (∀ b ∈ batches ls, b.number ≤ (batches ls).length) ∧ (∀ b ∈ batches ls, b.isClosed = false)) ∧
      (∀ n ∈ [7, 8], 0 < ((graded n 5000 (batches [4960, 5040])).record 0).shade.n ∧
        ((graded n 5000 []).record 0).shade.spread ≤ calm.recipe.uniformityLimit ∧
        ((graded n 5000 []).record 0).shade.mean = ⟨5000, 100, -100⟩) ∧
      0 ≤ calm.recipe.weightL ∧ 0 ≤ calm.recipe.weightC ∧ calm.recipe.foundingMinimum = 8 ∧
      calm.recipe.shadeTolerance = 40 ∧ calm.recipe.weightL * mag (5000 - 4960) / 16 = 40 ∧
      calm.recipe.weightL * mag (5000 - 5041) / 16 = 41 ∧ (batches (List.replicate 16 4959)).length = 16 ∧
      ((opened .run).record 0).shade.n = 0 := by decide

theorem witness_AccumulatorsCombine :
    (0 : Fin 24) ≠ 1 ∧ ({ sale with record := some 1 } : Plan).record = some 1 ∧
      ((shaded 60).record 0).shade.n + ((shaded 60).record 1).shade.n ≤ 65535 ∧
      65535 < (65534 : Nat) + ((shaded 60).record 0).shade.n := by decide

theorem witness_LabelReports :
    (∀ o ∈ [0#8, 1#8, 2#8], admits .labelDone .quality [7#8, 0#8, 0#8, 0#8, o] labelling = true) ∧
      admits .labelSkip .quality [7#8, 0#8, 0#8, 0#8] labelling = true ∧
      admits .labelDone .quality [7#8, 0#8, 0#8, 0#8, 0#8] (opened .run) = true ∧
      natOfBytes [7#8, 0#8, 0#8, 0#8] = 7 ∧ natOfBytes [8#8, 0#8, 0#8, 0#8] ≠ 7 ∧
      labelling.label.entries = [⟨0, 7⟩] ∧ (opened .run).label.entries = [] ∧
      journalSlot labelling = none ∧
      journalSlot { labelling with line := { labelling.line with
        slot := some 2, journalling := true } } = some 2 ∧ (labelling.dir 2).count < 1024 := by decide

/-! ### The order store -/

/-- The content of a header. -/
def header (st : StoredState) : Header := { state := st, order := some 1, run := 3, count := 1, full := false }

/-- A summary of a roll. -/
def summary : Summary :=
  { roll := 9, run := 3, length := 100500, grade := .first, batch := none, mean := none, fault := 0, flags := 0
    outcome := .applied }

/-- The content of a slot with one batch and one summary. -/
def slotOne : SlotContent :=
  { header := .written (header .active), recipe := .written .default
    batches := [(1, .written (batchOne false))], journal := [(0, .written summary)] }

/-- A directory entry for order 1. -/
def entry (st : SlotState) : DirectoryEntry :=
  { state := st, order := some 1, run := 3, count := 1, full := false, erasePending := false }

/-- Slot 2 of the store with content, and a directory entry for it. -/
def stored (st : SlotState) (s : State) : State :=
  { s with
    nv := { s.nv with slots := s.nv.slots.set 1 slotOne }
    store := { s.store with directory := s.store.directory.set 1 (entry st) } }

/-- The open order's slot. -/
def backed (n : Fin 4) (s : State) : State := { s with line := { s.line with slot := some n, journalling := true } }

theorem witness_StoreEvents :
    calm.store.head ≠ .waiting ∧
      (∀ op, (waiting op calm).store.head = .waiting ∧ (waiting op calm).store.queue = [op]) ∧
      (∀ n, StoreOp.slot? (.journalAppend 1 0) = some n → (calm.dir n).state ≠ .degraded) ∧
      StoreOp.isRead (.journalAppend 1 0) = false ∧ (calm.dir 1).count < 1024 ∧
      StoreOp.isRead (.headerWrite 1 .active) = false ∧ StoreOp.isRead (.batchWrite 1 1) = false ∧
      (batched false).batch 1 = some (batchOne false) ∧ inProgress calm = none :=
  ⟨by decide, fun _ => ⟨rfl, rfl⟩, by decide, rfl, by decide, rfl, rfl, rfl, rfl⟩

/-- An order that waits for its CLOSED header. -/
def closing : State :=
  backed 1 { (opened .closing) with line := { (opened .closing).line with closing := .header } }

theorem witness_WritesComplete :
    (∀ op c, (working op c closing).store.queue = [op] ∧ (working op c closing).store.head = .running c) ∧
      closing.line.state = .closing ∧ closing.line.closing = .header ∧
      cellAt ((stored .active closing).nv.slots.get 1).journal ((stored .active closing).dir 1).count
        = .blank ∧
      ((stored .active closing).dir 1).count < 1024 ∧ (∀ y ∈ (batched false).shade.batches, y.save ≠ .unsaved) ∧
      (batched false).batch 1 = some (batchOne false) ∧ calm.line.state ≠ .closing :=
  ⟨fun _ _ => ⟨rfl, rfl⟩, by decide⟩

theorem witness_WritesFail :
    (∀ op c, (working op c closing).store.queue = [op] ∧ (working op c closing).store.head = .running c) ∧
      cellAt (calm.nv.slots.get 1).journal (calm.dir 1).count = .blank ∧
      cellAt ((stored .active calm).nv.slots.get 1).journal 0 ≠ .blank ∧
      (backed 1 (batched false)).line.slot = some 1 ∧
      (backed 1 (batched false)).batch 1 = some (batchOne false) :=
  ⟨fun _ _ => ⟨rfl, rfl⟩, by decide⟩

/-- A stored geometry record at the limits of its order. -/
def laid : Geometry := { Geometry.zero with dE := 1, dQ := 2, dW := 2000000, dK := 2000000 }

/-- The part in its start-up read with a geometry record and slot 2 stored. -/
def starting (g : StoreCell Geometry) (h : StoreCell Header) : State :=
  let s := stored .empty State.reset
  { s with nv := { geometry := g, slots := s.nv.slots.set 1 { slotOne with header := h } } }

theorem witness_GeometryReadEnds :
    ∀ g ∈ [StoreCell.blank, .written laid, .written .zero, .broken],
      ∀ h ∈ [StoreCell.blank, .written (header .closed), .broken],
        let s := starting g h
        s.store.queue = [.geometryRead] ∧ s.store.head = .running .nothing ∧ s.line.state = .noOrder ∧
          s.line.slot = none ∧ BanksCanonical s ∧ s.nv.geometry = g ∧ (s.nv.slots.get 1).header = h := by
  unfold BanksCanonical; decide

theorem test_laid_keeps_the_distance_order :
    1 ≤ laid.dE ∧ laid.dE < laid.dQ ∧ laid.dQ < laid.dW ∧ laid.dW ≤ laid.dK ∧ laid.dK ≤ 2000000 := by decide

/-- An order being resumed from slot 2 by port P. -/
def resuming (st : SlotState) : State :=
  executing .press 0x10#8 .opening (working (.slotRead 1) .nothing (stored st (backed 1 (opened .opening))))

theorem witness_SlotReadEnds :
    ∀ st ∈ [SlotState.active, .degraded],
      let s := resuming st
      s.store.queue = [.slotRead 1] ∧ s.store.head = .running .nothing ∧ s.line.state = .opening ∧
        (s.port .press).request = some ⟨0x10#8, .opening, false⟩ ∧
        (∀ q ∈ [Port.emboss, .winder, .quality], (s.port q).request = none) ∧
        s.line.slot = some 1 ∧ (s.nv.slots.get 1).header = .written (header .active) ∧
        (s.nv.slots.get 1).recipe = .written .default ∧
        (s.nv.slots.get 1).batches = [batchOne false].mapIdx (fun j b => (j + 1, StoreCell.written b)) ∧
        (batchOne false).number = 0 + 1 ∧
        (s.nv.slots.get 1).journal = [summary].mapIdx (fun j x => (j, StoreCell.written x)) ++ [] ∧
        [summary].length = max (s.dir 1).count (header .active).count ∧ (s.dir 1).state = st := by
  decide

theorem witness_JournalReads :
    (∀ n ∈ [0#8, 2#8, 5#8], ∀ k ∈ [0#8, 1#8],
      admits .journalRead .winder [n, k, 0#8] (reading .winder (stored .active calm)) = true) ∧
      admits .journalRead .winder [2#8, 0#8, 0#8] (stored .active calm) = true ∧
      ((stored .active calm).dir 1).count = 1 ∧
      (let s := executing .winder 0x54#8 .journal (reading .winder (stored .active calm))
       let t := working (.journalRead 1 0 .winder) .nothing s
       t.store.queue = [.journalRead 1 0 .winder] ∧ t.store.head = .running .nothing ∧
        (t.port .winder).request = some ⟨0x54#8, .journal, false⟩ ∧
        (t.port .winder).toStation = true ∧ cellAt (t.nv.slots.get 1).journal 0 = .written summary ∧
        cellAt (t.nv.slots.get 1).journal 1 = .blank) := by decide

theorem witness_JournalReads_discarded :
    let s := executing .winder 0x54#8 .journal (reading .winder (stored .active calm))
    let t := (working (.journalRead 1 0 .winder) .nothing s).modifyPort .winder
      (fun y => { y with request := some ⟨0x54#8, .journal, true⟩ })
    t.store.queue = [.journalRead 1 0 .winder] ∧ (t.port .winder).toStation = true ∧
      (t.port .winder).request = some ⟨0x54#8, .journal, true⟩ := by decide

/-- The store queue with a number of operations. -/
def queued (n : Nat) (s : State) : State :=
  { s with store := { s.store with queue := List.replicate n (.slotErase 3), head := .waiting } }

theorem witness_JournalReads_busy :
    admits .journalRead .winder [2#8, 0#8, 0#8] (queued 8 (reading .winder (stored .active calm))) = true ∧
      8 ≤ (queued 8 (reading .winder (stored .active calm))).store.queue.length ∧
      (queued 7 (reading .winder (stored .active calm))).store.queue.length < 8 := by decide

/-! ### Orders -/

/-- The arguments of ORDER_OPEN for a number below 256. -/
def number (n flag : Byte) : List Byte := [n, 0#8, 0#8, 0#8, flag]

/-- Every slot holds another order. -/
def taken : State :=
  { calm with store := { calm.store with
      directory := Table.replicate 4 { entry .active with order := some 2 } } }

theorem witness_OrderOpens_refused :
    (∀ args ∈ [number 0 0, number 1 2, [0x40#8, 0x42#8, 0x0F#8, 0#8, 0#8], [0x3F#8, 0x42#8, 0x0F#8, 0#8, 0#8]],
      admits .orderOpen .press args calm = true) ∧
      natOfBytes [0x40#8, 0x42#8, 0x0F#8, 0#8] = 1000000 ∧ natOfBytes [0x3F#8, 0x42#8, 0x0F#8, 0#8] = 999999 ∧
      admits .orderOpen .quality (number 1 0) State.reset = true ∧ .geometryRead ∈ State.reset.store.queue := by
  decide

theorem witness_OrderOpens_resumed :
    let s := stored .closed calm
    admits .orderOpen .press (number 1 0) s = true ∧ .geometryRead ∉ s.store.queue ∧
      (s.dir 1).state ≠ .empty ∧ (s.dir 1).order = some 1 ∧ (s.dir 1).erasePending = false ∧
      (s.dir 0).state = .empty ∧ s.line.holds = ⟨false, false, false⟩ ∧
      (queued 7 s).store.queue.length < 8 ∧ 8 ≤ (queued 8 s).store.queue.length := by decide

theorem witness_OrderOpens_new :
    admits .orderOpen .press (number 1 1) calm = true ∧ admits .orderOpen .press (number 1 0) taken = true ∧
      (∀ n : Fin 4, (calm.dir n).state = .empty ∧ (calm.dir n).erasePending = false) ∧
      (∀ n : Fin 4, (taken.dir n).state ≠ .empty ∧ (taken.dir n).order ≠ some 1) ∧
      (queued 6 calm).store.queue.length < 7 ∧ 7 ≤ (queued 7 calm).store.queue.length := by decide

theorem witness_OrderCloses :
    (∀ s ∈ [{ (rolling 50000 sale) with line := { (opened .stopped).line with breakFlag := true } },
        opened .setup, backed 1 (stored .degraded (opened .setup)), backed 0 (opened .setup),
        queued 1 (opened .setup)], admits .orderClose .quality [] s = true) ∧
      (rolling 50000 sale).roll.plan = some sale ∧ (∀ i, ((opened .setup).record i).state = .free) ∧
      (opened .setup).store.queue = [] ∧ (opened .setup).roll.plan = none ∧
      ((backed 1 (stored .degraded (opened .setup))).dir 1).state = .degraded ∧
      ((backed 0 (opened .setup)).dir 0).state ≠ .degraded := by decide

theorem witness_RecipeWritten :
    (∀ n ∈ [127, 128, 130],
      Admitted .recipeWrite .press [] (holding .press (List.replicate n 0#8) (opened .setup))) ∧
      Admitted .recipeWrite .press [] (reading .press (opened .setup)) ∧
      (opened .setup).line.slot = none ∧ (queued 7 (opened .setup)).store.queue.length < 8 ∧
      8 ≤ (queued 8 (backed 0 (opened .setup))).store.queue.length ∧
      (backed 0 (opened .setup)).line.slot ≠ none ∧
      (holding .press (List.replicate 128 0#8) (opened .setup)).ports.press.fifo.length = 128 :=
  ⟨fun _ _ => ⟨⟨rfl, rfl⟩, List.mem_cons_self, List.mem_singleton.2 rfl, rfl⟩, admitted (by decide), by decide,
    by decide, by decide, by decide, List.length_replicate⟩

/-- A tune of fields 11 and 50, the second above its range. -/
def tuneBytes : List Byte := [0#8, 0x08#8, 0#8, 0#8, 0#8, 0#8, 0x04#8, 0#8, 60#8, 0#8, 65#8, 0#8]

theorem witness_RecipeTuned :
    (∀ st ∈ [LineState.run, .stopped], ∀ bytes ∈ [tuneBytes, tuneBytes.take 10, tuneBytes.take 7,
        List.replicate 8 0#8, [1#8, 0#8, 0#8, 0#8, 0#8, 0#8, 0#8, 0#8, 0#8, 0#8]],
      admits .recipeTune .quality [] (holding .quality bytes (opened st)) = true) ∧
      (List.range 64).filter (fun n => (natOfBytes (tuneBytes.take 8)).testBit n) = [11, 50] ∧
      tuneBytes.length = 8 + 2 * [11, 50].length ∧
      (∀ id ∈ [11, 50], ∃ row ∈ recipeRows, row.id = id ∧ row.soft = true) ∧
      (∀ row ∈ recipeRows, row.id = 0 → row.soft = false) := by decide

/-- A geometry record of 50 bytes with small distances. -/
def geometryBytes (e q w k : Byte) : List Byte :=
  [e, 0#8, 0#8, 0#8, q, 0#8, 0#8, 0#8, w, 0#8, 0#8, 0#8, k, 0#8, 0#8, 0#8] ++ List.replicate 34 0#8

theorem witness_GeometryWritten :
    (∀ bytes ∈ [geometryBytes 1 2 3 3, geometryBytes 0 1 3 3, geometryBytes 1 2 4 3, []],
      admits .geometryWrite .quality [] (holding .quality bytes calm) = true) ∧
      (geometryBytes 1 2 3 3).length = 50 ∧ .geometryRead ∉ calm.store.queue ∧
      (queued 7 calm).store.queue.length < 8 ∧ admits .geometryWrite .quality [] (queued 8 calm) = true ∧
      admits .geometryWrite .quality [] (reading .quality calm) = true ∧
      admits .geometryWrite .quality [] State.reset = true := by decide

/-- The order ready to start, at the limits of checks 8 and 9: D_K is H + W. -/
def ready (st : LineState) (brk : Bool) : State :=
  let s := opened st
  { s with
    geometry := { laid with dQ := 3, dW := 3, dK := 3050 }
    line := { s.line with geometryValid := true, breakFlag := brk } }

theorem witness_StartAndStop :
    (∀ s ∈ [ready .setup false, ready .stopped false, ready .stopped true],
      admits .start .press [] s = true) ∧
      admits .stop .press [] (ready .run false) = true ∧
      startFailure (ready .setup false).recipe (ready .setup false).geometry true = none ∧
      (∀ n ∈ [1, 2, 3, 4, 5, 6, 7, 8, 9], startCheck (ready .setup false) n) := by
  refine ⟨by decide, by decide, by decide, fun n hn => ?_⟩
  simp only [List.mem_cons, List.not_mem_nil, or_false] at hn
  rcases hn with rfl | rfl | rfl | rfl | rfl | rfl | rfl | rfl | rfl <;> simp only [startCheck] <;> decide

/-- 07, R115 with R24: a START from SETUP at or past the limit S + 2,000,000 + D_K − cut lead leaves it out of reach. -/
theorem test_start_past_the_limit :
    [1973049, 1973050, 1973051].map (fun w =>
      (startFromSetup (web w (ready .setup false))).roll.plan.map Plan.limited)
        = [some true, some false, some false] ∧
      (forceWasteEnd (startFromSetup (web 1973051 (ready .setup false)))).roll.cuts = [] := by decide

theorem witness_StartAndStop_refused :
    ¬ startCheck (opened .setup) 7 ∧ admits .start .press [] (opened .setup) = true ∧
      ∀ m ∈ [1, 2, 3, 4, 5, 6], startCheck (opened .setup) m := by
  refine ⟨by simp only [startCheck]; decide, by decide, fun n hn => ?_⟩
  simp only [List.mem_cons, List.not_mem_nil, or_false] at hn
  rcases hn with rfl | rfl | rfl | rfl | rfl | rfl <;> simp only [startCheck] <;> decide

theorem witness_StartAndStop_refused_unit :
    let r := (Recipe.default.setField 2 3).setField 3 2250
    let s := { ready .setup false with recipe := r }
    ¬ startCheck s 1 ∧ admits .start .press [] s = true ∧
      r.repeatLength / 2 ≤ mag (r.unitOffset 0) + r.window ∧ ((0 : Fin 7).val : Int) + 1 < r.unitCount := by
  refine ⟨fun h => ?_, by decide, by decide, by decide⟩
  exact absurd (h 0 (by decide)) (by decide)

/-! ### Ports -/

/-- A port's purge progress. -/
def purging (x : Purge) (s : State) : State := s.modifyPort .winder (fun y => { y with purge := x })

theorem witness_PurgeSequence :
    (∀ n ∈ [0#8, 1#8, 4#8, 5#8], admits .purgeBegin .winder [n] calm = true ∧
      admits .purgeBegin .winder [n] (purging (.begun 3) calm) = true ∧
      admits .purgeCommit .winder [n] (purging (.confirmed 3) calm) = true ∧
      admits .purgeCommit .winder [n] (queued 8 (purging (.confirmed 3) calm)) = true) ∧
      (∀ v ∈ [251#8, 250#8], admits .purgeConfirm .winder [v] (purging (.begun 3) calm) = true) ∧
      (calm.port .winder).purge = .nothing ∧ natOfBytes [4#8] = (3 : Fin 4).val + 1 ∧
      natOfBytes [251#8] = 255 - ((3 : Fin 4).val + 1) ∧ calm.line.slot ≠ some 3 ∧
      (backed 3 (opened .setup)).line.slot = some 3 ∧ (calm.dir 3).erasePending = false ∧
      (queued 7 calm).store.queue.length < 8 ∧ (calm.dir 3).state ≠ .degraded ∧
      admits .clearProtect .winder [] (purging (.begun 3) calm) = true := by decide

theorem witness_Watches :
    (∀ b ∈ [0#8, 0x0F#8, 0x10#8, 0x11#8],
      admits .watchSet .emboss [b, 0x27#8, 0#8, 0#8] (web 10000 (opened .run)) = true) ∧
      natOfBytes [0x10#8, 0x27#8, 0#8, 0#8] = 10000 ∧
      (((web 10000 (opened .run)).modifyPort .emboss
        (fun y => { y with watch := some 10000 })).port .emboss).watch = some 10000 := by decide

theorem witness_RequestsChecked :
    ¬ Open .winder (executing .winder 0x54#8 .journal calm) ∧ Open .emboss calm ∧
      Port.emboss ∉ Req.start.role.ports ∧ Port.press ∈ Req.start.role.ports ∧
      calm.line.state ∉ Req.start.role.admitted ∧ LineState.setup ∈ Req.start.role.admitted ∧
      [0#8].length ≠ Req.start.role.length ∧ 0x17#8 ∉ roleCodes :=
  ⟨by unfold Open; decide, ⟨rfl, rfl⟩, by decide⟩

theorem witness_PortAccesses :
    (calm.port .press).response = none ∧ 12 < (13#8).toNat ∧ (0#8).toNat = 0 ∧
      ((calm.modifyPort .press (fun y => { y with response := some ⟨0x10#8, .ok, []⟩ })).port .press).response
        = some ⟨0x10#8, .ok, []⟩ := by decide

theorem witness_FifoAccesses :
    ((holding .press (List.replicate 256 0#8) calm).port .press).fifo.length ≤ 256 ∧
      ((calm.port .press).toStation = false) ∧ ((reading .press calm).port .press).toStation = true ∧
      ((executing .press 0x38#8 (.words [1#8, 2#8] []) calm).port .press).request
        = some ⟨0x38#8, .words [1#8, 2#8] [], false⟩ ∧
      (∀ code rest result d, (calm.port .press).request ≠ some ⟨code, .words rest result, d⟩) :=
  ⟨le_of_eq (List.length_replicate (n := 256)), by decide, by decide, by decide, fun _ _ _ _ h => nomatch h⟩

/-- A port with the word that a flush left and a number of bytes in its FIFO. -/
def latePort (n : Nat) : State :=
  holding .press (List.replicate n 0#8) (calm.modifyPort .press (fun x => { x with late := [1#8, 2#8] }))

theorem witness_FifoAccesses_late (n : Nat) :
    ((latePort n).port .press).late = [1#8, 2#8] ∧ ((latePort n).port .press).request = none ∧
      ((latePort n).port .press).fifo.length = n ∧
      ((holding .press (List.replicate n 0#8)
        (executing .press 0x38#8 (.words [1#8, 2#8] []) calm)).port .press).fifo.length = n :=
  ⟨rfl, rfl, List.length_replicate, List.length_replicate⟩

theorem test_flush_leaves_the_word_being_written :
    ∃ t u, exec (.fifoFlush .press) (executing .press 0x38#8 (.words [1#8, 2#8, 3#8, 4#8] []) calm) = .next t ∧
      exec (.fifoWordWritten .press) t = .next u ∧ (u.port .press).fifo = [1#8, 2#8] ∧
      (u.port .press).late = [] := ⟨_, _, rfl, rfl, rfl, rfl⟩

theorem witness_ViewReads :
    ∃ place shown : Nat → Word16,
      (∀ j, place j = BitVec.ofNat 16 (min 65535 ((calm.port .press).pointer.toNat + j))) ∧
        shown 0 = (calm.port .press).prefetch ∧ ∀ j, 0 < j → shown j = viewWord calm (place j) :=
  ⟨fun j => BitVec.ofNat 16 (min 65535 ((calm.port .press).pointer.toNat + j)),
    fun j => if j = 0 then (calm.port .press).prefetch
      else viewWord calm (BitVec.ofNat 16 (min 65535 ((calm.port .press).pointer.toNat + j))),
    fun _ => rfl, rfl, fun _ hj => if_neg (Nat.pos_iff_ne_zero.1 hj)⟩

theorem test_map_entries_take_the_words_of_their_parts :
    (defect 1000 (some 1200)).words.length = 10 ∧ (defect 1000 none).words.length = 8 ∧
      ({ defect 1000 none with forEmboss := true, pendingEnd := some 1100 }).words.length = 13 := by decide

theorem test_full_map_image_fits :
    (mapped 48 []).entries.length = 48 ∧ (mapImage (mapped 48 [])).length ≤ 512 :=
  ⟨by decide, mapImage_length_le _ (by decide) (by decide)⟩

/-- The presence word of the open end is 0, and the detail follows it. -/
theorem test_view_shows_an_open_entry :
    let s := onMap (mapped 1 [defect 70000 none])
    viewWord s 0x040F#16 = 4464#16 ∧ viewWord s 0x0410#16 = 1#16 ∧ viewWord s 0x0411#16 = 0#16 ∧
      viewWord s 0x0412#16 = 2#16 :=
  ⟨(viewWord_map _ 15 (by decide)).trans (by decide), (viewWord_map _ 16 (by decide)).trans (by decide),
    (viewWord_map _ 17 (by decide)).trans (by decide), (viewWord_map _ 18 (by decide)).trans (by decide)⟩

theorem test_a_store_operation_shows_its_target_and_subject :
    (StoreOp.batchWrite 3 16).words.drop 1 = [4#16, 1#16, 16#16] ∧
      (StoreOp.slotErase 0).words.drop 1 = [1#16, 0#16] := by decide

/-- A part with an event waiting. -/
def stepping : State := { opened .run with pending := [.faultStep] }

/-- A step of it answers a next state: the event's. -/
theorem stepping_steps : step stepping = .next (faultStep (opened .run)) := rfl

theorem witness_StepRunsFrontCommand : (opened .run).pending = [] ∧ stepping.pending = [.faultStep] := by decide

theorem witness_CapacitiesKept : ∃ t, step stepping = .next t ∧ FifosFit stepping ∧ StoreQueueFits stepping ∧
    ListsFit stepping :=
  ⟨_, stepping_steps, fun p => by cases p <;> decide, by unfold StoreQueueFits; decide,
    ⟨by decide, by decide, by decide, by decide, by decide⟩⟩

theorem witness_MapKept : ∃ t, step stepping = .next t ∧ MapFits stepping.map :=
  ⟨_, stepping_steps, by unfold MapFits; decide⟩

theorem witness_BanksKept : ∃ t, step stepping = .next t ∧ BanksCanonical stepping :=
  ⟨_, stepping_steps, by unfold BanksCanonical; decide⟩
/-! ### Worked examples of the manual -/

/-- 05, worked case: the five rows, and the odd repeat. -/
theorem test_signed_reduction :
    [3100, 4900, 4650, 1500, 0].map (fun d : Int => reduceMod 5300 (d - 2000))
        = [1100, -2400, 2650, -500, -2000] ∧
      reduceMod 5301 2651 = -2650 := by decide

/-- 02, worked sequence: the means of the measured repeats, and the two missed repeats. -/
theorem test_round_nearest :
    meanNearest [5286, 5331] = 5309 ∧ meanNearest [5286, 5331, 5310] = 5309 ∧ roundNearest 10619 2 = 5310 := by
  decide

/-- 04, worked case: the evaluation of frame 204, and evaluation a. -/
theorem test_correction :
    roundNearest 59 4 = 15 ∧ roundTowardZero (15 * 8) 16 = 7 ∧ roundTowardZero (-24 * 8) 16 = -12 := by decide

/-- 04, worked case: +12 at T = 495 is cut to +5, and at T = 500 to 0. -/
theorem test_limit_cut : cutToLimit 500 495 12 = 5 ∧ cutToLimit 500 500 12 = 0 := by decide

/-- 03, worked sequence of MKW: the centre, the next one, and the one recomputed for the late capture. -/
theorem test_phased_centres :
    leastCentre Recipe.default 171000 1000000 (996100 + 2651) = 1001400 ∧
      leastCentre Recipe.default 171000 1000000 (1001400 + 2651) = 1006700 ∧
      leastCentre Recipe.default 171000 1005331 (1001400 + 2651) = 1006731 := by decide

/-- 05, worked case with m = 2: the capture of the repeat before does not pair. -/
theorem test_pairing :
    pairedWith Recipe.default 708200 (some ⟨705410, false⟩) = some 705410 ∧
      pairedWith Recipe.default 718800 (some ⟨710690, false⟩) = none := by decide

/-- A recipe with the cut offset of the worked cases of 07. -/
def placing : State :=
  { calm with
    recipe := ⟨calm.recipe.fields.set 38 250⟩
    geometry := { calm.geometry with dK := 180000 }
    clock := { calm.clock with k0 := some 1003700 }
    roll := { calm.roll with transport := [-12] } }

/-- 07, placing a cut: the match points of steps 2 and 5. -/
theorem test_match_points :
    firstMatch placing 1300500 = 1300750 ∧ firstMatch placing 1401250 = 1401450 := by decide

/-- 07, placing a cut: the cut due point and the strobe position of step 3. -/
theorem test_strobe_position :
    duePoint placing 1300750 = 1450750 ∧ strobePosition placing 1300750 = 1480738 := by decide

/-- 07, a splice dodged: the new end and the following waste. -/
theorem test_dodge :
    dodgeEnd placing 1300750 1399000 = some 1396150 ∧ followingEnd placing 1399000 1396150 = 1401450 := by decide

/-- 06, the worked sequence of consumption: entries a, e and g. -/
theorem test_consume_entry :
    consumeEntry 1200000 1300750 (newEntry .register 1197500 (some 1200900) (.unit 1) false)
        = (some ⟨.register, .unit 1, 0, 900⟩, none) ∧
      consumeEntry 1200000 1300750 (newEntry .register 1300100 none (.unit 4) false)
        = (some ⟨.register, .unit 4, 100100, 650⟩, some (newEntry .register 1300750 none (.unit 4) false)) ∧
      consumeEntry 1200000 1300750 (newEntry .defect 1351300 (some 1352000) (.defectClass 9) false)
        = (none, some (newEntry .defect 1351300 (some 1352000) (.defectClass 9) false)) := by decide

/-- 06, the worked sequence of overflow: the entry that stands in for EMBOSS. -/
theorem test_overflow :
    overflowOf (newEntry .emboss 2004000 none .notClosed false)
        (newEntry .defect 2010000 (some 2010300) (.defectClass 2) false)
      = { newEntry .defect 2004000 none .overflow false with forEmboss := true, pendingEnd := some 2010300 } := by
  decide

/-- 08, classifying a roll: the means, the spread and the two distances. -/
theorem test_classification :
    Accumulator.mean ⟨6, ⟨42083, 1250, -8890⟩, none⟩ = ⟨7014, 208, -1482⟩ ∧
      ShadeRange.spread ⟨⟨7008, 205, -1490⟩, ⟨7020, 212, -1475⟩⟩ = 15 ∧
      shadeDistance Recipe.default ⟨7014, 208, -1482⟩ ⟨7030, 200, -1500⟩ = 55 ∧
      shadeDistance Recipe.default ⟨7014, 208, -1482⟩ ⟨7010, 215, -1470⟩ = 32 := by decide


end Sys2Proof.Tests
end

/-! ## START and STOP (R9, R10, R11) -/

namespace Sys2Proof.Starting

open Sys2Proof.Machine Sys2Proof.Safety

/-! ### Notices joining the pending sets -/

/-- The ports have changed by notices joining their pending sets and in nothing else. -/
def OnlyNotices (s t : State) : Prop := ∃ raised, Noticed raised s t

/-- The ports have changed by notices alone, LINE on every port among them. -/
def LineNoticed (s t : State) : Prop := ∃ raised, Noticed raised s t ∧ ∀ q, Has raised q .line

theorem noticed_both {x y : Raised} {s t u : State} (hx : Noticed x s t) (hy : Noticed y t u) :
    Noticed (both x y) s u := by
  intro q
  rw [hy q, hx q, both, ← BitVec.or_assoc]

theorem has_both_left {x : Raised} {q : Port} {n : Notice} (h : Has x q n) (y : Raised) : Has (both x y) q n := by
  unfold Has both at *
  rw [BitVec.and_comm, BitVec.and_or_distrib_left, BitVec.and_comm, h]
  ext i
  simp
  tauto

theorem both_comm (x y : Raised) : both x y = both y x := funext fun _ => BitVec.or_comm _ _

theorem OnlyNotices.refl (s : State) : OnlyNotices s s := ⟨quiet, fun _ => by simp [quiet]⟩

theorem OnlyNotices.trans {s t u : State} : OnlyNotices s t → OnlyNotices t u → OnlyNotices s u :=
  fun ⟨_, hx⟩ ⟨_, hy⟩ => ⟨_, noticed_both hx hy⟩

theorem LineNoticed.trans_onlyNotices {s t u : State} : LineNoticed s t → OnlyNotices t u → LineNoticed s u :=
  fun ⟨_, hx, hl⟩ ⟨y, hy⟩ => ⟨_, noticed_both hx hy, fun q => has_both_left (hl q) y⟩

theorem OnlyNotices.trans_lineNoticed {s t u : State} : OnlyNotices s t → LineNoticed t u → LineNoticed s u :=
  fun ⟨x, hx⟩ ⟨y, hy, hl⟩ => ⟨_, noticed_both hx hy, fun q => both_comm x y ▸ has_both_left (hl q) x⟩

theorem onlyNotices_raise (p : Port) (n : Notice) (s : State) : OnlyNotices s (s.raise p n) := by
  refine ⟨on p n, fun q => ?_⟩
  by_cases hq : q = p
  · simp [hq, on]
  · simp [hq, on]

theorem lineNoticed_raiseAll (s : State) : LineNoticed s (s.raiseAll .line) :=
  ⟨everywhere .line, fun _ => raiseAll_get _ _ _, fun _ => BitVec.and_self⟩

theorem onlyNotices_evalHolds (s : State) : OnlyNotices s (evalHolds s) := ⟨_, (evalHolds_noticed s).2⟩

/-- A request answered after its own rule has raised LINE on every port. -/
theorem answered_of_lineNoticed {r : Req} {p : Port} {args : List Byte} {s y : State} (h : Admitted r p args s)
    (hy : LineNoticed (received r p args s) y) :
    ∃ raised, Answered r p args .ok [] raised s (takeInput r p (answerOk r p y)) ∧ ∀ q, Has raised q .line :=
  let ⟨raised, hn, hl⟩ := hy
  ⟨raised, answered_of h hn, hl⟩

/-! ### The line state and the break flag -/

/-- Entering a line state writes the state and the hold causes. -/
theorem enterLineState_eq (st : LineState) (s : State) :
    enterLineState st s = { s with
      line := { s.line with state := st, holds := (enterLineState st s).line.holds }
      ports := (enterLineState st s).ports } := by
  unfold enterLineState
  split
  · rename_i h; rw [← h]
  · rw [evalHolds_eq]; rfl

theorem enterLineState_lineNoticed {st : LineState} {s : State} (h : s.line.state ≠ st) :
    LineNoticed s (enterLineState st s) := by
  rw [enterLineState, if_neg h]
  exact (lineNoticed_raiseAll _).trans_onlyNotices (onlyNotices_evalHolds _)

theorem setBreakFlag_eq (b : Bool) (s : State) :
    setBreakFlag b s = { s with
      line := { s.line with breakFlag := b }, ports := (setBreakFlag b s).ports } := by
  unfold setBreakFlag
  split
  · rename_i h; rw [← h]
  · rfl

theorem setBreakFlag_onlyNotices (b : Bool) (s : State) : OnlyNotices s (setBreakFlag b s) := by
  unfold setBreakFlag
  split
  · exact .refl s
  · obtain ⟨_, hn, -⟩ := lineNoticed_raiseAll { s with line := { s.line with breakFlag := b } }
    exact ⟨_, hn⟩

/-! ### Changing every row of a table -/

theorem mem_allRows_seven (k : Fin 7) : k ∈ allRows 7 := by revert k; decide

theorem allRows_seven_nodup : (allRows 7).Nodup := by decide

/-- A fold that changes one row at each step changes each row of its list once. -/
theorem foldl_rows {σ α : Type} {n : Nat} (row : σ → Fin n → α) (act : σ → Fin n → σ) (f : Fin n → α → α)
    (same : ∀ s k, row (act s k) k = f k (row s k)) (other : ∀ s k j, j ≠ k → row (act s k) j = row s j)
    (ks : List (Fin n)) (hks : ks.Nodup) (s : σ) (j : Fin n) :
    row (ks.foldl act s) j = if j ∈ ks then f j (row s j) else row s j := by
  induction ks generalizing s with
  | nil => simp
  | cons k ks ih =>
    obtain ⟨hk, hks⟩ := List.nodup_cons.1 hks
    rw [List.foldl_cons, ih hks]
    by_cases hj : j = k
    · subst hj; simp [hk, same]
    · simp [hj, other s k j hj]

/-! ### The mark channels (R36) -/

theorem usesUnit_iff (r : Recipe) (k : Fin 7) : r.usesUnit k = true ↔ (k.val : Int) + 1 < r.unitCount :=
  decide_eq_true_iff

theorem enableChannels_unit (s : State) (k : Fin 7) :
    (enableChannels s).channel (.unit k) =
      if s.recipe.usesUnit k then (s.channel (.unit k)).enable else s.channel (.unit k) := by
  have h := foldl_rows Table.get
    (fun t k => if s.recipe.usesUnit k then t.modify k ChannelRecord.enable else t)
    (fun k c => if s.recipe.usesUnit k then c.enable else c)
    (fun t k => by split <;> simp) (fun t k j hj => by split <;> simp [Ne.symm hj])
    (allRows 7) allRows_seven_nodup s.capture.units k
  rwa [if_pos (mem_allRows_seven k)] at h

/-! ### The register channels (R52) -/

theorem putUnit_eq (k : Fin 7) (x : ChannelStep) (s : State) :
    putUnit k x s = { s with
      register := { s.register with units := s.register.units.set k x.1 }, ports := (putUnit k x s).ports } := by
  unfold putUnit
  cases x.2.posted <;> cases x.2.changed || x.2.timedOut <;> rfl

theorem putUnit_unit (k j : Fin 7) (x : ChannelStep) (s : State) :
    (putUnit k x s).unit j = if k = j then x.1 else s.unit j := by
  rw [putUnit_eq]
  exact table_get_set ..

theorem putUnit_onlyNotices (k : Fin 7) (x : ChannelStep) (s : State) : OnlyNotices s (putUnit k x s) := by
  have raiseIf (b : Bool) (n : Notice) (u : State) : OnlyNotices u (if b then u.raise .press n else u) := by
    cases b
    · exact .refl u
    · exact onlyNotices_raise ..
  exact (raiseIf x.2.posted .trim { s with register := { s.register with units := s.register.units.set k x.1 } }).trans
    (raiseIf (x.2.changed || x.2.timedOut) .register _)

theorem eachUnit_eq (f : Fin 7 → RegisterChannel → ChannelStep) (s : State) :
    eachUnit f s = { s with
      register := { s.register with units := (eachUnit f s).register.units }, ports := (eachUnit f s).ports } := by
  refine List.foldlRecOn (motive := fun t : State => t = { s with
    register := { s.register with units := t.register.units }, ports := t.ports }) (allRows 7) _ rfl ?_
  intro t ht k _
  rw [putUnit_eq, ht]

theorem eachUnit_onlyNotices (f : Fin 7 → RegisterChannel → ChannelStep) (s : State) :
    OnlyNotices s (eachUnit f s) :=
  List.foldlRecOn (motive := OnlyNotices s) (allRows 7) _ (.refl s) fun _ ht _ _ =>
    ht.trans (putUnit_onlyNotices ..)

theorem eachUnit_unit (f : Fin 7 → RegisterChannel → ChannelStep) (s : State) (k : Fin 7) :
    (eachUnit f s).unit k = (f k (s.unit k)).1 := by
  have h := foldl_rows State.unit (fun s k => putUnit k (f k (s.unit k)) s) (fun k c => (f k c).1)
    (fun s k => by simp [putUnit_unit]) (fun s k j hj => by simp [putUnit_unit, Ne.symm hj])
    (allRows 7) allRows_seven_nodup s k
  rwa [if_pos (mem_allRows_seven k)] at h

/-! ### The emboss channel and the nip (R75, R86, R92) -/

theorem putEmboss_eq (x : ChannelStep) (s : State) :
    putEmboss x s = { s with emboss := { s.emboss with channel := x.1 }, ports := (putEmboss x s).ports } := by
  unfold putEmboss
  cases x.2.posted || x.2.changed || x.2.timedOut <;> rfl

theorem putEmboss_onlyNotices (x : ChannelStep) (s : State) : OnlyNotices s (putEmboss x s) := by
  unfold putEmboss
  cases x.2.posted || x.2.changed || x.2.timedOut
  · exact .refl s
  · exact onlyNotices_raise .emboss .emb { s with emboss := { s.emboss with channel := x.1 } }

theorem enterNip_eq (st : NipState) (s : State) :
    enterNip st s = { s with
      emboss := { s.emboss with nip := { s.emboss.nip with state := st } }, ports := (enterNip st s).ports } := by
  unfold enterNip
  split
  · rename_i h; rw [← h]
  · rfl

theorem enterNip_onlyNotices (st : NipState) (s : State) : OnlyNotices s (enterNip st s) := by
  unfold enterNip
  split
  · exact .refl s
  · exact onlyNotices_raise .emboss .nip (modifyNip (fun n => { n with state := st }) s)

theorem judgeEmboss_eq (s : State) : judgeEmboss s = { s with map := (judgeEmboss s).map } := by
  unfold judgeEmboss
  split <;> rfl

theorem embossEnabled_iff (r : Recipe) : r.embossEnabled = true ↔ r.embossEnableField = 1 := beq_iff_eq

theorem startEmboss_disabled {s : State} (h : s.recipe.embossEnableField ≠ 1) : startEmboss s = s :=
  if_neg (mt (embossEnabled_iff _).1 h)

theorem startEmboss_enabled {s : State} (h : s.recipe.embossEnableField = 1) :
    startEmboss s
      = judgeEmboss (enterNip .opened (putEmboss (enterState .acquire (s.emboss.channel, .none)) s)) :=
  if_pos ((embossEnabled_iff _).2 h)

theorem startEmboss_eq (s : State) :
    startEmboss s = { s with
      emboss := (startEmboss s).emboss, map := (startEmboss s).map, ports := (startEmboss s).ports } := by
  by_cases h : s.recipe.embossEnableField = 1
  · rw [startEmboss_enabled h, judgeEmboss_eq, enterNip_eq, putEmboss_eq]
  · rw [startEmboss_disabled h]

theorem startEmboss_onlyNotices (s : State) : OnlyNotices s (startEmboss s) := by
  by_cases h : s.recipe.embossEnableField = 1
  · rw [startEmboss_enabled h, judgeEmboss_eq]
    exact (putEmboss_onlyNotices ..).trans (enterNip_onlyNotices ..)
  · rw [startEmboss_disabled h]
    exact .refl s

theorem startEmboss_states {s : State} (h : s.recipe.embossEnableField = 1) :
    (startEmboss s).emboss.channel.state = .acquire ∧ (startEmboss s).emboss.nip.state = .opened := by
  rw [startEmboss_enabled h, judgeEmboss_eq, enterNip_eq, putEmboss_eq]
  exact ⟨enterState_state .., rfl⟩

/-! ### Beginning waste (R110, R111) -/

theorem installPlan_eq (p : Plan) (s : State) :
    installPlan p s = { s with
      line := { s.line with holds := (installPlan p s).line.holds }
      roll := (installPlan p s).roll, ports := (installPlan p s).ports } := by
  unfold installPlan
  split
  · rw [evalHolds_eq, modifyRecord_eq]; rfl
  · rfl

theorem installPlan_onlyNotices (p : Plan) (s : State) : OnlyNotices s (installPlan p s) := by
  unfold installPlan
  split
  · rw [modifyRecord_eq]
    exact onlyNotices_evalHolds _
  · exact OnlyNotices.refl s

theorem installPlan_plan (p : Plan) (s : State) :
    (installPlan p s).roll.plan = some { p with record := lowestFree s } := by
  unfold installPlan
  split
  · rename_i i h; rw [evalHolds_eq, h]; rfl
  · rename_i h; rw [h]

theorem installPlan_record {p : Plan} {s : State} {i : Fin 24} (h : lowestFree s = some i) :
    ((installPlan p s).record i).state = .winding := by
  simp only [installPlan, h]
  rw [evalHolds_record]
  exact congrArg RollRecord.state
    (modifyRecord_parts i (fun r => takenRecord p (s.line.run.getD 0) r.revision) s fun _ _ => rfl)

/-- The plan with which waste begins at a position. -/
theorem beginWaste_plan (start : Pos) (s : State) :
    (beginWaste start s).roll.plan =
      some { openWaste start with
        limited := decide ((s.web.w : Int) < forcedPoint s start), record := lowestFree s } :=
  installPlan_plan ..

/-! ### START -/

/-- A START from SETUP up to the point at which waste begins (R10). -/
def startBeforeWaste (s : State) : State :=
  startClock (startEmboss (eachUnit (startUnit s.recipe) (enableChannels (enterLineState .run s))))

theorem startFromSetup_waste (s : State) : startFromSetup s = beginWaste 0 (startBeforeWaste s) := rfl

/-- The clock as a START from SETUP leaves it (R27, R35). -/
def startedClock (s : State) : RepeatClock :=
  { s.clock with
    state := .running, phase := 0, origin := s.web.w, k0 := none, measured := []
    stretch := none, stretchOver := false, previousKey := none, lastCoast := none }

theorem startBeforeWaste_eq (s : State) :
    startBeforeWaste s = { s with
      line := { s.line with state := .run, holds := (startBeforeWaste s).line.holds }
      clock := startedClock s
      capture := (enableChannels s).capture
      register := { s.register with units := (startBeforeWaste s).register.units }
      emboss := (startBeforeWaste s).emboss, map := (startBeforeWaste s).map
      ports := (startBeforeWaste s).ports } := by
  unfold startBeforeWaste
  rw [startEmboss_eq, eachUnit_eq, enterLineState_eq]
  rfl

theorem startBeforeWaste_lineNoticed {s : State} (h : s.line.state ≠ .run) : LineNoticed s (startBeforeWaste s) :=
  ((enterLineState_lineNoticed h).trans_onlyNotices (eachUnit_onlyNotices (startUnit s.recipe)
    (enableChannels (enterLineState .run s)))).trans_onlyNotices (startEmboss_onlyNotices _)

theorem startBeforeWaste_unit (s : State) (k : Fin 7) :
    (startBeforeWaste s).unit k = (startUnit s.recipe k (s.unit k)).1 := by
  have h : (startBeforeWaste s).unit k
      = (eachUnit (startUnit s.recipe) (enableChannels (enterLineState .run s))).unit k := by
    unfold startBeforeWaste
    rw [startEmboss_eq]
    rfl
  rw [h, eachUnit_unit, enterLineState_eq]
  rfl

theorem startBeforeWaste_disabled {s : State} (h : s.recipe.embossEnableField ≠ 1) :
    (startBeforeWaste s).emboss = s.emboss ∧ (startBeforeWaste s).map = s.map := by
  unfold startBeforeWaste
  rw [startEmboss_disabled, eachUnit_eq, enterLineState_eq]
  · exact ⟨rfl, rfl⟩
  · rw [eachUnit_eq, enterLineState_eq]
    exact h

theorem startBeforeWaste_enabled {s : State} (h : s.recipe.embossEnableField = 1) :
    (startBeforeWaste s).emboss.channel.state = .acquire ∧ (startBeforeWaste s).emboss.nip.state = .opened := by
  refine startEmboss_states ?_
  rw [eachUnit_eq, enterLineState_eq]
  exact h

theorem startFromSetup_eq (s : State) :
    startFromSetup s = { s with
      line := { s.line with state := .run, holds := (startFromSetup s).line.holds }
      clock := startedClock s
      capture := (enableChannels s).capture
      register := { s.register with units := (startBeforeWaste s).register.units }
      emboss := (startBeforeWaste s).emboss, map := (startBeforeWaste s).map
      roll := (startFromSetup s).roll
      ports := (startFromSetup s).ports } := by
  rw [startFromSetup_waste, beginWaste, installPlan_eq, startBeforeWaste_eq]

theorem startFromSetup_lineNoticed {s : State} (h : s.line.state ≠ .run) : LineNoticed s (startFromSetup s) :=
  (startBeforeWaste_lineNoticed h).trans_onlyNotices (installPlan_onlyNotices ..)

theorem startFromSetup_channel (s : State) (ch : Channel) :
    (startFromSetup s).channel ch = (enableChannels s).channel ch := by
  rw [startFromSetup_eq]
  rfl

theorem startFromSetup_unit (s : State) (k : Fin 7) :
    (startFromSetup s).unit k = (startUnit s.recipe k (s.unit k)).1 := by
  rw [startFromSetup_eq, ← startBeforeWaste_unit]
  rfl

/-- The plan of a START from SETUP: waste from 0, in the lowest FREE record. -/
theorem startFromSetup_plan (s : State) :
    (startFromSetup s).roll.plan =
      some { openWaste 0 with
        limited := decide ((s.web.w : Int) < forcedPoint s 0), record := lowestFree s } := by
  rw [startFromSetup_waste, beginWaste_plan, startBeforeWaste_eq]
  rfl

theorem startFromSetup_record {s : State} {i : Fin 24} (h : lowestFree s = some i) :
    ((startFromSetup s).record i).state = .winding := by
  refine installPlan_record (s := startBeforeWaste s) ?_
  rw [startBeforeWaste_eq]
  exact h

/-- What a START taken from SETUP leaves, its answer apart (R10). -/
structure StartedFromSetup (s t : State) : Prop where
  frame : t = { s with
    line := { s.line with state := .run, holds := t.line.holds }, clock := t.clock
    capture := t.capture, register := { s.register with units := t.register.units }
    emboss := t.emboss, map := t.map, roll := t.roll, ports := t.ports }
  mk0 : t.channel .mk0 = { s.channel .mk0 with enabled := true }
  mkw : t.channel .mkw = { s.channel .mkw with enabled := true }
  channels : ∀ k : Fin 7, t.channel (.unit k) =
    if (k.val : Int) + 1 < s.recipe.unitCount then { s.channel (.unit k) with enabled := true }
    else s.channel (.unit k)
  used : ∀ k : Fin 7, (k.val : Int) + 1 < s.recipe.unitCount → (t.unit k).state = .acquire
  unused : ∀ k : Fin 7, s.recipe.unitCount ≤ (k.val : Int) + 1 → t.unit k = s.unit k
  emboss : s.recipe.embossEnableField = 1 →
    t.channel .mke = { s.channel .mke with enabled := true } ∧
      t.channel .idx = { s.channel .idx with enabled := true } ∧
      t.emboss.channel.state = .acquire ∧ t.emboss.nip.state = .opened
  noEmboss : s.recipe.embossEnableField ≠ 1 →
    t.channel .mke = s.channel .mke ∧ t.channel .idx = s.channel .idx ∧ t.emboss = s.emboss ∧ t.map = s.map
  clock : t.clock = startedClock s
  waste : ∃ q, t.roll.plan = some q ∧ q.kind = .waste ∧ q.start = 0 ∧ q.stop = none ∧
    q.phase = .winding ∧ q.following = none ∧
    (q.limited = true ↔ (s.web.w : Int) < 2000000 + s.geometry.dK - s.recipe.cutLead) ∧
    (∀ i, q.record = some i → (s.record i).state = .free ∧ (t.record i).state = .winding) ∧
    (q.record = none → ∀ i, (s.record i).state ≠ .free)

theorem startFromSetup_started (s : State) : StartedFromSetup s (startFromSetup s) where
  frame := by rw [startFromSetup_eq]
  mk0 := startFromSetup_channel s .mk0
  mkw := startFromSetup_channel s .mkw
  channels k := by
    rw [startFromSetup_channel, enableChannels_unit]
    simp only [usesUnit_iff]
    rfl
  used k h := by
    rw [startFromSetup_unit, startUnit, if_pos ((usesUnit_iff _ k).2 h), enterState_state]
  unused k h := by
    rw [startFromSetup_unit, startUnit, if_neg (mt (usesUnit_iff _ k).1 (Int.not_lt.2 h))]
  emboss h := by
    rw [startFromSetup_channel, startFromSetup_channel, startFromSetup_eq]
    have he := (embossEnabled_iff _).2 h
    exact ⟨if_pos he, if_pos he, startBeforeWaste_enabled h⟩
  noEmboss h := by
    rw [startFromSetup_channel, startFromSetup_channel, startFromSetup_eq]
    have he := mt (embossEnabled_iff _).1 h
    exact ⟨if_neg he, if_neg he, startBeforeWaste_disabled h⟩
  clock := by rw [startFromSetup_eq]
  waste := by
    obtain ⟨hfree, hnone⟩ := lowestFree_spec s
    exact ⟨_, startFromSetup_plan s, rfl, rfl, rfl, rfl, rfl, by simp [forcedPoint, wasteReach],
      fun i hi => ⟨(hfree i hi).1, startFromSetup_record hi⟩, hnone⟩

/-- What it leaves does not depend on the ports. -/
theorem StartedFromSetup.withPorts {s t : State} {before : Ports}
    (h : StartedFromSetup { s with ports := before } t) (after : Ports) :
    StartedFromSetup s { t with ports := after } where
  frame := congrArg (fun t => { t with ports := after }) h.frame
  mk0 := h.mk0
  mkw := h.mkw
  channels := h.channels
  used := h.used
  unused := h.unused
  emboss := h.emboss
  noEmboss := h.noEmboss
  clock := h.clock
  waste := h.waste

theorem startFromStopped_eq (s : State) :
    startFromStopped s = { s with
      line := { s.line with state := .run, breakFlag := false, holds := (startFromStopped s).line.holds }
      roll := (startFromStopped s).roll, ports := (startFromStopped s).ports } := by
  unfold startFromStopped
  split
  · rw [beginWaste, installPlan_eq, setBreakFlag_eq, enterLineState_eq]
  · rename_i h
    rw [enterLineState_eq, ← Bool.eq_false_of_not_eq_true h]

theorem startFromStopped_lineNoticed {s : State} (h : s.line.state ≠ .run) : LineNoticed s (startFromStopped s) := by
  unfold startFromStopped
  split
  · exact ((enterLineState_lineNoticed h).trans_onlyNotices (setBreakFlag_onlyNotices ..)).trans_onlyNotices
      (installPlan_onlyNotices ..)
  · exact enterLineState_lineNoticed h

/-- With no break, a START from STOPPED changes the line state alone. -/
theorem startFromStopped_noBreak {s : State} (h : s.line.breakFlag = false) :
    startFromStopped s = { s with
      line := { s.line with state := .run, holds := (startFromStopped s).line.holds }
      ports := (startFromStopped s).ports } := by
  rw [startFromStopped, if_neg (by simp [h]), enterLineState_eq]

/-- The plan of a START after a break: waste from the knife frame position. -/
theorem startFromStopped_plan {s : State} (h : s.line.breakFlag = true) :
    (startFromStopped s).roll.plan =
      some { openWaste (knifeFrame s) with
        limited := decide ((s.web.w : Int) < forcedPoint s (knifeFrame s)), record := lowestFree s } := by
  rw [startFromStopped, if_pos h, beginWaste_plan, setBreakFlag_eq, enterLineState_eq]
  rfl

/-- The waste that a START begins after a break. -/
theorem startFromStopped_begun {s : State} (h : s.line.breakFlag = true) :
    ∃ q, (startFromStopped s).roll.plan = some q ∧ q.kind = .waste ∧ q.start = (s.web.w : Int) - s.geometry.dK ∧
      q.stop = none ∧ q.phase = .winding ∧ (q.limited = true ↔ s.recipe.cutLead < 2000000) := by
  refine ⟨_, startFromStopped_plan h, rfl, rfl, rfl, rfl, decide_eq_true_iff.trans ?_⟩
  simp only [forcedPoint, wasteReach, knifeFrame]
  omega

/-- What a START that passes its checks does beyond its answer. -/
def started (s : State) : State := if s.line.state = .setup then startFromSetup s else startFromStopped s

theorem started_setup {s : State} (h : s.line.state = .setup) : started s = startFromSetup s := if_pos h

theorem started_stopped {s : State} (h : s.line.state = .stopped) : started s = startFromStopped s :=
  if_neg (by simp [h])

theorem started_lineNoticed {s : State} (h : s.line.state ≠ .run) : LineNoticed s (started s) := by
  unfold started
  split
  · exact startFromSetup_lineNoticed h
  · exact startFromStopped_lineNoticed h

theorem started_run (s : State) : (started s).line.state = .run := by
  unfold started
  split
  · rw [startFromSetup_eq]
  · rw [startFromStopped_eq]

/-! ### The checks of START (R9) -/

theorem startCheck_one_of_unitTooWide {s : State} (h : s.recipe.unitTooWide = none) : startCheck s 1 := by
  intro k hk
  have := List.find?_eq_none.1 h k (mem_allRows_seven k)
  simpa [Recipe.usesUnit, Recipe.half, hk] using this

/-- The unit that check 1 names is the lowest one in use that fails it. -/
theorem unitTooWide_some {s : State} {k : Fin 7} (h : s.recipe.unitTooWide = some k) :
    (k.val : Int) + 1 < s.recipe.unitCount ∧
      s.recipe.repeatLength / 2 ≤ mag (s.recipe.unitOffset k) + s.recipe.window ∧
      ∀ j : Fin 7, j < k → (j.val : Int) + 1 < s.recipe.unitCount →
        mag (s.recipe.unitOffset j) + s.recipe.window < s.recipe.repeatLength / 2 := by
  obtain ⟨hk, before, after, hrows, hbefore⟩ := List.find?_eq_some_iff_append.1 h
  obtain ⟨hused, hwide⟩ : (k.val : Int) + 1 < s.recipe.unitCount ∧
      s.recipe.repeatLength / 2 ≤ mag (s.recipe.unitOffset k) + s.recipe.window := by
    simpa [Recipe.usesUnit, Recipe.half] using hk
  refine ⟨hused, hwide, fun j hj hju => ?_⟩
  have hmem : j ∈ before := by
    have hsorted : (before ++ k :: after).Pairwise (· < ·) := hrows ▸ by decide
    have hj' : j ∈ before ++ k :: after := hrows ▸ mem_allRows_seven j
    rcases List.mem_append.1 hj' with hb | ha
    · exact hb
    · rcases List.mem_cons.1 ha with rfl | ha
      · exact absurd hj (lt_irrefl _)
      · exact absurd hj (lt_asymm ((List.pairwise_cons.1 (List.pairwise_append.1 hsorted).2.1).1 j ha))
  simpa [Recipe.usesUnit, Recipe.half, hju] using hbefore j hmem

/-- Check `n` is the first of the nine that fails. -/
structure FirstFailing (s : State) (n : Nat) : Prop where
  range : 1 ≤ n ∧ n ≤ 9
  fails : ¬ startCheck s n
  before : ∀ m, 1 ≤ m → m < n → startCheck s m

theorem FirstFailing.unique {s : State} {m n : Nat} (hm : FirstFailing s m) (hn : FirstFailing s n) : m = n := by
  rcases Nat.lt_trichotomy m n with h | h | h
  · exact absurd (hn.before m hm.range.1 h) hm.fails
  · exact h
  · exact absurd (hm.before n hn.range.1 h) hn.fails

/-- What a failure report says of the checks, given that those below `n` pass: none that all pass, and a number that
it is the first failing check, with the unit that check 1 names. -/
def Reports (s : State) (n : Nat) (report : Option (Nat × Nat)) : Prop :=
  (∀ m, 1 ≤ m → m < n → startCheck s m) →
    match report with
    | none => ∀ m, startCheck s m
    | some (m, u) => FirstFailing s m ∧ (m ≠ 1 → u = 0) ∧
      (m = 1 → ∃ k, s.recipe.unitTooWide = some k ∧ u = k.val + 1)

theorem reports_passed {s : State} {n : Nat} {report : Option (Nat × Nat)} (hn : startCheck s n)
    (hrest : Reports s (n + 1) report) : Reports s n report := by
  refine fun hbefore => hrest fun m h1 hm => ?_
  rcases Nat.lt_succ_iff_lt_or_eq.1 hm with h | rfl
  · exact hbefore m h1 h
  · exact hn

/-- One check of the chain that `startFailure` tries in turn. -/
theorem reports_check {s : State} {n : Nat} {fails : Prop} [Decidable fails] {report : Option (Nat × Nat)}
    (hn : 2 ≤ n ∧ n ≤ 9) (hfails : fails ↔ ¬ startCheck s n) (hrest : Reports s (n + 1) report) :
    Reports s n (if fails then some (n, 0) else report) := by
  by_cases hf : fails
  · rw [if_pos hf]
    exact fun hbefore => ⟨⟨by omega, hfails.1 hf, hbefore⟩, fun _ => rfl, fun _ => by omega⟩
  · rw [if_neg hf]
    exact reports_passed (not_not.1 (mt hfails.2 hf)) hrest

theorem reports_end (s : State) : Reports s 10 none := by
  intro hbefore m
  by_cases hm : 1 ≤ m ∧ m < 10
  · exact hbefore m hm.1 hm.2
  · unfold startCheck
    split <;> trivial

theorem startFailure_reports (s : State) :
    Reports s 1 (startFailure s.recipe s.geometry s.line.geometryValid) := by
  unfold startFailure
  cases h : s.recipe.unitTooWide with
  | some k =>
    obtain ⟨hused, hwide, -⟩ := unitTooWide_some h
    exact fun hbefore => ⟨⟨by omega, fun h1 => absurd (h1 k hused) (Int.not_lt.2 hwide), hbefore⟩,
      fun h => absurd rfl h, fun _ => ⟨k, h, rfl⟩⟩
  | none =>
    have emboss : (s.recipe.embossEnabled = true ∧ ¬ s.recipe.window ≤ (s.geometry.dK : Int) - s.geometry.dE) ↔
        ¬ startCheck s 9 := by
      rw [embossEnabled_iff]
      exact Classical.not_imp.symm
    exact reports_passed (startCheck_one_of_unitTooWide h) <|
      reports_check (by omega) Iff.rfl <| reports_check (by omega) Iff.rfl <|
      reports_check (by omega) Iff.rfl <| reports_check (by omega) Iff.rfl <|
      reports_check (by omega) Iff.rfl <| reports_check (by omega) Iff.rfl <|
      reports_check (by omega) Iff.rfl <| reports_check (by omega) emboss (reports_end s)

/-- The failure report of a state whose first failing check is `n`. -/
theorem startFailure_of_firstFailing {s : State} {n : Nat} (h : FirstFailing s n) :
    ∃ u, startFailure s.recipe s.geometry s.line.geometryValid = some (n, u) ∧ (n ≠ 1 → u = 0) ∧
      (n = 1 → ∃ k, s.recipe.unitTooWide = some k ∧ u = k.val + 1) := by
  have hr := startFailure_reports s fun m h1 hm => by omega
  cases hf : startFailure s.recipe s.geometry s.line.geometryValid with
  | none =>
    rw [hf] at hr
    exact absurd (hr n) h.fails
  | some x =>
    rw [hf] at hr
    obtain ⟨hfirst, hunit⟩ := hr
    cases hfirst.unique h
    exact ⟨x.2, rfl, hunit⟩

theorem startFailure_none {s : State} (h : ∀ n, startCheck s n) :
    startFailure s.recipe s.geometry s.line.geometryValid = none := by
  have hr := startFailure_reports s fun m h1 hm => by omega
  cases hf : startFailure s.recipe s.geometry s.line.geometryValid with
  | none => rfl
  | some x =>
    rw [hf] at hr
    exact absurd (h x.1) hr.1.fails

/-! ### The requests -/

/-- The frame shifted in does not bear on the checks. -/
theorem startFailure_received (r : Req) (p : Port) (args : List Byte) (s : State) :
    startFailure (received r p args s).recipe (received r p args s).geometry (received r p args s).line.geometryValid
      = startFailure s.recipe s.geometry s.line.geometryValid := by
  rw [received_eq]

/-- A START whose check `n` is the first to fail is refused, and only its port changes (R9). -/
theorem exec_start_refused {p : Port} {s : State} {n : Nat} (h : Admitted .start p [] s) (hn : FirstFailing s n) :
    ∃ (t : State) (u : Nat), exec (.start p []) s = .next t ∧ SameButPorts s t ∧
      Answered .start p [] .invalid [BitVec.ofNat 8 n, BitVec.ofNat 8 u] quiet s t ∧ (n ≠ 1 → u = 0) ∧
      (n = 1 → ∃ k, s.recipe.unitTooWide = some k ∧ u = k.val + 1) := by
  obtain ⟨u, hf, hu⟩ := startFailure_of_firstFailing hn
  have hbody : startBody p (received .start p [] s)
      = respond p Req.start.role.code .invalid [BitVec.ofNat 8 n, BitVec.ofNat 8 u] (received .start p [] s) := by
    simp only [startBody, startFailure_received, hf]
    rfl
  refine ⟨_, u, congrArg Host.Outcome.next ((takeRequest_admitted (startBody p) h).trans
    (congrArg (takeInput .start p) hbody)), ?_, answered_of h fun q => by simp [quiet], hu⟩
  unfold SameButPorts
  rw [takeInput_eq, respond_eq, received_eq]

/-- A request answered OK after its own rule has raised LINE: its next state is its rule's, ports apart. -/
theorem takeRequest_lineNoticed {r : Req} {p : Port} {args : List Byte} {s : State} {body act : State → State}
    (h : Admitted r p args s) (hbody : body (received r p args s) = answerOk r p (act (received r p args s)))
    (hact : LineNoticed (received r p args s) (act (received r p args s))) :
    ∃ (before after : Ports) (raised : Raised),
      takeRequest r p args body s = { act { s with ports := before } with ports := after } ∧
      Answered r p args .ok [] raised s (takeRequest r p args body s) ∧ ∀ q, Has raised q .line := by
  obtain ⟨raised, hans, hline⟩ := answered_of_lineNoticed h hact
  have ht := (takeRequest_admitted body h).trans (congrArg (takeInput r p) hbody)
  refine ⟨(received r p args s).ports, (takeRequest r p args body s).ports, raised, ?_, ht ▸ hans, hline⟩
  rw [ht, ← received_eq, takeInput_eq]
  rfl

theorem exec_start_taken {p : Port} {s : State} (h : Admitted .start p [] s) (hc : ∀ n, startCheck s n) :
    ∃ (before after : Ports) (raised : Raised),
      exec (.start p []) s = .next { started { s with ports := before } with ports := after } ∧
      Answered .start p [] .ok [] raised s { started { s with ports := before } with ports := after } ∧
      ∀ q, Has raised q .line := by
  have hbody : startBody p (received .start p [] s) = answerOk .start p (started (received .start p [] s)) := by
    simp only [startBody, startFailure_received, startFailure_none hc]
    rfl
  have hrun : (received .start p [] s).line.state ≠ .run := by
    rw [received_eq]
    exact fun hs : s.line.state = .run => absurd (hs ▸ h.state) (by decide)
  obtain ⟨before, after, raised, ht, hans, hline⟩ := takeRequest_lineNoticed h hbody (started_lineNoticed hrun)
  exact ⟨before, after, raised, congrArg Host.Outcome.next ht, ht ▸ hans, hline⟩

/-- What STOP does beyond its answer (R11). -/
def stopped (s : State) : State := enterLineState .stopped (setBreakFlag false (discardTune s))

theorem stopped_eq (s : State) :
    stopped s = { s with
      line := { s.line with
        state := .stopped, breakFlag := false, stagedTune := none, holds := (stopped s).line.holds }
      ports := (stopped s).ports } := by
  unfold stopped
  rw [enterLineState_eq, setBreakFlag_eq]
  rfl

theorem stopped_lineNoticed {s : State} (h : s.line.state ≠ .stopped) : LineNoticed s (stopped s) := by
  refine (setBreakFlag_onlyNotices false (discardTune s)).trans_lineNoticed (enterLineState_lineNoticed ?_)
  rw [setBreakFlag_eq]
  exact h

theorem exec_stop_taken {p : Port} {s : State} (h : Admitted .stop p [] s) :
    ∃ (before after : Ports) (raised : Raised),
      exec (.stop p []) s = .next { stopped { s with ports := before } with ports := after } ∧
      Answered .stop p [] .ok [] raised s { stopped { s with ports := before } with ports := after } ∧
      ∀ q, Has raised q .line := by
  have hrun : (received .stop p [] s).line.state ≠ .stopped := by
    rw [received_eq]
    have : s.line.state = .run := List.mem_singleton.1 h.state
    simp [this]
  obtain ⟨before, after, raised, ht, hans, hline⟩ :=
    takeRequest_lineNoticed (body := stopBody p) h rfl (stopped_lineNoticed hrun)
  exact ⟨before, after, raised, congrArg Host.Outcome.next ht, ht ▸ hans, hline⟩

/-- Settles O50: the check reported is the first that fails, and what START and STOP leave is read off the equations of
their parts, which hold whatever the ports are. -/
theorem startAndStop : Obligations.StartAndStop := by
  refine ⟨fun p s n h h1 h9 hbefore hfails => ?_, fun p s h hc => ?_, fun p s h => ?_⟩
  · obtain ⟨t, u, hexec, hsame, hans, hzero, hunit⟩ := exec_start_refused h ⟨⟨h1, h9⟩, hfails, hbefore⟩
    refine ⟨t, BitVec.ofNat 8 u, hexec, hsame, hans, fun hn => by rw [hzero hn], fun hn => ?_⟩
    obtain ⟨k, hk, rfl⟩ := hunit hn
    exact ⟨k, rfl, unitTooWide_some hk⟩
  · obtain ⟨before, after, raised, hexec, hans, hline⟩ := exec_start_taken h hc
    refine ⟨_, raised, hexec, hans, hline, started_run _, fun hs => ?_, fun hs hb => ?_, fun hs hb => ?_⟩
    · rw [started_setup (s := { s with ports := before }) hs]
      have hst := (startFromSetup_started { s with ports := before }).withPorts after
      exact ⟨hst.frame, hst.mk0, hst.mkw, hst.channels, hst.used, hst.unused, hst.emboss, hst.noEmboss, hst.clock,
        hst.waste⟩
    · rw [started_stopped (s := { s with ports := before }) hs]
      exact congrArg (fun t => { t with ports := after })
        (startFromStopped_noBreak (s := { s with ports := before }) hb)
    · rw [started_stopped (s := { s with ports := before }) hs]
      exact ⟨congrArg (fun t => { t with ports := after }) (startFromStopped_eq _), startFromStopped_begun hb⟩
  · obtain ⟨before, after, raised, hexec, hans, hline⟩ := exec_stop_taken h
    exact ⟨_, raised, hexec, congrArg (fun t => { t with ports := after }) (stopped_eq _), hans, hline⟩

end Sys2Proof.Starting

/-! ## Consumption of the web map for a segment (R103, R104, R106) -/

namespace Sys2Proof.Consuming

open Sys2Proof.Machine Sys2Proof.Safety

/-! ### The charge of an overlap -/

theorem chargeOf_of_lt (e : MapEntry) (start : Pos) {a b : Pos} (h : a < b) :
    chargeOf e start a b = some ⟨e.kind, e.detail, a - start, b - a⟩ := if_pos h

theorem chargeOf_of_le (e : MapEntry) (start : Pos) {a b : Pos} (h : b ≤ a) : chargeOf e start a b = none :=
  if_neg (Int.not_lt.2 h)

/-! ### An entry, by the rows of R103's table -/

theorem consumeEntry_ahead (start : Pos) {c : Pos} {e : MapEntry} (h : c ≤ e.start) :
    consumeEntry start c e = (none, some e) := if_pos h

theorem consumeEntry_splice (start : Pos) {c : Pos} {e : MapEntry} (h : e.start < c) (hk : e.kind = .splice) :
    consumeEntry start c e =
      (if start ≤ e.start then some ⟨.splice, e.detail, e.start - start, 0⟩ else none, none) := by
  rw [consumeEntry, if_neg (Int.not_le.2 h), hk]
  dsimp only
  split <;> rfl

theorem consumeEntry_closed (start : Pos) {c b : Pos} {e : MapEntry} (h : e.start < c) (hk : e.kind ≠ .splice)
    (hb : e.stop = some b) :
    consumeEntry start c e =
      if b ≤ start then (none, none)
      else (chargeOf e start (max e.start start) (min b c), if b ≤ c then none else some { e with start := c }) := by
  rw [consumeEntry, if_neg (Int.not_le.2 h), hb]
  cases hkind : e.kind with
  | splice => exact absurd hkind hk
  | register | emboss | defect => rfl

theorem consumeEntry_open (start : Pos) {c : Pos} {e : MapEntry} (h : e.start < c) (hk : e.kind ≠ .splice)
    (hb : e.stop = none) :
    consumeEntry start c e = (chargeOf e start (max e.start start) c, some { e with start := c }) := by
  rw [consumeEntry, if_neg (Int.not_le.2 h), hb]
  cases hkind : e.kind with
  | splice => exact absurd hkind hk
  | register | emboss | defect => rfl

/-- An entry that ends beyond S but covers no web, its end not lying beyond its start, is charged nothing. -/
theorem consumeEntry_empty {start c b : Pos} {e : MapEntry} (h : e.start < c) (hk : e.kind ≠ .splice)
    (hb : e.stop = some b) (hs : start < b) (he : b ≤ e.start) :
    consumeEntry start c e = (none, if b ≤ c then none else some { e with start := c }) := by
  rw [consumeEntry_closed start h hk hb, if_neg (Int.not_le.2 hs),
    chargeOf_of_le e start ((min_le_left b c).trans (he.trans (le_max_left e.start start)))]

/-- What is left of an entry is the entry itself, starting at or after `c`, or the entry trimmed to `c`. -/
theorem consumeEntry_kept {start c : Pos} {e x : MapEntry} (hx : (consumeEntry start c e).2 = some x) :
    c ≤ e.start ∧ x = e ∨ x = { e with start := c } := by
  by_cases h : c ≤ e.start
  · rw [consumeEntry_ahead start h] at hx
    exact .inl ⟨h, (Option.some.inj hx).symm⟩
  · refine .inr ?_
    have h : e.start < c := Int.not_le.1 h
    by_cases hk : e.kind = .splice
    · rw [consumeEntry_splice start h hk] at hx
      cases hx
    · obtain hb | ⟨b, hb⟩ := Option.eq_none_or_eq_some e.stop
      · rw [consumeEntry_open start h hk hb] at hx
        exact (Option.some.inj hx).symm
      · rw [consumeEntry_closed start h hk hb] at hx
        split at hx
        · cases hx
        · dsimp only at hx
          split at hx
          · cases hx
          · exact (Option.some.inj hx).symm

/-! ### The map and the segment -/

/-- After consumption every entry starts at or after the cut (R103). -/
theorem consumed_start_ge {start c : Pos} {m : WebMap} {x : MapEntry} (hx : x ∈ (consumed start c m).entries) :
    c ≤ x.start := by
  obtain ⟨e, -, he⟩ := List.mem_filterMap.1 hx
  rcases consumeEntry_kept he with ⟨h, rfl⟩ | rfl
  · exact h
  · exact le_rfl

/-- Tracked or not, a segment's share changes roll records, the map and the sample queue with its counts alone. -/
theorem consumeSegment_rest (p : Plan) (c : Pos) (s : State) :
    consumeSegment p c s = { s with
      roll := { s.roll with records := (consumeSegment p c s).roll.records }
      map := consumed p.start c s.map
      shade := { s.shade with
        queue := s.shade.queue.filter (fun y => decide (c ≤ y.position)), thin := false
        wasteSamples := (consumeSegment p c s).shade.wasteSamples } } := by
  cases hp : p.record with
  | none =>
    have h := (consumeSegment_untracked p c s hp).1
    have hroll : (consumeSegment p c s).roll = s.roll := by rw [h]
    rw [hroll]
    exact h
  | some i => exact (consumeSegment_tracked i p c s hp).rest

theorem consumeSegment_wasted (p : Plan) (c : Pos) (s : State) :
    SamplesWasted p c (s.shade.queue.filter (fun y => decide (y.position < c))) s (consumeSegment p c s) := by
  cases hp : p.record with
  | none => exact (consumeSegment_untracked p c s hp).2
  | some i => exact (consumeSegment_tracked i p c s hp).waste

/-- A segment's share leaves every record that is not its own (R106). -/
theorem consumeSegment_other {p : Plan} (c : Pos) (s : State) {j : Fin 24} (hj : p.record ≠ some j) :
    (consumeSegment p c s).record j = s.record j := by
  cases hp : p.record with
  | none => rw [(consumeSegment_untracked p c s hp).1]; rfl
  | some i => exact (consumeSegment_tracked i p c s hp).others j fun h => hj (h ▸ hp)

/-- Settles O22: an entry goes by the rows of R103's table, and the share of the segment is what its tracked or untracked
plan leaves. -/
theorem consumption : Obligations.Consumption := by
  intro start c e
  refine ⟨consumeEntry_ahead start, consumeEntry_splice start, fun b h hk hb => ⟨fun hs => ?_, fun hs hlt => ?_,
    fun hs he => ?_⟩, fun h hs hk hb => ?_, fun m => ⟨rfl, rfl, fun _ => consumed_start_ge, ?_⟩⟩
  · rw [consumeEntry_closed start h hk hb, if_pos hs]
  · rw [consumeEntry_closed start h hk hb, if_neg (Int.not_le.2 hs), chargeOf_of_lt e start hlt]
  · rw [consumeEntry_empty h hk hb hs he]
    exact ⟨rfl, fun hc => if_pos hc⟩
  · rw [consumeEntry_open start h hk hb, chargeOf_of_lt e start (max_lt h hs)]
  · rintro p s t rfl
    refine ⟨consumeSegment_rest p c s, consumeSegment_wasted p c s, fun i hi => ?_,
      fun _ => consumeSegment_other c s⟩
    have shared := consumeSegment_tracked i p c s hi
    exact ⟨_, rfl, shared.share, shared.record⟩

end Sys2Proof.Consuming

/-! ## Roll forming and the cut: the reports of the winder and the station flags (R124, R133) -/

namespace Sys2Proof.Reporting

open Sys2Proof.Machine Sys2Proof.Safety Sys2Proof.Starting

/-! ### Requests that leave all but the port -/

/-- A request answered from the state that its own rule finds leaves the rest of the part as it was and raises
nothing. -/
theorem answered_received {r : Req} {p : Port} {args : List Byte} {s : State} (status : Status) (result : List Byte)
    (h : Open p s) :
    SameButPorts s (takeInput r p (respond p r.role.code status result (received r p args s))) ∧
    Answered r p args status result quiet s
      (takeInput r p (respond p r.role.code status result (received r p args s))) := by
  refine ⟨?_, fun q => ?_⟩
  · unfold SameButPorts
    rw [takeInput_eq, respond_eq, received_eq]
  · have hreq : ((received r p args s).ports.get p).request = none := by
      rw [received_get, if_pos rfl]
      exact h.1
    have hresp (q : Port) := respond_get (received r p args s) p q r.role.code status result
      (fun e he => by rw [hreq] at he; cases he)
    by_cases hq : q = p
    · subst hq
      rw [port_eq, takeInput_get, if_pos rfl, hresp, if_pos rfl, received_get, if_pos rfl, if_pos rfl, portAfter, quiet,
        BitVec.or_zero]
      rfl
    · simp [hq, hresp, received_get, quiet]

/-! ### What follows a report -/

/-- No cut waits for its report. -/
def NoneAwaiting (s : State) : Prop := ∀ x ∈ s.roll.cuts, x.state ≠ .awaiting

/-- What a report sets off beside the cut's own change: notices join the pending sets of the ports, and no cut becomes
AWAITING. -/
structure Consequent (s t : State) : Prop where
  notices : OnlyNotices s t
  cuts : NoneAwaiting s → NoneAwaiting t

theorem Consequent.of_eq {s t : State} (ports : t.ports = s.ports) (cuts : t.roll.cuts = s.roll.cuts) :
    Consequent s t :=
  ⟨⟨quiet, fun q => by simp [ports, quiet]⟩, fun h => by unfold NoneAwaiting; rw [cuts]; exact h⟩

theorem Consequent.refl (s : State) : Consequent s s := .of_eq rfl rfl

theorem Consequent.trans {s t u : State} (a : Consequent s t) (b : Consequent t u) : Consequent s u :=
  ⟨a.notices.trans b.notices, b.cuts ∘ a.cuts⟩

/-- A change that is neither to the ports nor to the cuts may come first. -/
theorem Consequent.after_eq {s t u : State} (h : Consequent t u) (ports : t.ports = s.ports)
    (cuts : t.roll.cuts = s.roll.cuts) : Consequent s u :=
  (Consequent.of_eq ports cuts).trans h

theorem consequent_raise (p : Port) (n : Notice) (s : State) : Consequent s (s.raise p n) :=
  ⟨onlyNotices_raise p n s, id⟩

theorem consequent_raiseAll (n : Notice) (s : State) : Consequent s (s.raiseAll n) :=
  ⟨⟨everywhere n, fun _ => raiseAll_get _ _ _⟩, id⟩

theorem consequent_evalHolds (s : State) : Consequent s (evalHolds s) :=
  ⟨onlyNotices_evalHolds s, fun h => by rw [evalHolds_eq]; exact h⟩

theorem consequent_modifyRecord (i : Fin 24) (f : RollRecord → RollRecord) (s : State) :
    Consequent s (modifyRecord i f s) := by
  rw [modifyRecord_eq]
  exact .of_eq rfl rfl

theorem consequent_freeRecord (i : Fin 24) (s : State) : Consequent s (freeRecord i s) :=
  (consequent_modifyRecord i _ s).trans (consequent_evalHolds _)

/-! ### The store queue (R160, R161, R167 to R173) -/

theorem consequent_releaseUnjournalled (i : Fin 24) (s : State) : Consequent s (releaseUnjournalled i s) :=
  (consequent_freeRecord i s).trans (.of_eq rfl rfl)

theorem consequent_releaseWaiting (fuel : Nat) (s : State) : Consequent s (releaseWaiting fuel s) := by
  induction fuel generalizing s with
  | zero => exact .refl s
  | succ fuel ih =>
    unfold releaseWaiting
    split
    · exact (consequent_releaseUnjournalled _ s).trans (ih _)
    · exact .refl s

theorem consequent_settleJournalPath (s : State) : Consequent s (settleJournalPath s) := by
  unfold settleJournalPath
  split
  · exact consequent_releaseWaiting 24 s
  · exact .refl s

theorem consequent_pushAppend (n : Fin 4) (i : Fin 24) (s : State) : Consequent s (pushAppend n i s) :=
  (consequent_modifyRecord i _ (pushOp (.journalAppend n i) s)).after_eq rfl rfl

theorem consequent_takePlaces (fuel : Nat) (s : State) : Consequent s (takePlaces fuel s) := by
  induction fuel generalizing s with
  | zero => exact .refl s
  | succ fuel ih =>
    unfold takePlaces
    split
    · exact .refl s
    · split
      · exact (ih _).after_eq rfl rfl
      · split
        · exact (consequent_pushAppend _ _ s).trans (ih _)
        · exact .refl s
      · exact .refl s

theorem consequent_startHead (op : StoreOp) (s : State) : Consequent s (startHead op s) := by
  cases op with
  | journalAppend n i => exact (consequent_modifyRecord i _ s).trans (.of_eq rfl rfl)
  | batchWrite n k =>
    simp only [startHead]
    split <;> exact .of_eq rfl rfl
  | geometryRead | slotRead | journalRead | headerWrite | recipeWrite | geometryWrite | slotErase =>
    exact .of_eq rfl rfl

theorem consequent_enterLineState (st : LineState) (s : State) : Consequent s (enterLineState st s) := by
  unfold enterLineState
  split
  · exact .refl s
  · exact ((consequent_raiseAll .line { s with line := { s.line with state := st } }).trans
      (consequent_evalHolds _)).after_eq rfl rfl

theorem consequent_enterNoOrder (s : State) : Consequent s (enterNoOrder s) :=
  (consequent_enterLineState .noOrder _).after_eq rfl rfl

theorem consequent_closeOrderAfter (written : StoredState) (s : State) :
    Consequent s (closeOrderAfter written s) := by
  unfold closeOrderAfter
  split
  · exact consequent_enterNoOrder s
  · exact .refl s

theorem consequent_failUnstarted (op : StoreOp) (s : State) : Consequent s (failUnstarted op s) := by
  cases op with
  | journalAppend n i => exact (consequent_releaseUnjournalled i _).after_eq rfl rfl
  | headerWrite n written => exact (consequent_closeOrderAfter written _).after_eq rfl rfl
  | geometryRead | slotRead | journalRead | recipeWrite | geometryWrite | slotErase | batchWrite =>
    exact .of_eq rfl rfl

theorem consequent_failFull (op : StoreOp) (s : State) : Consequent s (failFull op s) := by
  cases op with
  | journalAppend n i =>
    rw [failFull]
    refine .trans ?_ (consequent_settleJournalPath _)
    refine .trans ?_ (consequent_releaseUnjournalled i _)
    exact (consequent_raiseAll .store _).after_eq rfl rfl
  | headerWrite | geometryRead | slotRead | journalRead | recipeWrite | geometryWrite | slotErase | batchWrite =>
    exact .refl s

/-- A head that ends without starting leaves its place to what waits. -/
theorem consequent_takePlaces_releaseHead (s : State) : Consequent s (takePlaces 24 (releaseHead s)) :=
  (consequent_takePlaces 24 _).after_eq rfl rfl

theorem consequent_dealHead (fuel : Nat) (s : State) : Consequent s (dealHead fuel s) := by
  induction fuel generalizing s with
  | zero => exact .refl s
  | succ fuel ih =>
    have sampled : Consequent s (sampleEnable s) := .of_eq rfl rfl
    unfold dealHead
    split
    · exact .of_eq rfl rfl
    · split
      · exact sampled.trans (consequent_startHead _ _)
      · split
        · exact (consequent_failUnstarted _ s).trans ((consequent_takePlaces_releaseHead _).trans (ih _))
        · split
          · exact (consequent_failFull _ s).trans ((consequent_takePlaces_releaseHead _).trans (ih _))
          · dsimp only
            split
            · exact sampled.trans (consequent_startHead _ _)
            · exact (consequent_raiseAll .store _).after_eq rfl rfl

theorem consequent_enqueue (op : StoreOp) (s : State) : Consequent s (enqueue op s) := by
  unfold enqueue
  split
  · exact (consequent_dealHead headFuel _).after_eq rfl rfl
  · exact .of_eq rfl rfl

theorem consequent_headerContent (n : Fin 4) (f : DirectoryEntry → DirectoryEntry) (s : State) :
    Consequent s (headerContent n f s) := by
  unfold headerContent
  split
  · exact .refl s
  · exact .of_eq rfl rfl

/-! ### Closing the order (R16) -/

theorem consequent_advanceClosing (s : State) : Consequent s (advanceClosing s) := by
  unfold advanceClosing
  split
  · split
    · refine .trans ?_ (consequent_enqueue _ _)
      exact (consequent_headerContent _ _ _).after_eq rfl rfl
    · exact consequent_enterNoOrder s
  · exact .refl s

theorem consequent_afterReport (x : CutRecord) (s : State) : Consequent s (afterReport x s) := by
  unfold afterReport
  split
  · dsimp only
    split
    · exact (consequent_advanceClosing _).after_eq rfl rfl
    · exact .of_eq rfl rfl
  · exact .refl s

/-! ### Finishing a segment (R130, R131, R141 to R145, R149, R154) -/

theorem consequent_saveBatch (k : Nat) (s : State) : Consequent s (saveBatch k s) := by
  unfold saveBatch
  split
  · split
    · exact .refl s
    · dsimp only
      split
      · split
        · exact (consequent_enqueue _ _).after_eq rfl rfl
        · exact .of_eq rfl rfl
      · exact .of_eq rfl rfl
  · exact .refl s

theorem consequent_foundBatch (i : Fin 24) (mean : Shade) (s : State) : Consequent s (foundBatch i mean s) :=
  ((consequent_raise .quality .batch _).trans (consequent_saveBatch _ _)).after_eq rfl rfl

theorem consequent_foundOrUnclassed (i : Fin 24) (mean : Shade) (spread : Int) (d : Option Int) (low : Bool)
    (s : State) : Consequent s (foundOrUnclassed i mean spread d low s) := by
  unfold foundOrUnclassed
  split
  · exact (consequent_modifyRecord i _ s).trans (consequent_foundBatch i mean _)
  · exact consequent_modifyRecord i _ s

theorem consequent_matchBatches (i : Fin 24) (mean : Shade) (spread : Int) (s : State) :
    Consequent s (matchBatches i mean spread s) := by
  unfold matchBatches
  dsimp only
  split
  · split
    · exact (consequent_modifyRecord i _ s).trans ((consequent_saveBatch _ _).after_eq rfl rfl)
    · exact consequent_foundOrUnclassed ..
  · exact consequent_foundOrUnclassed ..

theorem consequent_classify (i : Fin 24) (s : State) : Consequent s (classify i s) := by
  unfold classify
  dsimp only
  split
  · exact consequent_modifyRecord i _ s
  · split
    · exact consequent_modifyRecord i _ s
    · exact consequent_matchBatches ..

theorem consequent_numberRoll (i : Fin 24) (s : State) : Consequent s (numberRoll i s) := by
  unfold numberRoll
  exact (consequent_modifyRecord i _ _).after_eq rfl rfl

theorem consequent_pushLabel (i : Fin 24) (s : State) : Consequent s (pushLabel i s) := by
  refine (consequent_modifyRecord i (fun r => { r with state := .labelPending }) s).trans ?_
  unfold pushLabel
  dsimp only
  split
  · exact (consequent_raise .quality .label _).after_eq rfl rfl
  · exact .of_eq rfl rfl

theorem consequent_joinLabel (i : Fin 24) (s : State) : Consequent s (joinLabel i s) := by
  unfold joinLabel
  split
  · exact (consequent_pushLabel i s).trans (consequent_evalHolds _)
  · exact consequent_evalHolds s

theorem consequent_gradeRecord (i : Fin 24) (unconfirmed : Bool) (s : State) :
    Consequent s (gradeRecord i unconfirmed s) :=
  ((consequent_numberRoll i s).trans (consequent_classify i _)).trans
    ((consequent_modifyRecord i _ _).trans (consequent_joinLabel i _))

theorem consequent_freeWaste (i : Fin 24) (s : State) : Consequent s (freeWaste i s) :=
  (consequent_freeRecord i _).after_eq rfl rfl

theorem consequent_finishRecord (i : Fin 24) (unconfirmed : Bool) (s : State) :
    Consequent s (finishRecord i unconfirmed s) := by
  unfold finishRecord
  split
  · exact consequent_gradeRecord i unconfirmed s
  · exact consequent_freeWaste i s

theorem consequent_finishCut (x : CutRecord) (unconfirmed : Bool) (s : State) :
    Consequent s (finishCut x unconfirmed s) := by
  unfold finishCut
  split
  · exact consequent_finishRecord _ unconfirmed s
  · split
    · exact .refl s
    · exact .of_eq rfl rfl

/-! ### A failed cut (R126) -/

/-- A change to the cut records in a state that leaves their states makes none AWAITING. -/
theorem consequent_modifyCuts (st : CutState) {f : CutRecord → CutRecord} (hf : ∀ x, (f x).state = x.state)
    (s : State) : Consequent s (modifyCuts st f s) := by
  refine ⟨.refl s, fun h y hy => ?_⟩
  obtain ⟨x, hx, rfl⟩ := List.mem_map.1 hy
  split
  · rw [hf]
    exact h x hx
  · exact h x hx

theorem consequent_mergePlan (i : Fin 24) (p : Plan) (s : State) : Consequent s (mergePlan i p s) := by
  unfold mergePlan
  split
  · exact (consequent_modifyRecord i _ s).trans ((consequent_freeRecord _ _).after_eq rfl rfl)
  · exact .refl s

theorem consequent_takeOver (i : Fin 24) (p : Plan) (s : State) : Consequent s (takeOver i p s) := by
  refine (consequent_mergePlan i p s).trans ?_
  refine .trans ?_ (consequent_modifyCuts .issued (by intro x; rfl) _)
  exact (consequent_modifyRecord i _ _).after_eq rfl rfl

theorem consequent_failTracked (i : Fin 24) (s : State) : Consequent s (failTracked i s) := by
  unfold failTracked
  split
  · exact consequent_takeOver i _ s
  · exact (consequent_modifyRecord i _ s).trans (consequent_finishRecord i false _)

theorem consequent_modifyTracked (p : Plan) (f : RollRecord → RollRecord) (s : State) :
    Consequent s (modifyTracked p f s) := by
  unfold modifyTracked
  split
  · exact consequent_modifyRecord _ f s
  · exact .refl s

theorem consequent_failUntracked (x : CutRecord) (s : State) : Consequent s (failUntracked x s) := by
  unfold failUntracked
  refine (consequent_finishCut x false s).trans ?_
  dsimp only
  split
  · exact consequent_modifyTracked ..
  · exact .refl _

/-! ### A report that is taken (R124) -/

/-- What a report that is taken leaves: CUT raised on port W among the notices, and no cut AWAITING. -/
structure Reported (s t : State) : Prop where
  notices : ∃ raised, Noticed raised s t ∧ Has raised .winder .cut
  cuts : NoneAwaiting t

/-- The named cut takes a state other than AWAITING, and CUT is raised among what follows. -/
theorem reported_of {s a t : State} {f : CutRecord → CutRecord} (hf : ∀ x, (f x).state ≠ .awaiting)
    (before : Consequent (modifyCuts .awaiting f s) a) (after : Consequent (raiseCut a) t) : Reported s t := by
  have changed : NoneAwaiting (modifyCuts .awaiting f s) := fun y hy => by
    obtain ⟨x, -, rfl⟩ := List.mem_map.1 hy
    split
    · exact hf x
    · assumption
  obtain ⟨x, hx⟩ := before.notices
  obtain ⟨y, hy⟩ := after.notices
  have cut : Noticed (on .winder .cut) a (raiseCut a) := fun q => by
    by_cases hq : q = .winder <;> simp [raiseCut, hq, on]
  have has : Has (on .winder .cut) .winder .cut := BitVec.and_self
  refine ⟨⟨_, noticed_both (noticed_both (s := s) hx cut) hy, has_both_left ?_ y⟩, after.cuts (before.cuts changed)⟩
  rw [both_comm]
  exact has_both_left has x

theorem takeCutDone_reported (x : CutRecord) (s : State) : Reported s (takeCutDone x s) :=
  reported_of (f := fun x => { x with state := .done }) (fun _ => CutState.noConfusion)
    (consequent_finishCut x false _) (consequent_afterReport x _)

theorem takeCutFailed_reported (x : CutRecord) (s : State) : Reported s (takeCutFailed x s) := by
  refine reported_of (f := fun x => { x with state := .failed }) (fun _ => CutState.noConfusion) ?_
    (consequent_afterReport x _)
  split
  · exact consequent_failTracked ..
  · exact consequent_failUntracked ..

/-- With no cut AWAITING there is no confirm timeout to come. -/
theorem confirmTimeout_noneAwaiting {s : State} (h : NoneAwaiting s) : confirmTimeout s = s := by
  have none : cutIn .awaiting s = none := List.find?_eq_none.2 fun x hx => by simpa using h x hx
  rw [confirmTimeout, none]
  rfl

/-! ### How a report is judged (R124) -/

theorem judgeReport_taken {n : Nat} {s : State} (h : ∃ x ∈ s.roll.cuts, x.number = n ∧ x.state = .awaiting) :
    ∃ x, judgeReport n s = .inr x := by
  obtain ⟨x, hx, hn, hs⟩ := h
  have found : (s.roll.cuts.find? (fun x => x.number == n && x.state == .awaiting)).isSome = true :=
    List.find?_isSome.2 ⟨x, hx, by simp [hn, hs]⟩
  obtain ⟨y, hy⟩ := Option.isSome_iff_exists.1 found
  exact ⟨y, by rw [judgeReport, hy]⟩

theorem judgeReport_refused {n : Nat} {s : State} (h : ∀ x ∈ s.roll.cuts, x.number = n → x.state ≠ .awaiting) :
    judgeReport n s = .inl
      (if s.roll.lastUnconfirmed = some n ∨ ∃ x ∈ s.roll.cuts, x.number = n ∧ x.state = .unconfirmed then .tooLate
      else .state) := by
  have none : s.roll.cuts.find? (fun x => x.number == n && x.state == .awaiting) = none :=
    List.find?_eq_none.2 fun x hx => by simpa using h x hx
  rw [judgeReport, none]
  simp only [List.any_eq_true, Bool.and_eq_true, beq_iff_eq]
  split <;> rfl

/-- A report's own rule: it is answered by its judgment, and `take` is done with the cut it is taken for. -/
def reportBody (r : Req) (p : Port) (args : List Byte) (take : CutRecord → State → State) (s : State) : State :=
  (judgeReport (argNat args 0 4) s).elim (fun status => answer r p status s) (fun x => answerOk r p (take x s))

theorem cutDoneBody_eq (p : Port) (args : List Byte) :
    cutDoneBody p args = reportBody .cutDone p args takeCutDone := by
  funext s
  unfold cutDoneBody reportBody
  cases judgeReport (argNat args 0 4) s <;> rfl

theorem cutFailedBody_eq (p : Port) (args : List Byte) :
    cutFailedBody p args = reportBody .cutFailed p args takeCutFailed := by
  funext s
  unfold cutFailedBody reportBody
  cases judgeReport (argNat args 0 4) s <;> rfl

/-- Either report is checked as a request and then answered by the one rule, with what it does when taken. -/
theorem exec_report {r : Req} (hr : r = .cutDone ∨ r = .cutFailed) (p : Port) (args : List Byte) (s : State) :
    ∃ take : CutRecord → State → State, (∀ x u, Reported u (take x u)) ∧
      exec (requestInstr r p args) s = .next (takeRequest r p args (reportBody r p args take) s) := by
  rcases hr with rfl | rfl
  · exact ⟨takeCutDone, takeCutDone_reported, cutDoneBody_eq p args ▸ rfl⟩
  · exact ⟨takeCutFailed, takeCutFailed_reported, cutFailedBody_eq p args ▸ rfl⟩

/-- The four bytes of a report spell the number it names. -/
theorem argNat_report {r : Req} {p : Port} {args : List Byte} {s : State} (hr : r = .cutDone ∨ r = .cutFailed)
    (h : Admitted r p args s) : argNat args 0 4 = natOfBytes args := by
  have len : args.length = 4 := by rcases hr with rfl | rfl <;> exact h.length
  rw [argNat, List.drop_zero, List.take_of_length_le (Nat.le_of_eq len)]

/-- The frame shifted in does not bear on the judgment. -/
theorem judgeReport_received (n : Nat) (r : Req) (p : Port) (args : List Byte) (s : State) :
    judgeReport n (received r p args s) = judgeReport n s := by
  rw [received_eq]
  rfl

section
variable {r : Req} {p : Port} {args : List Byte} {s : State}

theorem takeRequest_report_taken {take : CutRecord → State → State} (h : Admitted r p args s) {x : CutRecord}
    (hj : judgeReport (argNat args 0 4) s = .inr x) (ht : ∀ u, Reported u (take x u)) :
    ∃ (t : State) (raised : Raised), takeRequest r p args (reportBody r p args take) s = t ∧
      Answered r p args .ok [] raised s t ∧ Has raised .winder .cut ∧ NoneAwaiting t := by
  obtain ⟨⟨raised, hn, hc⟩, hcuts⟩ := ht (received r p args s)
  have hbody : reportBody r p args take (received r p args s)
      = answerOk r p (take x (received r p args s)) := by
    rw [reportBody, judgeReport_received, hj]
    rfl
  refine ⟨_, raised, (takeRequest_admitted _ h).trans (congrArg _ hbody), answered_of h hn, hc, fun y hy => ?_⟩
  rw [takeInput_roll, answerOk_roll] at hy
  exact hcuts y hy

theorem takeRequest_report_refused (take : CutRecord → State → State) {status : Status} (h : Admitted r p args s)
    (hj : judgeReport (argNat args 0 4) s = .inl status) :
    ∃ t, takeRequest r p args (reportBody r p args take) s = t ∧
      SameButPorts s t ∧ Answered r p args status [] quiet s t := by
  have hbody : reportBody r p args take (received r p args s) = answer r p status (received r p args s) := by
    rw [reportBody, judgeReport_received, hj]
    rfl
  exact ⟨_, (takeRequest_admitted _ h).trans (congrArg _ hbody), answered_received status [] h.slots⟩

end

/-- Settles O27: both reports are answered by the one judgment of R124, and once either is taken no cut is AWAITING, so
that no confirm timeout is left. -/
theorem reportsJudged : Obligations.ReportsJudged := by
  rintro r p args s n hr h rfl
  obtain ⟨take, htake, hexec⟩ := exec_report hr p args s
  rw [hexec, ← argNat_report hr h]
  refine ⟨fun hawaits => ?_, fun hnot hlate => ?_, fun hnot hlast => ?_⟩
  · obtain ⟨x, hj⟩ := judgeReport_taken hawaits
    obtain ⟨t, raised, ht, hans, hcut, hnone⟩ := takeRequest_report_taken h hj (htake x)
    exact ⟨t, raised, congrArg _ ht, hans, hcut, hnone, congrArg _ (confirmTimeout_noneAwaiting hnone)⟩
  · have hj := (judgeReport_refused hnot).trans (congrArg _ (if_pos hlate))
    obtain ⟨t, ht, hkept⟩ := takeRequest_report_refused take h hj
    exact ⟨t, congrArg _ ht, hkept⟩
  · have hj := (judgeReport_refused fun x hx hn => (hnot x hx hn).1).trans (congrArg _ (if_neg (by
      rintro (hlate | ⟨x, hx, hn, hs⟩)
      · exact hlast hlate
      · exact (hnot x hx hn).2 hs)))
    obtain ⟨t, ht, hkept⟩ := takeRequest_report_refused take h hj
    exact ⟨t, congrArg _ ht, hkept⟩

/-! ### Station flags (R133) -/

/-- The frame shifted in does not bear on the roll records. -/
theorem received_record (r : Req) (p : Port) (args : List Byte) (s : State) (i : Fin 24) :
    (received r p args s).record i = s.record i := by
  rw [received_eq]
  rfl

/-- The number of a record is its row. -/
theorem recordOfNumber_val (i : Fin 24) : recordOfNumber i.val = some i := dif_pos i.isLt

/-- A number above 23 names no record. -/
theorem recordOfNumber_none {n : Nat} (h : 23 < n) : recordOfNumber n = none := dif_neg (by omega)

theorem argNat_first (n : Byte) (rest : List Byte) : argNat (n :: rest) 0 1 = n.toNat := by simp [argNat, natOfBytes]

/-- A record whose station flags are set and cleared by the masks of ROLL_FLAG (R133). -/
def flagged (p : Port) (set clear : Byte) (r : RollRecord) : RollRecord :=
  { r with flags := setFlags p set clear r.flags }

/-- Of the owned bits, those of the set mask are set and those of the clear mask alone are cleared; the others stay. -/
theorem setFlags_getLsbD (p : Port) (set clear flags : Byte) {b : Nat} (hb : b < 8) :
    (setFlags p set clear flags).getLsbD b =
      if (ownedFlags p).getLsbD b then set.getLsbD b || (!clear.getLsbD b && flags.getLsbD b)
      else flags.getLsbD b := by
  simp only [setFlags, BitVec.getLsbD_or, BitVec.getLsbD_and, BitVec.getLsbD_not, hb, decide_true, Bool.true_and]
  cases (ownedFlags p).getLsbD b
  · simp
  · simp [Bool.or_comm, Bool.and_comm]

/-- The revision count counts a change of the flags (R111). -/
theorem modifyRecord_flagged (i : Fin 24) (p : Port) (set clear : Byte) (s : State) :
    (modifyRecord i (flagged p set clear) s).record i = { s.record i with
      flags := setFlags p set clear (s.record i).flags
      revision := if setFlags p set clear (s.record i).flags = (s.record i).flags then (s.record i).revision
        else min 4294967295 ((s.record i).revision + 1) } := by
  have same : flagged p set clear (s.record i) = s.record i ↔
      setFlags p set clear (s.record i).flags = (s.record i).flags :=
    ⟨congrArg RollRecord.flags, fun h => by rw [flagged, h]⟩
  rw [modifyRecord_same]
  by_cases h : setFlags p set clear (s.record i).flags = (s.record i).flags
  · rw [if_pos (same.2 h), if_pos h, h]
  · rw [if_neg (mt same.1 h), if_neg h, bump_max32]
    rfl

section
variable {p : Port} {n set clear : Byte} {s : State} {i : Fin 24}

theorem rollFlagBody_range (hn : 23 < n.toNat) :
    rollFlagBody p [n, set, clear] s = answer .rollFlag p .range s := by
  rw [rollFlagBody, argNat_first, recordOfNumber_none hn]

theorem rollFlagBody_free (hn : n.toNat = i.val) (hfree : (s.record i).state = .free) :
    rollFlagBody p [n, set, clear] s = answer .rollFlag p .notFound s := by
  rw [rollFlagBody, argNat_first, hn, recordOfNumber_val]
  exact if_pos hfree

theorem rollFlagBody_held (hn : n.toNat = i.val) (hheld : (s.record i).state ≠ .free) :
    rollFlagBody p [n, set, clear] s =
      respond p Req.rollFlag.role.code .ok [(set ||| clear) &&& ~~~(ownedFlags p)]
        (modifyRecord i (flagged p set clear) s) := by
  rw [rollFlagBody, argNat_first, hn, recordOfNumber_val]
  exact if_neg hheld

/-- A ROLL_FLAG refused by its own rule changes its port alone. -/
theorem exec_rollFlag_refused {status : Status} (h : Admitted .rollFlag p [n, set, clear] s)
    (hbody : rollFlagBody p [n, set, clear] (received .rollFlag p [n, set, clear] s)
      = answer .rollFlag p status (received .rollFlag p [n, set, clear] s)) :
    ∃ t, exec (.rollFlag p [n, set, clear]) s = .next t ∧
      SameButPorts s t ∧ Answered .rollFlag p [n, set, clear] status [] quiet s t :=
  ⟨_, congrArg Host.Outcome.next ((takeRequest_admitted _ h).trans (congrArg _ hbody)),
    answered_received status [] h.slots⟩

/-- A ROLL_FLAG for a record that is held changes that record as its masks say, and answers with the bits that the port
does not own. -/
theorem exec_rollFlag_held (h : Admitted .rollFlag p [n, set, clear] s) (hn : n.toNat = i.val)
    (hheld : (s.record i).state ≠ .free) :
    ∃ t, exec (.rollFlag p [n, set, clear]) s = .next t ∧
      t = { s with ports := t.ports, roll := { s.roll with records := t.roll.records } } ∧
      Answered .rollFlag p [n, set, clear] .ok [(set ||| clear) &&& ~~~(ownedFlags p)] quiet s t ∧
      ∀ j, t.record j = (modifyRecord i (flagged p set clear) s).record j := by
  have hbody := rollFlagBody_held (p := p) (set := set) (clear := clear) hn
    (s := received .rollFlag p [n, set, clear] s) (by rwa [received_record])
  refine ⟨_, congrArg Host.Outcome.next ((takeRequest_admitted _ h).trans (congrArg _ hbody)), ?_,
    answered_of h fun q => ?_, fun j => ?_⟩
  · rw [takeInput_eq, respond_eq, modifyRecord_eq, received_eq]
  · rw [modifyRecord_eq]
    simp [quiet]
  · rw [State.record, takeInput_roll, respond_roll]
    change (modifyRecord i _ _).record j = _
    by_cases hj : i = j
    · subst hj
      rw [modifyRecord_same, modifyRecord_same, received_record]
    · rw [modifyRecord_other _ _ _ _ hj, modifyRecord_other _ _ _ _ hj, received_record]

end

/-- A ROLL_FLAG refused for the line state changes its port alone. -/
theorem exec_rollFlag_noOrder {p : Port} {args : List Byte} {s : State} (h : Open p s)
    (hs : s.line.state = .noOrder) :
    ∃ t, exec (.rollFlag p args) s = .next t ∧
      SameButPorts s t ∧ Answered .rollFlag p args .state [] quiet s t := by
  have role : p ∈ Req.rollFlag.role.ports := by cases p <;> decide
  have state : s.line.state ∉ Req.rollFlag.role.admitted := by rw [hs]; decide
  exact ⟨_, congrArg Host.Outcome.next (takeRequest_state .rollFlag p args _ s h role state),
    answered_received .state [] h⟩

/-- Settles O31: the refusals leave all but the port, and a record that is held is changed as the masks say. -/
theorem rollFlag : Obligations.RollFlag := by
  refine ⟨fun p n set clear s => exec_rollFlag_noOrder, fun _ => rfl, fun p n set clear owned s h howned => ?_⟩
  obtain rfl : owned = ownedFlags p := by cases p <;> exact howned
  refine ⟨fun hn => exec_rollFlag_refused h (rollFlagBody_range hn), fun i hn => ⟨fun hfree => ?_, fun hheld => ?_⟩⟩
  · exact exec_rollFlag_refused h (rollFlagBody_free hn (by rwa [received_record]))
  · obtain ⟨t, hexec, hrest, hans, hrecord⟩ := exec_rollFlag_held h hn hheld
    have hown := (hrecord i).trans (modifyRecord_flagged i p set clear s)
    have hflags : (t.record i).flags = setFlags p set clear (s.record i).flags := by rw [hown]
    refine ⟨t, hexec, hrest, hans, fun j hj => ?_, fun b hb => ?_, ?_⟩
    · rw [hrecord, modifyRecord_other _ _ _ _ (Ne.symm hj)]
    · rw [hflags, setFlags_getLsbD p set clear _ hb]
    · rw [hflags]
      exact hown

end Sys2Proof.Reporting

/-! ## Shade batches: the accumulators of a failed cut and the classification of a roll (R140 to R144) -/

namespace Sys2Proof.Batching

open Sys2Proof.Machine Sys2Proof.Safety Sys2Proof.Starting Sys2Proof.Reporting

/-! ### The accumulators of a failed cut's two records (R140) -/

theorem combine_within {old plan : Accumulator} (h : old.n + plan.n ≤ 65535) :
    old.combine plan =
      ({ n := old.n + plan.n, sum := old.sum.add plan.sum, range := joinRange old.range plan.range }, 0) :=
  if_neg (by rw [max16]; omega)

theorem combine_beyond {old plan : Accumulator} (h : 65535 < old.n + plan.n) : old.combine plan = (old, plan.n) :=
  if_pos h

theorem joinRange_none_right (x : Option ShadeRange) : joinRange x none = x := by cases x <;> rfl

/-- A field other than the revision count is what the change makes of it (R111). -/
theorem modifyRecord_field {α : Type} (field : RollRecord → α) (i : Fin 24) (f : RollRecord → RollRecord)
    (s : State) (hfield : ∀ r n, field { r with revision := n } = field r) :
    field ((modifyRecord i f s).record i) = field (f (s.record i)) := by
  rw [modifyRecord_same]
  split
  · rename_i h; rw [h]
  · exact hfield ..

theorem freeRecord_same (j : Fin 24) (s : State) : ((freeRecord j s).record j).state = .free := by
  rw [freeRecord, evalHolds_record]
  exact modifyRecord_field RollRecord.state j _ s fun _ _ => rfl

theorem freeRecord_other {i j : Fin 24} (h : i ≠ j) (s : State) : (freeRecord j s).record i = s.record i := by
  rw [freeRecord, evalHolds_record, modifyRecord_other j i _ s h.symm]

theorem freeRecord_shade (j : Fin 24) (s : State) : (freeRecord j s).shade = s.shade := by
  rw [freeRecord, evalHolds_eq, modifyRecord_eq]

theorem modifyRecord_shade (i : Fin 24) (f : RollRecord → RollRecord) (s : State) :
    (modifyRecord i f s).shade = s.shade := by
  rw [modifyRecord_eq]

/-- The shade part of what a merge leaves: the two accumulators combined, the flags combined, the samples that are not
combined counted as waste, and the plan's record free. -/
structure Merged (i j : Fin 24) (s t : State) : Prop where
  freed : (t.record j).state = .free
  thin : (t.record i).thinSampling = ((s.record i).thinSampling || (s.record j).thinSampling)
  accumulator : (t.record i).shade = ((s.record i).shade.combine (s.record j).shade).1
  waste : t.shade.wasteSamples =
    min 4294967295 (s.shade.wasteSamples + ((s.record i).shade.combine (s.record j).shade).2)

theorem mergePlan_merged {i j : Fin 24} {p : Plan} (s : State) (hij : i ≠ j) (hp : p.record = some j) :
    Merged i j s (mergePlan i p s) := by
  rw [mergePlan, hp]
  have hrecord (k : Fin 24) (n : Nat) (u : State) : (wasteSamples n u).record k = u.record k := rfl
  have hfield {α : Type} (field : RollRecord → α) (h : ∀ r n, field { r with revision := n } = field r) :=
    modifyRecord_field field i (fun r => mergeRecord r (s.record j)) s h
  refine ⟨freeRecord_same j _, ?_, ?_, ?_⟩
  · rw [freeRecord_other hij, hrecord]
    exact hfield RollRecord.thinSampling fun _ _ => rfl
  · rw [freeRecord_other hij, hrecord]
    exact hfield RollRecord.shade fun _ _ => rfl
  · rw [freeRecord_shade]
    simp only [wasteSamples, modifyRecord_shade]
    rfl

/-- Settles O37: the merge leaves the combined accumulator, which is read off on either side of the sample limit. -/
theorem accumulatorsCombine : Obligations.AccumulatorsCombine := by
  intro i j p s hij hp
  obtain ⟨hfree, hthin, hacc, hwaste⟩ := mergePlan_merged s hij hp
  refine ⟨hfree, hthin, fun hwithin => ?_, fun hbeyond => ?_⟩
  · rw [combine_within hwithin] at hacc hwaste
    rw [hacc]
    refine ⟨hwaste, rfl, rfl, fun hi => ?_, fun hj => ?_, fun x y hx hy => ?_⟩
    · show joinRange _ _ = _
      rw [hi, joinRange]
    · show joinRange _ _ = _
      rw [hj, joinRange_none_right]
    · show joinRange _ _ = _
      rw [hx, hy]
      rfl
  · rw [combine_beyond hbeyond] at hacc hwaste
    exact ⟨hacc, hwaste⟩

/-! ### The least of a list -/

theorem leastBy_eq_none {α : Type} {key : α → Nat} {xs : List α} : leastBy key xs = none ↔ xs = [] := by
  cases xs with
  | nil => simp [leastBy]
  | cons x xs =>
    simp only [leastBy]
    split
    · simp
    · split <;> simp

/-- In a list sorted by `rank`, what is found has the least key, and of equal keys the least rank. -/
theorem leastBy_least {α : Type} {key rank : α → Nat} {xs : List α} {x : α}
    (hsorted : xs.Pairwise (fun y z => rank y ≤ rank z)) (h : leastBy key xs = some x) :
    x ∈ xs ∧ ∀ y ∈ xs, key x < key y ∨ key x = key y ∧ rank x ≤ rank y := by
  induction xs generalizing x with
  | nil => cases h
  | cons z zs ih =>
    obtain ⟨hz, hzs⟩ := List.pairwise_cons.1 hsorted
    rw [leastBy] at h
    cases hl : leastBy key zs with
    | none =>
      obtain rfl := leastBy_eq_none.1 hl
      obtain rfl : z = x := by simpa [leastBy] using h
      simp
    | some w =>
      obtain ⟨hw, hleast⟩ := ih hzs hl
      simp only [hl] at h
      split at h <;> rename_i hkey <;> cases h
      · refine ⟨List.mem_cons_self, List.forall_mem_cons.2 ⟨.inr ⟨rfl, le_rfl⟩, fun y hy => ?_⟩⟩
        have := hleast y hy
        have := hz y hy
        omega
      · exact ⟨List.mem_cons_of_mem _ hw, List.forall_mem_cons.2 ⟨.inl (by omega), hleast⟩⟩

/-! ### The nearest batch (R143) -/

/-- A batch is the nearest of a table: OPEN, at the least distance of the OPEN batches, and of several at that distance
the lowest-numbered (R143). -/
structure IsNearest (dist : Batch → Int) (bs : List Batch) (b : Batch) : Prop where
  mem : b ∈ bs
  isOpen : b.isClosed = false
  least : ∀ x ∈ bs, x.isClosed = false → dist b < dist x ∨ (dist b = dist x ∧ b.number ≤ x.number)

/-- In a table ascending by number, a number is that of one batch. -/
theorem batch_eq_of_number {bs : List Batch} (hasc : bs.Pairwise (fun x y => x.number < y.number)) {b x : Batch}
    (hb : b ∈ bs) (hx : x ∈ bs) (h : x.number = b.number) : x = b :=
  List.inj_on_of_nodup_map (List.pairwise_map.2 (hasc.imp Nat.ne_of_lt)) hx hb h

theorem IsNearest.unique {dist : Batch → Int} {bs : List Batch} {b x : Batch}
    (hasc : bs.Pairwise (fun x y => x.number < y.number)) (hb : IsNearest dist bs b) (hx : IsNearest dist bs x) :
    x = b := by
  refine batch_eq_of_number hasc hb.mem hx.mem ?_
  have := hb.least x hx.mem hx.isOpen
  have := hx.least b hb.mem hb.isOpen
  omega

theorem shadeDistance_nonneg {r : Recipe} (hl : 0 ≤ r.weightL) (hc : 0 ≤ r.weightC) (x y : Shade) :
    0 ≤ shadeDistance r x y := by
  have hmag (v : Int) : 0 ≤ mag v := by unfold mag; split <;> omega
  have hsum := Int.add_nonneg (hmag (x.a - y.a)) (hmag (x.b - y.b))
  exact Int.ediv_nonneg (Int.add_nonneg (Int.mul_nonneg hl (hmag _)) (Int.mul_nonneg hc hsum)) (by decide)

theorem mem_candidates {r : Recipe} {mean : Shade} {bs : List Batch} {c : Batch × Int} :
    c ∈ candidates r mean bs ↔
      c.1 ∈ bs ∧ c.1.isClosed = false ∧ c.2 = shadeDistance r mean c.1.reference := by
  obtain ⟨b, d⟩ := c
  simp only [candidates, List.mem_map, List.mem_filter, Bool.not_eq_true', Prod.mk.injEq]
  constructor
  · rintro ⟨x, ⟨hx, hopen⟩, rfl, rfl⟩
    exact ⟨hx, hopen, rfl⟩
  · rintro ⟨hb, hopen, rfl⟩
    exact ⟨b, ⟨hb, hopen⟩, rfl, rfl⟩

theorem nearest_none {r : Recipe} {mean : Shade} {bs : List Batch} (h : nearest r mean bs = none) :
    ∀ b ∈ bs, b.isClosed = true := by
  intro b hb
  by_contra hopen
  have hmem : (b, shadeDistance r mean b.reference) ∈ candidates r mean bs :=
    mem_candidates.2 ⟨hb, by simpa using hopen, rfl⟩
  rw [leastBy_eq_none.1 h] at hmem
  cases hmem

section
variable {r : Recipe} {mean : Shade} {bs : List Batch}

theorem nearest_isNearest (hl : 0 ≤ r.weightL) (hc : 0 ≤ r.weightC)
    (hasc : bs.Pairwise (fun x y => x.number < y.number)) {b : Batch} {d : Int}
    (h : nearest r mean bs = some (b, d)) :
    IsNearest (fun x => shadeDistance r mean x.reference) bs b ∧ d = shadeDistance r mean b.reference := by
  have hsorted : (candidates r mean bs).Pairwise (fun x y => x.1.number ≤ y.1.number) :=
    List.pairwise_map.2 ((hasc.filter _).imp Nat.le_of_lt)
  obtain ⟨hmem, hleast⟩ := leastBy_least (rank := fun x => x.1.number) hsorted h
  obtain ⟨hb, hopen, hd⟩ := mem_candidates.1 hmem
  refine ⟨⟨hb, hopen, fun x hx hxopen => ?_⟩, hd⟩
  have hx := hleast (x, shadeDistance r mean x.reference) (mem_candidates.2 ⟨hx, hxopen, rfl⟩)
  have := shadeDistance_nonneg hl hc mean b.reference
  have := shadeDistance_nonneg hl hc mean x.reference
  dsimp only at hd hx ⊢
  omega

theorem nearest_of_isNearest (hl : 0 ≤ r.weightL) (hc : 0 ≤ r.weightC)
    (hasc : bs.Pairwise (fun x y => x.number < y.number)) {b : Batch}
    (h : IsNearest (fun x => shadeDistance r mean x.reference) bs b) :
    nearest r mean bs = some (b, shadeDistance r mean b.reference) := by
  cases hn : nearest r mean bs with
  | none => exact absurd (nearest_none hn b h.mem) (by simp [h.isOpen])
  | some c =>
    obtain ⟨hc, hd⟩ := nearest_isNearest hl hc hasc hn
    obtain rfl := IsNearest.unique hasc h hc
    rw [← hd]

end

/-! ### Saving a changed batch (R149) -/

/-- A batch table with the save state of batch `k` replaced. -/
def resaved (k : Nat) (save : SaveState) (bs : List Batch) : List Batch :=
  bs.map (fun x => if x.number = k then { x with save := save } else x)

theorem modifyBatch_save (k : Nat) (save : SaveState) (s : State) :
    (modifyBatch k (fun b => { b with save := save }) s).shade.batches = resaved k save s.shade.batches := rfl

theorem resaved_resaved (k : Nat) (x y : SaveState) (bs : List Batch) :
    resaved k y (resaved k x bs) = resaved k y bs := by
  rw [resaved, resaved, List.map_map]
  refine List.map_congr_left fun b _ => ?_
  by_cases h : b.number = k <;> simp [h]

theorem resaved_same {k : Nat} {save : SaveState} {bs : List Batch} (h : ∀ x ∈ bs, x.number = k → x.save = save) :
    resaved k save bs = bs := by
  refine (List.map_congr_left fun x hx => ?_).trans (List.map_id bs)
  split
  · rename_i hk
    rw [← h x hx hk]
    rfl
  · rfl

/-- What the start of a BATCH_WRITE makes of a QUEUED batch: it is WRITING, or QUEUED still (R150). -/
theorem startHead_batchWrite_resaved {n : Fin 4} {k : Nat} {s : State} {bs : List Batch}
    (h : s.shade.batches = resaved k .queued bs) :
    ∃ save ≠ SaveState.saved, (startHead (.batchWrite n k) s).shade.batches = resaved k save bs := by
  simp only [startHead]
  split
  · refine ⟨.writing, by decide, ?_⟩
    show List.map _ s.shade.batches = _
    rw [h, resaved, List.map_map]
    refine List.map_congr_left fun b _ => ?_
    by_cases hb : b.number = k <;> simp [hb]
  · exact ⟨.queued, by decide, h⟩

theorem writableSlot_not_degraded {s : State} {n : Fin 4} (h : writableSlot s = some n) :
    (s.dir n).state ≠ .degraded := by
  unfold writableSlot at h
  split at h
  · split at h
    · cases h
    · rename_i hd
      cases h
      exact fun hn => hd (.inl hn)
  · cases h

/-- A write queued into an empty queue becomes its head at once: it starts, or waits for STORE_EN (R167, R168). -/
theorem enqueue_batchWrite_empty {n : Fin 4} {k : Nat} {s : State} (hslot : (s.dir n).state ≠ .degraded)
    (hq : s.store.queue = []) :
    enqueue (.batchWrite n k) s =
      if s.store.enabled then startHead (.batchWrite n k) (sampleEnable (pushOp (.batchWrite n k) s))
      else ({ sampleEnable (pushOp (.batchWrite n k) s) with
        store := { (sampleEnable (pushOp (.batchWrite n k) s)).store with head := .waiting } }).raiseAll .store := by
  have htarget : targetDegraded (.batchWrite n k) (pushOp (.batchWrite n k) s) = false := beq_eq_false_iff_ne.2 hslot
  have hqueue : (pushOp (.batchWrite n k) s).store.queue = [.batchWrite n k] := by simp [pushOp, hq]
  rw [enqueue, hq, List.isEmpty_nil, if_pos rfl, show headFuel = 63 + 1 from rfl, dealHead]
  simp only [hqueue, StoreOp.isRead, htarget, appendIsFull, Bool.false_eq_true, if_false]
  rfl

theorem enqueue_batchWrite_resaved {n : Fin 4} {k : Nat} {s : State} {bs : List Batch}
    (hslot : (s.dir n).state ≠ .degraded) (h : s.shade.batches = resaved k .queued bs) :
    ∃ save ≠ SaveState.saved, (enqueue (.batchWrite n k) s).shade.batches = resaved k save bs := by
  by_cases hq : s.store.queue = []
  · rw [enqueue_batchWrite_empty hslot hq]
    split
    · exact startHead_batchWrite_resaved h
    · exact ⟨.queued, by decide, h⟩
  · rw [enqueue, if_neg (by simpa using hq)]
    exact ⟨.queued, by decide, h⟩

/-- A change to a batch of the table leaves it not SAVED, and nothing else of the table changes (R149). -/
theorem saveBatch_resaved {b : Batch} {s : State} (hb : b ∈ s.shade.batches)
    (hone : ∀ x ∈ s.shade.batches, x.number = b.number → x = b) :
    ∃ save ≠ SaveState.saved,
      (saveBatch b.number s).shade.batches = resaved b.number save s.shade.batches := by
  have hfind : s.batch b.number = some b := by
    cases hf : s.batch b.number with
    | none => exact absurd (List.find?_eq_none.1 hf b hb) (by simp)
    | some x =>
      rw [hone x (List.mem_of_find?_eq_some hf) (by simpa using List.find?_some hf)]
  simp only [saveBatch, hfind]
  split
  · rename_i hqueued
    refine ⟨.queued, by decide, (resaved_same fun x hx hnum => ?_).symm⟩
    rw [hone x hx hnum, hqueued]
  · split
    · rename_i n hslot
      split
      · refine enqueue_batchWrite_resaved ?_ ?_
        · exact writableSlot_not_degraded (s := modifyBatch b.number (fun b => { b with save := .unsaved }) s) hslot
        · rw [modifyBatch_save, modifyBatch_save, resaved_resaved]
      · exact ⟨.unsaved, by decide, rfl⟩
    · exact ⟨.unsaved, by decide, rfl⟩

/-! ### The result in the record (R141 to R144) -/

/-- The classification that a record holds. -/
structure ResultWritten (i : Fin 24) (x : ShadeResult) (batch : Option Nat) (low : Bool) (t : State) : Prop where
  result : (t.record i).result = some x
  batch : (t.record i).batch = batch
  low : (t.record i).lowConfidence = low

section
variable {i : Fin 24} {x : ShadeResult} {batch : Option Nat} {low : Bool} {s t : State}

theorem ResultWritten.of_record (h : ResultWritten i x batch low s) (ht : t.record i = s.record i) :
    ResultWritten i x batch low t := by
  obtain ⟨hresult, hbatch, hlow⟩ := h
  exact ⟨ht ▸ hresult, ht ▸ hbatch, ht ▸ hlow⟩

theorem writeResult_written : ResultWritten i x batch low (writeResult i x batch low s) := by
  have h := modifyRecord_parts i (fun r => { r with result := some x, batch := batch, lowConfidence := low }) s
    fun _ _ => rfl
  exact ⟨congrArg RollRecord.result h, congrArg RollRecord.batch h, congrArg RollRecord.lowConfidence h⟩

theorem writeResult_shade : (writeResult i x batch low s).shade = s.shade := modifyRecord_shade ..

theorem writeResult_line : (writeResult i x batch low s).line = s.line := by rw [writeResult, modifyRecord_eq]

theorem writeResult_saleNumber :
    ((writeResult i x batch low s).record i).saleNumber = (s.record i).saleNumber := (keptBy_write i x batch low s).1

end

theorem assignBatch_record (i : Fin 24) (b : Batch) (s : State) : (assignBatch i b s).record i = s.record i :=
  saveBatch_record ..

theorem foundBatch_record (i : Fin 24) (mean : Shade) (s : State) : (foundBatch i mean s).record i = s.record i :=
  saveBatch_record ..

/-! ### Assignment and founding (R143, R144) -/

/-- A change to one batch of the table leaves it changed and not SAVED, and every other batch as it was (R149). -/
theorem saveBatch_modified {b : Batch} {s : State} (f : Batch → Batch) (hf : ∀ x, (f x).number = x.number)
    (hb : b ∈ s.shade.batches) (hasc : s.shade.batches.Pairwise (fun x y => x.number < y.number)) :
    ∃ save ≠ SaveState.saved, (saveBatch b.number (modifyBatch b.number f s)).shade.batches =
      s.shade.batches.map (fun x => if x.number = b.number then { f x with save := save } else x) := by
  obtain ⟨save, hsave, heq⟩ := saveBatch_resaved (b := f b) (s := modifyBatch b.number f s)
    (List.mem_map.2 ⟨b, hb, if_pos rfl⟩) (fun y hy hnum => by
      obtain ⟨x, hx, rfl⟩ := List.mem_map.1 hy
      rw [hf] at hnum
      split at hnum
      · rename_i hxb
        rw [if_pos hxb, batch_eq_of_number hasc hb hx hxb]
      · rename_i hxb
        exact absurd hnum hxb)
  rw [hf] at heq
  refine ⟨save, hsave, heq.trans ?_⟩
  show List.map _ (List.map _ _) = _
  rw [List.map_map]
  refine List.map_congr_left fun x _ => ?_
  by_cases hx : x.number = b.number <;> simp [hx, hf]

/-- The batch counts the roll that it takes, and is not SAVED (R143, R149). -/
theorem assignBatch_batches (i : Fin 24) {b : Batch} {s : State} (hb : b ∈ s.shade.batches)
    (hasc : s.shade.batches.Pairwise (fun x y => x.number < y.number)) :
    ∃ save ≠ SaveState.saved, (assignBatch i b s).shade.batches = s.shade.batches.map (fun x =>
      if x.number = b.number then
        { x with rolls := min 65535 (x.rolls + 1), lastRoll := (s.record i).saleNumber.getD 0, save := save }
      else x) := by
  simp only [← bump_max16]
  exact saveBatch_modified _ (fun _ => rfl) hb hasc

theorem pending_raise (p : Port) (n : Notice) (s : State) : Pending p n (s.raise p n) := by
  simp only [Pending, port_eq, raise_ports, ports_get_set, if_true]
  ext k
  simp
  tauto

theorem pending_of_onlyNotices {p : Port} {n : Notice} {s t : State} (h : OnlyNotices s t) (hp : Pending p n s) :
    Pending p n t := by
  obtain ⟨raised, hraised⟩ := h
  rw [Pending, hraised p]
  exact has_both_left (x := fun q => (s.port q).pending) (n := n) (q := p) hp raised

/-- A batch of a new number that joins the end of the table is not SAVED, and the notice raised with it stays in the
pending set (R149). -/
theorem saveBatch_joined {b : Batch} {s : State} (p : Port) (n : Notice)
    (hnew : ∀ x ∈ s.shade.batches, x.number ≠ b.number) :
    ∃ save ≠ SaveState.saved,
      Pending p n
        (saveBatch b.number ({ s with shade := { s.shade with batches := s.shade.batches ++ [b] } }.raise p n)) ∧
      (saveBatch b.number
        ({ s with shade := { s.shade with batches := s.shade.batches ++ [b] } }.raise p n)).shade.batches =
          s.shade.batches ++ [{ b with save := save }] := by
  obtain ⟨save, hsave, heq⟩ := saveBatch_resaved (b := b)
    (s := { s with shade := { s.shade with batches := s.shade.batches ++ [b] } }.raise p n)
    (List.mem_append_right _ List.mem_cons_self) (fun x hx hxb => by
      rcases List.mem_append.1 hx with hx | hx
      · exact absurd hxb (hnew x hx)
      · exact List.mem_singleton.1 hx)
  refine ⟨save, hsave, pending_of_onlyNotices (consequent_saveBatch _ _).notices (pending_raise ..), heq.trans ?_⟩
  show resaved b.number save (s.shade.batches ++ [b]) = _
  rw [resaved, List.map_append]
  congr 1
  · refine (List.map_congr_left fun x hx => ?_).trans (List.map_id _)
    exact if_neg (hnew x hx)
  · simp

/-- A founded batch takes the next number, is not SAVED, and raises BATCH on port Q (R144, R149). -/
theorem foundBatch_batches (i : Fin 24) (mean : Shade) {s : State}
    (hnum : ∀ b ∈ s.shade.batches, b.number ≤ s.shade.batches.length) :
    ∃ save ≠ SaveState.saved, Pending .quality .batch (foundBatch i mean s) ∧
      (foundBatch i mean s).shade.batches = s.shade.batches ++
        [{ foundedBatch (s.shade.batches.length + 1) mean ((s.record i).saleNumber.getD 0) (s.line.run.getD 0) with
          save := save }] :=
  saveBatch_joined .quality .batch fun x hx => Nat.ne_of_lt (Nat.lt_succ_of_le (hnum x hx))

section
variable {i : Fin 24} {x : ShadeResult} {batch : Option Nat} {low : Bool} {s : State}

/-- The result in the roll's record changes neither what the batch counts nor its save state. -/
theorem assignBatch_writeResult {b : Batch} (hb : b ∈ s.shade.batches)
    (hasc : s.shade.batches.Pairwise (fun x y => x.number < y.number)) :
    ∃ save ≠ SaveState.saved, (assignBatch i b (writeResult i x batch low s)).shade.batches =
      s.shade.batches.map (fun x =>
        if x.number = b.number then
          { x with rolls := min 65535 (x.rolls + 1), lastRoll := (s.record i).saleNumber.getD 0, save := save }
        else x) := by
  have h := assignBatch_batches i (b := b) (s := writeResult i x batch low s)
  rw [writeResult_shade, writeResult_saleNumber] at h
  exact h hb hasc

/-- The result in the roll's record changes neither the founded batch nor its notice. -/
theorem foundBatch_writeResult {mean : Shade}
    (hnum : ∀ b ∈ s.shade.batches, b.number ≤ s.shade.batches.length) :
    ∃ save ≠ SaveState.saved, Pending .quality .batch (foundBatch i mean (writeResult i x batch low s)) ∧
      (foundBatch i mean (writeResult i x batch low s)).shade.batches = s.shade.batches ++
        [{ foundedBatch (s.shade.batches.length + 1) mean ((s.record i).saleNumber.getD 0) (s.line.run.getD 0) with
          save := save }] := by
  have h := foundBatch_batches i mean (s := writeResult i x batch low s)
  rw [writeResult_shade, writeResult_saleNumber, writeResult_line] at h
  exact h hnum

end

/-! ### Classification (R141 to R144) -/

section
variable {i : Fin 24} {s : State}

theorem classify_empty (hn : (s.record i).shade.n = 0) :
    classify i s = writeResult i ⟨none, none, .unclassed, none⟩ none false s := if_pos hn

theorem classify_shaded (hn : 0 < (s.record i).shade.n)
    (hspread : s.recipe.uniformityLimit < (s.record i).shade.spread) :
    classify i s = writeResult i
      ⟨some (s.record i).shade.mean, some (s.record i).shade.spread, .shaded, none⟩ none false s :=
  (if_neg hn.ne').trans (if_pos hspread)

theorem classify_within (hn : 0 < (s.record i).shade.n)
    (hspread : (s.record i).shade.spread ≤ s.recipe.uniformityLimit) :
    classify i s = matchBatches i (s.record i).shade.mean (s.record i).shade.spread s :=
  (if_neg hn.ne').trans (if_neg (Int.not_lt.2 hspread))

end

section
variable (i : Fin 24) (mean : Shade) (spread : Int) (distance : Option Int) (low : Bool) {s : State}

theorem foundOrUnclassed_founded (hroom : s.shade.batches.length < 16)
    (hmin : s.recipe.foundingMinimum ≤ (s.record i).shade.n) :
    foundOrUnclassed i mean spread distance low s = foundBatch i mean
      (writeResult i ⟨some mean, some spread, .founded, distance⟩ (some (s.shade.batches.length + 1)) low s) :=
  if_pos ⟨hroom, hmin⟩

theorem foundOrUnclassed_unclassed
    (h : 16 ≤ s.shade.batches.length ∨ ((s.record i).shade.n : Int) < s.recipe.foundingMinimum) :
    foundOrUnclassed i mean spread distance low s =
      writeResult i ⟨some mean, some spread, .unclassed, distance⟩ none low s :=
  if_neg (by omega)

theorem foundOrUnclassed_written : ∃ x batch, x.verdict ≠ .shaded ∧
    ResultWritten i x batch low (foundOrUnclassed i mean spread distance low s) := by
  unfold foundOrUnclassed
  split
  · exact ⟨_, _, by simp, writeResult_written.of_record (foundBatch_record ..)⟩
  · exact ⟨_, _, by simp, writeResult_written⟩

theorem matchBatches_taken {b : Batch} {d : Int} (hnear : nearest s.recipe mean s.shade.batches = some (b, d))
    (hd : d ≤ s.recipe.shadeTolerance) :
    matchBatches i mean spread s = assignBatch i b
      (writeResult i ⟨some mean, some spread, .assigned, some d⟩ (some b.number)
        (decide (((s.record i).shade.n : Int) < s.recipe.confidenceMinimum)) s) := by
  simp only [matchBatches, hnear, if_pos hd]

theorem matchBatches_untaken
    (h : ∀ b d, nearest s.recipe mean s.shade.batches = some (b, d) → s.recipe.shadeTolerance < d) :
    matchBatches i mean spread s =
      foundOrUnclassed i mean spread ((nearest s.recipe mean s.shade.batches).map Prod.snd)
        (decide (((s.record i).shade.n : Int) < s.recipe.confidenceMinimum)) s := by
  unfold matchBatches
  dsimp only
  split
  · rename_i b d hnear
    rw [if_neg (Int.not_le.2 (h b d hnear)), hnear, Option.map_some]
  · rename_i hnear
    rw [hnear, Option.map_none]

/-- A roll within the limit is not SHADED, and its confidence is low when its samples are too few (R142). -/
theorem matchBatches_written : ∃ x batch, x.verdict ≠ .shaded ∧
    ResultWritten i x batch (decide (((s.record i).shade.n : Int) < s.recipe.confidenceMinimum))
      (matchBatches i mean spread s) := by
  unfold matchBatches
  dsimp only
  split
  · split
    · exact ⟨_, _, by simp, writeResult_written.of_record (assignBatch_record ..)⟩
    · exact foundOrUnclassed_written ..
  · exact foundOrUnclassed_written ..

end

section
variable {i : Fin 24} {s : State}

/-- The verdict by spread alone (R142). -/
theorem classify_by_spread (hn : 0 < (s.record i).shade.n) :
    (s.recipe.uniformityLimit < (s.record i).shade.spread →
      ResultWritten i ⟨some (s.record i).shade.mean, some (s.record i).shade.spread, .shaded, none⟩ none false
        (classify i s) ∧
      classify i s = { s with roll := { s.roll with records := (classify i s).roll.records } }) ∧
    ((s.record i).shade.spread ≤ s.recipe.uniformityLimit → ∃ x batch, x.verdict ≠ .shaded ∧
      ResultWritten i x batch (decide (((s.record i).shade.n : Int) < s.recipe.confidenceMinimum))
        (classify i s)) := by
  refine ⟨fun hspread => ?_, fun hspread => ?_⟩
  · rw [classify_shaded hn hspread]
    exact ⟨writeResult_written, modifyRecord_eq ..⟩
  · rw [classify_within hn hspread]
    exact matchBatches_written ..

variable (hn : 0 < (s.record i).shade.n) (hspread : (s.record i).shade.spread ≤ s.recipe.uniformityLimit)
include hn hspread

/-- The nearest batch takes a roll that lies within the tolerance of it (R143). -/
theorem classify_assigned {b : Batch} {d : Int}
    (hnear : nearest s.recipe (s.record i).shade.mean s.shade.batches = some (b, d))
    (hd : d ≤ s.recipe.shadeTolerance) (hb : b ∈ s.shade.batches)
    (hasc : s.shade.batches.Pairwise (fun x y => x.number < y.number)) :
    (∃ low, ResultWritten i ⟨some (s.record i).shade.mean, some (s.record i).shade.spread, .assigned, some d⟩
      (some b.number) low (classify i s)) ∧
    ∃ save ≠ SaveState.saved, (classify i s).shade.batches = s.shade.batches.map (fun x =>
      if x.number = b.number then
        { x with rolls := min 65535 (x.rolls + 1), lastRoll := (s.record i).saleNumber.getD 0, save := save }
      else x) := by
  rw [classify_within hn hspread, matchBatches_taken _ _ _ hnear hd]
  exact ⟨⟨_, writeResult_written.of_record (assignBatch_record ..)⟩, assignBatch_writeResult hb hasc⟩

variable (hfar : ∀ b d, nearest s.recipe (s.record i).shade.mean s.shade.batches = some (b, d) →
  s.recipe.shadeTolerance < d)
include hfar

/-- A roll of enough samples that no batch takes founds one (R144). -/
theorem classify_founded (hroom : s.shade.batches.length < 16)
    (hmin : s.recipe.foundingMinimum ≤ (s.record i).shade.n)
    (hnum : ∀ b ∈ s.shade.batches, b.number ≤ s.shade.batches.length) :
    (∃ low, ResultWritten i
      ⟨some (s.record i).shade.mean, some (s.record i).shade.spread, .founded,
        (nearest s.recipe (s.record i).shade.mean s.shade.batches).map Prod.snd⟩
      (some (s.shade.batches.length + 1)) low (classify i s)) ∧
    ∃ save ≠ SaveState.saved, Pending .quality .batch (classify i s) ∧
      (classify i s).shade.batches = s.shade.batches ++
        [{ foundedBatch (s.shade.batches.length + 1) (s.record i).shade.mean ((s.record i).saleNumber.getD 0)
            (s.line.run.getD 0) with save := save }] := by
  rw [classify_within hn hspread, matchBatches_untaken _ _ _ hfar, foundOrUnclassed_founded _ _ _ _ _ hroom hmin]
  exact ⟨⟨_, writeResult_written.of_record (foundBatch_record ..)⟩, foundBatch_writeResult hnum⟩

/-- Any other roll that no batch takes is UNCLASSED, and the table is as it was (R144). -/
theorem classify_unclassed
    (h : 16 ≤ s.shade.batches.length ∨ ((s.record i).shade.n : Int) < s.recipe.foundingMinimum) :
    (∃ low, ResultWritten i
      ⟨some (s.record i).shade.mean, some (s.record i).shade.spread, .unclassed,
        (nearest s.recipe (s.record i).shade.mean s.shade.batches).map Prod.snd⟩ none low (classify i s)) ∧
    (classify i s).shade = s.shade := by
  rw [classify_within hn hspread, matchBatches_untaken _ _ _ hfar, foundOrUnclassed_unclassed _ _ _ _ _ h]
  exact ⟨⟨_, writeResult_written⟩, writeResult_shade⟩

end

/-- Settles O36: the branches of the classification, with the nearest batch the one that the statement describes. -/
theorem spreadClassified : Obligations.SpreadClassified := by
  refine ⟨fun i s hn => ⟨fun hspread => ?_, fun hspread => ?_⟩, ?_⟩
  · obtain ⟨hw, hrest⟩ := (classify_by_spread hn).1 hspread
    exact ⟨_, rfl, ⟨_, _, hw.result⟩, hw.batch, hw.low, hrest⟩
  · obtain ⟨x, batch, hx, hw⟩ := (classify_by_spread hn).2 hspread
    refine ⟨_, x, rfl, hw.result, hx, hw.low, fun hmin => ?_⟩
    rw [hw.low, hmin]
    simp
  · rintro i s _ _ _ rfl rfl rfl hl hc hasc hnum
    refine ⟨fun hn => ?_, fun hn hspread => ⟨fun b hb hopen hd hleast => ?_, fun hfar d hclosed hnearest => ?_⟩⟩
    · rw [classify_empty hn]
      exact ⟨_, rfl, writeResult_written.result, writeResult_written.batch, writeResult_written.low,
        writeResult_shade⟩
    · have hnear := nearest_of_isNearest hl hc hasc ⟨hb, hopen, hleast⟩
      obtain ⟨⟨low, hw⟩, save, hsave, hbatches⟩ := classify_assigned hn hspread hnear hd hb hasc
      exact ⟨_, save, rfl, hw.result, hw.batch, hsave, hbatches⟩
    · have hfar' : ∀ b d, nearest s.recipe (s.record i).shade.mean s.shade.batches = some (b, d) →
          s.recipe.shadeTolerance < d := fun b d hnear => by
        obtain ⟨hb, rfl⟩ := nearest_isNearest hl hc hasc hnear
        exact hfar b hb.mem hb.isOpen
      obtain rfl : d = (nearest s.recipe (s.record i).shade.mean s.shade.batches).map Prod.snd := by
        cases hnear : nearest s.recipe (s.record i).shade.mean s.shade.batches with
        | none => exact hclosed (nearest_none hnear)
        | some c =>
          obtain ⟨hb, hd⟩ := nearest_isNearest hl hc hasc hnear
          rw [Option.map_some, hd]
          exact hnearest _ hb.mem hb.isOpen fun x hx hxopen => (hb.least x hx hxopen).elim le_of_lt fun h => h.1.le
      refine ⟨fun hroom hmin => ?_, fun h => ?_⟩
      · obtain ⟨⟨low, hw⟩, save, hsave, hpending, hbatches⟩ :=
          classify_founded hn hspread hfar' hroom hmin hnum
        exact ⟨_, save, rfl, hw.result, hw.batch, hsave, hpending, hbatches⟩
      · obtain ⟨⟨low, hw⟩, hshade⟩ := classify_unclassed hn hspread hfar' h
        exact ⟨_, rfl, hw.result, hw.batch, hshade⟩

end Sys2Proof.Batching

/-! ## The machine as a whole: steps, resets and the web position (R1, R23, R169, R194) -/

namespace Sys2Proof.Whole

open Sys2Proof.Machine Sys2Proof.Safety

/-! ### Steps and resets -/

/-- Settles O1: the equations of a step on a waiting and on an empty queue. -/
theorem stepRunsFrontCommand : Obligations.StepRunsFrontCommand :=
  ⟨fun _ _ _ => rfl, fun s h => by simp [step, h]⟩

/-- Settles O2, channel by channel, record by record and port by port. -/
theorem resetValues : Obligations.ResetValues := by
  have records (i : Fin 24) : State.reset.record i = .freed 0 := table_get_replicate _ i
  have units (k : Fin 7) : State.reset.unit k = .initial := table_get_replicate _ k
  have channels (ch : Channel) : State.reset.channel ch = .initial := by
    cases ch
    case unit k => exact table_get_replicate _ k
    all_goals rfl
  have ports (p : Port) : State.reset.port p = .initial := by cases p <;> rfl
  have notices (p : Port) : State.reset.noticeOut p = true := by cases p <;> rfl
  refine ⟨rfl, rfl, rfl, ⟨rfl, rfl, rfl, rfl, rfl⟩, ⟨rfl, rfl, rfl, rfl, rfl, rfl, rfl, rfl⟩, fun ch => ?_, rfl,
    fun k => ?_, ⟨rfl, rfl⟩, ⟨rfl, rfl, rfl⟩, ⟨rfl, rfl, rfl⟩, fun i => ?_, ⟨rfl, rfl, rfl, rfl, rfl, rfl, rfl, rfl⟩,
    ⟨rfl, rfl, rfl, rfl⟩, ⟨rfl, rfl⟩, ⟨rfl, rfl⟩, fun p => ?_⟩
  · rw [channels]; exact ⟨rfl, rfl, rfl⟩
  · rw [units]; exact ⟨rfl, rfl, rfl⟩
  · rw [records]; exact ⟨rfl, rfl⟩
  · rw [ports]
    exact ⟨rfl, rfl, rfl, rfl, rfl, rfl, rfl, rfl, rfl, rfl, rfl, rfl, rfl, rfl, notices p⟩

/-- Settles O60: every list of the state after reset is empty, but for the one read in the store queue. -/
theorem resetWithinLimits : Obligations.ResetWithinLimits where
  fifos p := by cases p <;> exact Nat.zero_le _
  store := (by decide : 1 ≤ 8)
  map := ⟨Nat.zero_le _, .nil⟩
  lists := ⟨Nat.zero_le _, Nat.zero_le _, Nat.zero_le _, Nat.zero_le _, Nat.zero_le _⟩
  banks n := by
    have slot : State.reset.nv.slots.get n = { header := .blank, recipe := .blank, batches := [], journal := [] } :=
      table_get_replicate _ n
    rw [slot]
    exact ⟨rfl, rfl⟩
  web := ⟨Nat.zero_le _, Nat.zero_le _, Nat.zero_le _, Nat.zero_le _⟩

/-! ### The cold reset's interruption of the store (R169) -/

theorem set_get_self {α : Type} {n : Nat} (t : Table α n) (i : Fin n) : t.set i (t.get i) = t :=
  table_ext _ _ fun j => by
    rw [table_get_set]
    split
    · rename_i h; rw [h]
    · rfl

@[simp] theorem modifySlot_nv (n : Fin 4) (f : SlotContent → SlotContent) (s : State) :
    (modifySlot n f s).nv = { s.nv with slots := s.nv.slots.set n (f (s.nv.slots.get n)) } := rfl

@[simp] theorem useFresh_nv (s : State) : (useFresh s).nv = s.nv := rfl

/-- The cold reset interrupts no operation but the write or erase in progress. -/
theorem interruptStore_idle {s : State} (h : ∀ c, s.store.head ≠ .running c) : interruptStore s = s := by
  unfold interruptStore
  split <;> simp_all

theorem interruptStore_read {s : State} {op : StoreOp} {rest : List StoreOp} (hq : s.store.queue = op :: rest)
    (hr : op.isRead = true) : interruptStore s = s := by
  unfold interruptStore
  rw [hq]
  cases op <;> cases s.store.head <;> simp_all [StoreOp.isRead]

/-- Settles O3: the blocks are at their reset values by definition; the store's content is split by the operation that
the reset interrupts. -/
theorem coldReset : Obligations.ColdReset := by
  intro s
  refine ⟨resetPart s, rfl, rfl, fun h => ?_, fun c op rest _ hq hr => ?_, fun c n w rest hh hq => ?_,
    fun c n r rest hh hq => ?_, fun c g rest hh hq => ?_, fun c n k rest hh hq => ?_,
    fun c n i rest hh hq hb => ?_, fun c n rest hh hq => ?_⟩
  · simp [resetPart, interruptStore_idle h]
  · simp [resetPart, interruptStore_read hq hr]
  · simp [resetPart, interruptStore, hh, hq]
  · simp [resetPart, interruptStore, hh, hq]
  · simp [resetPart, interruptStore, hh, hq]
  · simp only [resetPart, interruptStore, hh, hq, modifySlot_nv, table_get_set, if_true]
    exact ⟨trivial, cellAt_setCell_same _ _ _, fun j hj => cellAt_setCell_other _ _ _ _ hj⟩
  · simp only [resetPart, interruptStore, hh, hq, hb, if_true, modifySlot_nv, table_get_set]
    exact ⟨trivial, cellAt_setCell_same _ _ _, fun j hj => cellAt_setCell_other _ _ _ _ hj⟩
  · simp only [resetPart, interruptStore, hh, hq, useFresh_nv, modifySlot_nv, table_get_set, if_true]
    exact ⟨trivial, fun m hm => if_neg (Ne.symm hm), partlyErased_records _ _⟩

/-- The first 64 words of the view space are the line status block (11, "Line status block"). -/
theorem viewWord_line (s : State) {n : Nat} (h : n < 64) :
    viewWord s (BitVec.ofNat 16 n) = (lineBlock s).getD n 0 := by
  have hn : (BitVec.ofNat 16 n).toNat = n := by rw [BitVec.toNat_ofNat]; omega
  have shown : imageWord n 0 64 (lineBlock s) = some ((lineBlock s).getD n 0) := by
    simp [imageWord, h, List.getD_eq_getElem?_getD]
  have below : ¬ 4096 ≤ n := by omega
  simp [viewWord, hn, shown, below]

/-- The nibbles of the four ports in one word (word 25 of the line status block). -/
def nibbleWord (s : State) : Word16 :=
  s.ports.quality.nibble ++ s.ports.winder.nibble ++ s.ports.emboss.nibble ++ s.ports.press.nibble

theorem empty_append_nibbles (a b c d : BitVec 4) :
    (0#0 ++ a ++ b ++ c ++ d : BitVec 16) = (a ++ b ++ c ++ d : BitVec 16) := by
  apply BitVec.eq_of_toNat_eq
  have h : (0#0 ++ a).toNat = a.toNat := by rw [BitVec.toNat_append]; simp
  calc (0#0 ++ a ++ b ++ c ++ d).toNat
      = (((0#0 ++ a).toNat <<< 4 ||| b.toNat) <<< 4 ||| c.toNat) <<< 4 ||| d.toNat := by
        rw [BitVec.toNat_append, BitVec.toNat_append, BitVec.toNat_append]
    _ = (a ++ b ++ c ++ d).toNat := by
        rw [h, BitVec.toNat_append, BitVec.toNat_append, BitVec.toNat_append]

theorem placesOf_length (count : Nat) (xs : List Int) : (placesOf count xs).length = count := by
  simp only [placesOf, List.length_take, List.length_append, List.length_replicate]
  omega

/-- Where the line state's code, the web position and the nibbles stand in the line status block. -/
theorem lineBlock_split (s : State) : ∃ before between after : List Word16,
    before.length = 4 ∧ between.length = 18 ∧
    lineBlock s = BitVec.ofNat 16 s.line.state.code :: (before ++ BitVec.ofNat 16 s.web.w ::
      BitVec.ofNat 16 (s.web.w / 65536) :: (between ++ nibbleWord s :: after)) := by
  refine ⟨word (lineFlags s) ++ word2 (s.line.order.getD 0)
      ++ word (s.line.run.getD 0 + 256 * slotNumber s.line.slot),
    word s.web.debt ++ word s.web.faults ++ word s.clock.state.code ++ word s.clock.phase
      ++ word2 s.clock.index ++ wordPos (s.clock.k0.getD 0) ++ wordInt (s.clock.stretch.getD 0)
      ++ word s.clock.measured.length ++ placesOf 8 s.clock.measured, ?_, rfl, ?_, ?_⟩
  rotate_left
  · simp only [List.length_append, placesOf_length]; rfl
  · have := empty_append_nibbles s.ports.quality.nibble s.ports.winder.nibble s.ports.emboss.nibble s.ports.press.nibble
    unfold lineBlock
    rw [this]
    simp only [List.append_assoc]
    rfl

theorem lineBlock_words (s : State) :
    (lineBlock s).getD 0 0 = BitVec.ofNat 16 s.line.state.code ∧
    (lineBlock s).getD 5 0 = BitVec.ofNat 16 s.web.w ∧
    (lineBlock s).getD 6 0 = BitVec.ofNat 16 (s.web.w / 65536) ∧
    (lineBlock s).getD 25 0 = nibbleWord s := by
  obtain ⟨before, between, after, hb, hm, h⟩ := lineBlock_split s
  rw [h]
  refine ⟨rfl, ?_, ?_, ?_⟩ <;>
    simp [List.getElem?_append_right, hb, hm]
/-- The word at address 0000h is the line state's code. -/
theorem viewWord_state (s : State) : viewWord s 0x0000#16 = BitVec.ofNat 16 s.line.state.code :=
  (viewWord_line s (n := 0) (by omega)).trans (lineBlock_words s).1

/-- Settles O4: the port reset writes its port alone, and a request in execution by what it waits for. -/
theorem portReset : Obligations.PortReset := by
  intro p s
  have own : (resetPort p s).port p = { s.port p with
      request := (s.port p).request.bind Executing.afterReset
      response := none, overrun := false, frame := false, pending := resetPending, toStation := false
      fifo := [], late := [], pointer := 0, prefetch := viewWord s 0, watch := none, purge := .nothing } := by
    simp [resetPort]
  have code : viewWord s 0 = BitVec.ofNat 16 s.line.state.code := viewWord_state s
  refine ⟨resetPort p s, rfl, rfl, fun q hq => ?_, ?_, fun h => ?_, fun c bytes result d h => ?_, fun c d h => ?_,
    fun c d h => ?_⟩
  · simp [resetPort, hq]
  · rw [own, ← code]; rfl
  all_goals rw [own, h]; rfl

/-! ### Pulses (R32, R121) -/

/-- Settles O8: each pulse end by whether its point is reached. -/
theorem pulsesEnd : Obligations.PulsesEnd := by
  intro s
  refine ⟨fun x hx hw => ?_, fun h => ?_, fun x hx hw => ?_, fun h => ?_⟩
  · simp [exec, execRpoPulseEnd, endPulse, pulseEndDue, hx, hw]
  · have : pulseEndDue s = false := by
      cases hx : s.clock.rpoEnd with
      | none => simp [pulseEndDue, hx]
      | some x => simpa [pulseEndDue, hx] using h x hx
    simp [exec, execRpoPulseEnd, endPulse, this]
  · simp [exec, execCutStrobeDeassert, strobeDeassert, hx, hw]
  · cases hx : s.roll.strobeOff with
    | none => simp [exec, execCutStrobeDeassert, strobeDeassert, hx]
    | some x => simp [exec, execCutStrobeDeassert, strobeDeassert, hx, h x hx]

/-! ### Grading (R130) -/

/-- The grade that a list of tests gives: REJECT with the first cause that applies. -/
def gradeFrom (tests : List (RejectCause × Bool)) : Grade :=
  match tests.find? (·.2) with
  | some (cause, _) => .reject cause
  | none => .first

theorem gradeOf_eq (k : Recipe) (r : RollRecord) : gradeOf k r = gradeFrom (rejectTests k r) := rfl

theorem gradeFrom_cons (cause : RejectCause) (applies : Bool) (tests : List (RejectCause × Bool)) :
    gradeFrom ((cause, applies) :: tests) = if applies then .reject cause else gradeFrom tests := by
  cases applies <;> rfl

/-- Settles O33: the list of R130 is searched front to back. -/
theorem gradeOrder : Obligations.GradeOrder := by
  intro k r
  have none_left : gradeFrom [] = .first := rfl
  simp only [gradeOf_eq, rejectTests, gradeFrom_cons, none_left, RollRecord.faultSum, RollRecord.verdict, beq_iff_eq,
    decide_eq_true_eq, Bool.or_eq_true, Nat.cast_add]

/-! ### The web position (R23) -/

/-- A forward step in which the web is not taken back. -/
theorem forwardStep_web_le (s : State) : s.web.w ≤ (forwardStep s).web.w := by
  unfold forwardStep advanceWeb
  dsimp only
  split
  · exact le_refl _
  · split
    · exact le_refl _
    · split <;> simp [modifyWeb]

/-- A request leaves the web as its own rule leaves it. -/
theorem takeRequest_web {r : Req} {p : Port} {args : List Byte} {body : State → State} {s : State}
    (h : ∀ t : State, (body t).web = t.web) : (takeRequest r p args body s).web = s.web := by
  unfold takeRequest
  dsimp only
  repeat' split
  all_goals simp [discardRequest, h]

/-- A request that the line state refuses leaves the web as it is, whatever its rule. -/
theorem takeRequest_web_of_state {r : Req} {p : Port} {args : List Byte} {body : State → State} {s : State}
    (h : s.line.state ∉ r.role.admitted) : (takeRequest r p args body s).web = s.web := by
  unfold takeRequest
  dsimp only
  repeat' split
  all_goals simp_all [discardRequest]

/-- Settles O6: the steps of the encoder by their equations, ORDER_OPEN and SLOT_READ_END by the state that does not
take them, and every other command because it leaves the web counter as it is. -/
theorem webNeverDecreases : Obligations.WebNeverDecreases := by
  intro i s t hcold hno hopening hread h
  cases i
  case coldReset => exact absurd rfl hcold
  case forwardStep =>
    obtain rfl : forwardStep s = t := Host.Outcome.next.inj h
    exact forwardStep_web_le s
  case reverseStep =>
    obtain rfl : reverseStep s = t := Host.Outcome.next.inj h
    unfold reverseStep addDebt modifyWeb
    dsimp only
    repeat' split
    all_goals exact le_refl _
  case faultStep =>
    obtain rfl : faultStep s = t := Host.Outcome.next.inj h
    exact le_refl _
  case slotReadEnd verified =>
    obtain rfl : slotReadEnd verified s = t := Host.Outcome.next.inj h
    unfold slotReadEnd
    split
    · rename_i n c hc
      exact absurd hc (hread n c)
    · exact le_refl _
  case orderOpen p args =>
    obtain rfl : takeRequest .orderOpen p args (orderOpenBody p args) s = t := Host.Outcome.next.inj h
    rw [takeRequest_web_of_state (by simpa [Req.role] using hno)]
  case accessByteInvalid p access =>
    simp only [exec, execAccessByteInvalid] at h
    split at h
    · cases h
    · obtain rfl := Host.Outcome.next.inj h
      simp
  case requestUnknownCode p code args =>
    simp only [exec, execRequestUnknownCode] at h
    split at h
    · cases h
    · obtain rfl := Host.Outcome.next.inj h
      simp
  case orderClose | recipeWrite | recipeTune | geometryWrite | start | stop | trimFetch | trimApplied | trimHold |
      sampleFlush | embFetch | embApplied | nipClosed | nipOpened | defect | splice | cutFetch | cutDone |
      cutFailed | brk | rollFlag | readRoll | shadeSample | batchClose | readBatch | labelFetch | labelDone |
      labelSkip | purgeBegin | purgeConfirm | purgeCommit | clearProtect | journalRead | watchSet =>
    obtain rfl := Host.Outcome.next.inj h
    rw [takeRequest_web fun t => by simp]
  all_goals
    obtain rfl := Host.Outcome.next.inj h
    simp

end Sys2Proof.Whole

/-! ## The limits that every step keeps (R94, R117, R118, R136, R153, R167, R187) -/

namespace Sys2Proof.Limits

open Sys2Proof.Machine Sys2Proof.Safety

/-- The limits that a step keeps each by itself. -/
inductive Limit
  | fifos | store | measured | transport | cuts | samples | labels | map | banks

/-- The limit holds in a state. -/
def Limit.Holds : Limit → State → Prop
  | .fifos, s => FifosFit s
  | .store, s => StoreQueueFits s
  | .measured, s => s.clock.measured.length ≤ 8
  | .transport, s => s.roll.transport.length ≤ 4
  | .cuts, s => s.roll.cuts.length ≤ 2
  | .samples, s => s.shade.queue.length ≤ 128
  | .labels, s => s.label.entries.length ≤ 8
  | .map, s => MapFits s.map
  | .banks, s => BanksCanonical s

/-- What leads from `s` to `t` keeps every limit. -/
def Keeps (s t : State) : Prop := ∀ x : Limit, x.Holds s → x.Holds t

/-- The parts of the state that the limits speak of. -/
def limited (s : State) :=
  (s.ports, s.store.queue, s.clock.measured, s.roll.transport, s.roll.cuts, s.shade.queue, s.label.entries, s.map, s.nv)

variable {s t u : State}

theorem Keeps.refl (s : State) : Keeps s s := fun _ hx => hx

theorem Keeps.trans (a : Keeps s t) (b : Keeps t u) : Keeps s u := fun x hx => b x (a x hx)

theorem keeps_of_limited (e : limited u = limited t) : Keeps t u := by
  simp only [limited, Prod.mk.injEq] at e
  obtain ⟨ports, store, measured, transport, cuts, samples, labels, map, nv⟩ := e
  intro x
  cases x <;>
    simp only [Limit.Holds, FifosFit, StoreQueueFits, BanksCanonical, port_eq, ports, store, measured, transport, cuts,
      samples, labels, map, nv, imp_self]

/-- A change to other parts of the state may follow. -/
theorem Keeps.same (h : Keeps s t) (e : limited u = limited t) : Keeps s u := h.trans (keeps_of_limited e)

theorem Keeps.ite {c : Prop} [Decidable c] (ht : Keeps s t) (hu : Keeps s u) : Keeps s (if c then t else u) := by
  split
  · exact ht
  · exact hu

theorem keeps_foldl {γ : Type} {f : State → γ → State} (hf : ∀ t x, Keeps s t → Keeps s (f t x)) (xs : List γ)
    (h : Keeps s t) : Keeps s (xs.foldl f t) := by
  induction xs generalizing t with
  | nil => exact h
  | cons x xs ih => exact ih (hf t x h)

/-! ### The parts with a limit -/

theorem keeps_modifyPort {p : Port} {f : PortState → PortState}
    (hf : ∀ x : PortState, x.fifo.length ≤ 256 → (f x).fifo.length ≤ 256) (h : Keeps s t) :
    Keeps s (t.modifyPort p f) := by
  refine h.trans fun x => ?_
  cases x with
  | fifos =>
    intro fits q
    rw [port_eq, modifyPort_ports, ports_get_set]
    split
    · exact hf _ (fits p)
    · exact fits q
  | store | measured | transport | cuts | samples | labels | map | banks => exact id

/-- A change to a port that leaves its FIFO. -/
theorem keeps_port {p : Port} {f : PortState → PortState} (hf : ∀ x, (f x).fifo = x.fifo) (h : Keeps s t) :
    Keeps s (t.modifyPort p f) :=
  keeps_modifyPort (fun x hx => by rwa [hf x]) h

theorem keeps_queue {q : List StoreOp} {head : HeadState} (hq : t.store.queue.length ≤ 8 → q.length ≤ 8)
    (h : Keeps s t) : Keeps s { t with store := { t.store with queue := q, head := head } } := by
  refine h.trans fun x => ?_
  cases x with
  | store => exact hq
  | fifos | measured | transport | cuts | samples | labels | map | banks => exact id

theorem keeps_map {m : WebMap} (hm : MapFits t.map → MapFits m) (h : Keeps s t) : Keeps s { t with map := m } := by
  refine h.trans fun x => ?_
  cases x with
  | map => exact hm
  | fifos | store | measured | transport | cuts | samples | labels | banks => exact id

theorem keeps_clock {c : RepeatClock} (hc : t.clock.measured.length ≤ 8 → c.measured.length ≤ 8) (h : Keeps s t) :
    Keeps s { t with clock := c } := by
  refine h.trans fun x => ?_
  cases x with
  | measured => exact hc
  | fifos | store | map | transport | cuts | samples | labels | banks => exact id

theorem keeps_roll {r : RollFormer} (ht : t.roll.transport.length ≤ 4 → r.transport.length ≤ 4)
    (hc : t.roll.cuts.length ≤ 2 → r.cuts.length ≤ 2) (h : Keeps s t) : Keeps s { t with roll := r } := by
  refine h.trans fun x => ?_
  cases x with
  | transport => exact ht
  | cuts => exact hc
  | fifos | store | map | measured | samples | labels | banks => exact id

theorem keeps_shade {c : ShadeClassifier} (hc : t.shade.queue.length ≤ 128 → c.queue.length ≤ 128) (h : Keeps s t) :
    Keeps s { t with shade := c } := by
  refine h.trans fun x => ?_
  cases x with
  | samples => exact hc
  | fifos | store | map | measured | transport | cuts | labels | banks => exact id

theorem keeps_label {c : LabelQueue} (hc : t.label.entries.length ≤ 8 → c.entries.length ≤ 8) (h : Keeps s t) :
    Keeps s { t with label := c } := by
  refine h.trans fun x => ?_
  cases x with
  | labels => exact hc
  | fifos | store | map | measured | transport | cuts | samples | banks => exact id

/-- The two banks of a slot are in canonical form. -/
def SlotCanonical (c : SlotContent) : Prop := cellsWf c.batches = true ∧ cellsWf c.journal = true

theorem keeps_modifySlot {n : Fin 4} {f : SlotContent → SlotContent} (hf : ∀ c, SlotCanonical c → SlotCanonical (f c))
    (h : Keeps s t) : Keeps s (modifySlot n f t) := by
  refine h.trans fun x => ?_
  cases x with
  | banks =>
    intro banks m
    show SlotCanonical ((t.nv.slots.modify n f).get m)
    rw [table_get_modify]
    split
    · exact hf _ (banks n)
    · exact banks m
  | fifos | store | map | measured | transport | cuts | samples | labels => exact id

/-- A change of a slot's records other than the addressed ones. -/
theorem keeps_slotRecord {n : Fin 4} {f : SlotContent → SlotContent}
    (hf : ∀ c, (f c).batches = c.batches ∧ (f c).journal = c.journal) (h : Keeps s t) : Keeps s (modifySlot n f t) :=
  keeps_modifySlot (fun c hc => by rwa [SlotCanonical, (hf c).1, (hf c).2]) h

theorem keeps_slotBatch {n : Fin 4} {k : Nat} {c : StoreCell Batch} (h : Keeps s t) :
    Keeps s (modifySlot n (fun x => { x with batches := setCell x.batches k c }) t) :=
  keeps_modifySlot (fun _ hx => ⟨cellsWf_setCell _ _ _ hx.1, hx.2⟩) h

theorem keeps_slotJournal {n : Fin 4} {k : Nat} {c : StoreCell Summary} (h : Keeps s t) :
    Keeps s (modifySlot n (fun x => { x with journal := setCell x.journal k c }) t) :=
  keeps_modifySlot (fun _ hx => ⟨hx.1, cellsWf_setCell _ _ _ hx.2⟩) h

theorem keeps_partlyErased {n : Fin 4} {event : Nat} (h : Keeps s t) :
    Keeps s (modifySlot n (partlyErased event) t) :=
  keeps_modifySlot (fun _ hx => ⟨cellsWf_filter _ _ hx.1, cellsWf_filter _ _ hx.2⟩) h

theorem keeps_failedErase {n : Fin 4} {event : Nat} (h : Keeps s t) :
    Keeps s (modifySlot n (failedErase event) t) :=
  keeps_modifySlot (fun _ hx => ⟨cellsWf_filter _ _ hx.1, cellsWf_filter _ _ hx.2⟩) h

theorem keeps_geometryRecord {g : StoreCell Geometry} (h : Keeps s t) :
    Keeps s { t with nv := { t.nv with geometry := g } } := by
  refine h.trans fun x => ?_
  cases x with
  | banks => exact id
  | fifos | store | map | measured | transport | cuts | samples | labels => exact id

/-! ### The web map (R94, R95, R97, R103) -/

theorem lastN_length_le {α : Type} (n : Nat) (xs : List α) : (lastN n xs).length ≤ n := by
  rw [lastN, List.length_drop]; omega

/-- The entries stand in map order. -/
def InOrder (es : List MapEntry) : Prop := es.Pairwise (fun x y => x.start ≤ y.start)

theorem mem_insertEntry {e x : MapEntry} {es : List MapEntry} (h : x ∈ insertEntry e es) : x = e ∨ x ∈ es := by
  simpa using (insertEntry_perm e es).mem_iff.1 h

theorem insertEntry_length (e : MapEntry) (es : List MapEntry) : (insertEntry e es).length = es.length + 1 := by
  simpa using (insertEntry_perm e es).length_eq

theorem insertEntry_inOrder (e : MapEntry) {es : List MapEntry} (h : InOrder es) : InOrder (insertEntry e es) := by
  induction es with
  | nil => exact List.pairwise_singleton _ e
  | cons x xs ih =>
    obtain ⟨hx, hxs⟩ := List.pairwise_cons.1 h
    unfold insertEntry
    split
    · rename_i hle
      refine List.pairwise_cons.2 ⟨fun y hy => ?_, ih hxs⟩
      rcases mem_insertEntry hy with rfl | hy
      · exact hle
      · exact hx y hy
    · rename_i hlt
      refine List.pairwise_cons.2 ⟨fun y hy => ?_, h⟩
      rcases List.mem_cons.1 hy with rfl | hy
      · exact le_of_lt (not_le.1 hlt)
      · exact (le_of_lt (not_le.1 hlt)).trans (hx y hy)

theorem addAged_fits {e : MapEntry} {m : WebMap} (hl : m.entries.length < 48) (ho : InOrder m.entries) :
    MapFits (addAged e m) :=
  ⟨by simpa [addAged, insertEntry_length] using hl, insertEntry_inOrder _ ho⟩

/-- The youngest fault is one of the entries, and the rest stand in their order. -/
theorem takeYoungest_rest {es : List MapEntry} {x : MapEntry} {rest : List MapEntry}
    (h : takeYoungest es = some (x, rest)) : rest.length + 1 = es.length ∧ (InOrder es → InOrder rest) := by
  unfold takeYoungest at h
  split at h
  · rename_i i a hy
    cases hi : es[i]? with
    | none => simp [hi] at h
    | some e =>
      simp only [hi, Option.map_some, Option.some.injEq, Prod.mk.injEq] at h
      obtain ⟨-, rfl⟩ := h
      obtain ⟨hlt, -⟩ := List.getElem?_eq_some_iff.1 hi
      refine ⟨?_, fun ho => ho.sublist (List.eraseIdx_sublist _ _)⟩
      rw [List.length_eraseIdx, if_pos hlt]; omega
  · cases h

theorem addEntry_fits {e : MapEntry} {m m' : WebMap} {d : Disposition} (h : addEntry e m = some (m', d))
    (hm : MapFits m) : MapFits m' := by
  obtain ⟨hlen, hord⟩ := hm
  unfold addEntry mapSize at h
  split at h
  · rename_i hroom
    obtain ⟨rfl, -⟩ := Prod.mk.inj (Option.some.inj h)
    exact addAged_fits hroom hord
  · split at h
    · cases h
    · rename_i x rest hx
      obtain ⟨hl, ho⟩ := takeYoungest_rest hx
      split at h
      · rename_i y rest' hy
        obtain ⟨hl', ho'⟩ := takeYoungest_rest hy
        obtain ⟨rfl, -⟩ := Prod.mk.inj (Option.some.inj h)
        refine addAged_fits ?_ (insertEntry_inOrder _ (ho' (ho hord)))
        simp only [addOverflow, addAged, insertEntry_length]
        omega
      · split at h
        · cases h
        · obtain ⟨rfl, -⟩ := Prod.mk.inj (Option.some.inj h)
          exact addAged_fits (m := { m with entries := rest, overflows := _ }) (by dsimp only; omega) (ho hord)

/-- A change of the entries that keeps each one's start. -/
theorem inOrder_of_starts {es fs : List MapEntry} (h : fs.map MapEntry.start = es.map MapEntry.start) (ho : InOrder es) :
    InOrder fs := by
  have starts : ∀ xs : List MapEntry, InOrder xs ↔ (xs.map MapEntry.start).Pairwise (· ≤ ·) := fun xs => by
    rw [List.pairwise_map]; rfl
  rw [starts, h, ← starts]
  exact ho

theorem fits_of_starts {m m' : WebMap} (h : m'.entries.map MapEntry.start = m.entries.map MapEntry.start)
    (hm : MapFits m) : MapFits m' := by
  refine ⟨?_, inOrder_of_starts h hm.2⟩
  have : m'.entries.length = m.entries.length := by simpa using congrArg List.length h
  rw [this]; exact hm.1

theorem map_fits {f : MapEntry → MapEntry} (hf : ∀ e, (f e).start = e.start) {m : WebMap} (hm : MapFits m) :
    MapFits { m with entries := m.entries.map f } :=
  fits_of_starts (by simp [Function.comp_def, hf]) hm

theorem closeSpan_fits {kind : MapKind} {stop : Pos} {m : WebMap} (hm : MapFits m) : MapFits (closeSpan kind stop m) :=
  map_fits (fun e => by split <;> rfl) hm

theorem release_start (kind : MapKind) (position : Pos) (e : MapEntry) : (e.release kind position).start = e.start := by
  unfold MapEntry.release
  dsimp only
  repeat' split
  all_goals rfl

theorem releaseKind_fits {kind : MapKind} {position : Pos} {m : WebMap} (hm : MapFits m) :
    MapFits (releaseKind kind position m) :=
  map_fits (release_start kind position) hm

theorem modifyEntry_fits {i : Nat} {f : MapEntry → MapEntry} (hf : ∀ e, (f e).start = e.start) {m : WebMap}
    (hm : MapFits m) : MapFits (modifyEntry i f m) := by
  refine fits_of_starts (List.ext_getElem? fun j => ?_) hm
  simp only [modifyEntry, List.getElem?_map, List.getElem?_modify]
  cases m.entries[j]? with
  | none => rfl
  | some e => by_cases hij : i = j <;> simp [hij, hf]

theorem openSpan_fits {kind : MapKind} {start : Pos} {detail : Detail} {m : WebMap} (hm : MapFits m) :
    MapFits (openSpan kind start detail m) := by
  unfold openSpan
  split
  · exact hm
  · split
    · exact modifyEntry_fits (fun _ => by rfl) hm
    · split
      · rename_i h; exact addEntry_fits h hm
      · exact hm

theorem reportDefect_fits {start stop : Pos} {cls : Fin 16} {clamped : Bool} {m m' : WebMap} {d : Disposition}
    (h : reportDefect start stop cls clamped m = some (m', d)) (hm : MapFits m) : MapFits m' := by
  unfold reportDefect at h
  split at h
  · obtain ⟨rfl, -⟩ := Prod.mk.inj (Option.some.inj h)
    exact modifyEntry_fits (fun _ => by rfl) hm
  · exact addEntry_fits h hm

/-- An entry that consumption leaves starts at its own start or at the cut, whichever lies beyond the other. -/
theorem consumeEntry_start {start c : Pos} {e x : MapEntry} (h : (consumeEntry start c e).2 = some x) :
    x.start = max e.start c := by
  unfold consumeEntry at h
  by_cases hc : c ≤ e.start
  · rw [if_pos hc] at h
    cases h
    exact (max_eq_left hc).symm
  · rw [if_neg hc] at h
    rw [max_eq_right (le_of_lt (not_le.1 hc))]
    repeat' split at h
    all_goals cases h
    all_goals rfl

theorem filterMap_inOrder {f : MapEntry → Option MapEntry} {c : Pos}
    (hf : ∀ e x, f e = some x → x.start = max e.start c) {es : List MapEntry} (ho : InOrder es) :
    InOrder (es.filterMap f) := by
  refine List.pairwise_filterMap.2 (ho.imp fun {x y} hxy a ha b hb => ?_)
  rw [hf x a ha, hf y b hb]
  exact max_le_max_right c hxy

theorem consumed_fits {start c : Pos} {m : WebMap} (hm : MapFits m) : MapFits (consumed start c m) :=
  ⟨(List.length_filterMap_le _ _).trans hm.1, filterMap_inOrder (fun _ _ h => consumeEntry_start h) hm.2⟩

theorem emptyMap_fits (m : WebMap) : MapFits (emptyMap m) := ⟨Nat.zero_le _, .nil⟩

end Sys2Proof.Limits

/-! ## What each part of a command keeps of the limits -/

namespace Sys2Proof.Limits

open Sys2Proof.Machine Sys2Proof.Safety

variable {s t : State}

/-! ### Flags, ports and records (01, 07, 11) -/

theorem keeps_raise (p : Port) (n : Notice) (h : Keeps s t) : Keeps s (t.raise p n) := keeps_port (fun _ => rfl) h

theorem keeps_raiseAll (n : Notice) (h : Keeps s t) : Keeps s (t.raiseAll n) :=
  keeps_raise _ n (keeps_raise _ n (keeps_raise _ n (keeps_raise _ n h)))

theorem keeps_evalHolds (h : Keeps s t) : Keeps s (evalHolds t) := by
  unfold evalHolds
  exact .ite h (keeps_raiseAll .hold (h.same rfl))

theorem keeps_enterLineState (st : LineState) (h : Keeps s t) : Keeps s (enterLineState st t) := by
  unfold enterLineState
  exact .ite h (keeps_evalHolds (keeps_raiseAll .line (h.same rfl)))

theorem keeps_setBreakFlag (b : Bool) (h : Keeps s t) : Keeps s (setBreakFlag b t) := by
  unfold setBreakFlag
  exact .ite h (keeps_raiseAll .line (h.same rfl))

theorem keeps_shiftOut (p : Port) (bytes : List Byte) (h : Keeps s t) : Keeps s (t.shiftOut p bytes) :=
  keeps_port (fun _ => rfl) h

theorem keeps_modifyRecord (i : Fin 24) (f : RollRecord → RollRecord) (h : Keeps s t) :
    Keeps s (modifyRecord i f t) := by
  unfold modifyRecord
  exact .ite h (keeps_roll id id h)

theorem keeps_freeRecord (i : Fin 24) (h : Keeps s t) : Keeps s (freeRecord i t) :=
  keeps_evalHolds (keeps_modifyRecord i _ h)

theorem keeps_respond (p : Port) (code : Byte) (status : Status) (result : List Byte) (h : Keeps s t) :
    Keeps s (respond p code status result t) :=
  keeps_port (fun x => by repeat' split
                          all_goals rfl) h

theorem keeps_answer (r : Req) (p : Port) (status : Status) (h : Keeps s t) : Keeps s (answer r p status t) :=
  keeps_respond _ _ _ _ h

theorem keeps_answerOk (r : Req) (p : Port) (h : Keeps s t) : Keeps s (answerOk r p t) := keeps_answer _ _ _ h

theorem keeps_keepExecuting (p : Port) (code : Byte) (w : Waiting) (h : Keeps s t) :
    Keeps s (keepExecuting p code w t) :=
  keeps_port (fun _ => rfl) h

theorem keeps_sendRecords (p : Port) (code : Byte) (bytes result : List Byte) (h : Keeps s t) :
    Keeps s (sendRecords p code bytes result t) := by
  unfold sendRecords
  exact .ite (keeps_respond _ _ _ _ h) (keeps_keepExecuting _ _ _ h)

theorem keeps_takeInput (r : Req) (p : Port) (h : Keeps s t) : Keeps s (takeInput r p t) := by
  unfold takeInput
  exact .ite (keeps_modifyPort (fun _ _ => Nat.zero_le _) h) h

theorem keeps_purgeMistake (p : Port) (h : Keeps s t) : Keeps s (purgeMistake p t) :=
  keeps_raise p .protect (keeps_port (fun _ => rfl) h)

theorem keeps_foreignRequest (r : Req) (p : Port) (h : Keeps s t) : Keeps s (foreignRequest r p t) := by
  unfold foreignRequest
  exact .ite h (keeps_purgeMistake p h)

theorem keeps_dropPurge (r : Req) (p : Port) (h : Keeps s t) : Keeps s (dropPurge r p t) := by
  unfold dropPurge
  exact .ite (keeps_port (fun _ => rfl) h) h

theorem keeps_discardRequest (p : Port) (h : Keeps s t) : Keeps s (discardRequest p t) := keeps_port (fun _ => rfl) h

/-- A request keeps the limits when its own rule does. -/
theorem keeps_takeRequest {r : Req} {p : Port} {args : List Byte} {body : State → State}
    (hbody : ∀ t, Keeps s t → Keeps s (body t)) (h : Keeps s t) : Keeps s (takeRequest r p args body t) := by
  have shifted := keeps_shiftOut p (List.replicate (args.length + 2) 0) h
  have taken := keeps_foreignRequest r p shifted
  unfold takeRequest
  exact .ite (keeps_discardRequest p shifted)
    (.ite (keeps_takeInput r p (keeps_respond _ _ _ _ taken))
      (.ite (keeps_takeInput r p (keeps_respond _ _ _ _ (keeps_dropPurge r p taken)))
        (.ite (keeps_takeInput r p (keeps_respond _ _ _ _ taken)) (keeps_takeInput r p (hbody _ taken)))))

/-! ### The repeat clock (02) -/

theorem keeps_applyTune (tune : Tune) (h : Keeps s t) : Keeps s (applyTune tune t) := h.same rfl

theorem keeps_applyStaged (h : Keeps s t) : Keeps s (applyStaged t) := by
  unfold applyStaged
  split
  · exact keeps_applyTune _ (h.same rfl)
  · exact h

theorem keeps_discardTune (h : Keeps s t) : Keeps s (discardTune t) := h.same rfl

theorem keeps_boundaryAt (position : Pos) (h : Keeps s t) : Keeps s (boundaryAt position t) :=
  keeps_applyStaged (keeps_clock id h)

theorem keeps_coast (h : Keeps s t) : Keeps s (coast t) := keeps_boundaryAt _ (keeps_clock id h)

theorem keeps_checkStretch (h : Keeps s t) : Keeps s (checkStretch t) := by
  unfold checkStretch
  exact .ite (keeps_raise .press .stretch (keeps_clock id h)) (keeps_clock id h)

theorem keeps_measure (c : Pos) (fromSeek : Bool) (misses : Nat) (h : Keeps s t) :
    Keeps s (Machine.measure c fromSeek misses t) := by
  unfold Machine.measure
  dsimp only
  split
  · exact keeps_clock id (keeps_checkStretch (keeps_clock (fun _ => lastN_length_le 8 _) h))
  · exact keeps_clock id h

theorem keeps_forgetMeasured (h : Keeps s t) : Keeps s (forgetMeasured t) := keeps_clock (fun _ => Nat.zero_le _) h

theorem keeps_keyCapture (c : Pos) (channel : ChannelRecord) (h : Keeps s t) : Keeps s (keyCapture c channel t) := by
  have rephased : Keeps s { t with clock := t.clock.rephase c } := keeps_clock id h
  unfold keyCapture
  exact .ite h (.ite (keeps_measure _ _ _ rephased)
    (keeps_measure _ _ _ (keeps_boundaryAt _ (keeps_clock id rephased))))

theorem keeps_startClock (h : Keeps s t) : Keeps s (startClock t) := keeps_forgetMeasured (keeps_clock id h)

theorem keeps_haltClock (h : Keeps s t) : Keeps s (haltClock t) := keeps_clock id h

theorem keeps_endPulse (h : Keeps s t) : Keeps s (endPulse t) := by
  unfold endPulse
  exact .ite (keeps_clock id h) h

/-! ### Consumption and DEFECT (06) -/

theorem keeps_consumeMap (record : Option (Fin 24)) (start c : Pos) (h : Keeps s t) :
    Keeps s (consumeMap record start c t) := by
  unfold consumeMap
  split
  · have charged (xs : List DefectItem) (i : Fin 24) :
        (xs.foldl (fun s x => modifyRecord i (fun r => r.charge x) s) t).map = t.map := by
      clear h
      induction xs generalizing t with
      | nil => rfl
      | cons x xs ih =>
        rw [List.foldl_cons, ih, modifyRecord_eq]
    refine keeps_map (fun hm => consumed_fits ?_)
      (keeps_foldl (fun _ _ => keeps_modifyRecord _ _) _ h)
    rwa [← charged]
  · exact keeps_map consumed_fits h

theorem keeps_defectBody (p : Port) (args : List Byte) (h : Keeps s t) : Keeps s (defectBody p args t) := by
  unfold defectBody
  split
  · exact keeps_answer _ _ _ h
  · dsimp only
    split
    · rename_i hm
      exact keeps_respond _ _ _ _ (keeps_map (reportDefect_fits hm) h)
    · exact keeps_answer _ _ _ h

/-! ### Register control (04) -/

theorem keeps_putUnit (k : Fin 7) (x : ChannelStep) (h : Keeps s t) : Keeps s (putUnit k x t) := by
  have put : Keeps s { t with register := { t.register with units := t.register.units.set k x.1 } } := h.same rfl
  have posted := Keeps.ite (c := x.2.posted = true) (keeps_raise .press .trim put) put
  unfold putUnit
  exact .ite (keeps_raise _ _ posted) posted

theorem keeps_eachUnit (f : Fin 7 → RegisterChannel → ChannelStep) (h : Keeps s t) : Keeps s (eachUnit f t) :=
  keeps_foldl (fun _ _ => keeps_putUnit _ _) _ h

theorem keeps_judgeFrame (f : Frame) (h : Keeps s t) : Keeps s (judgeFrame f t) := by
  refine (keeps_map (m := (judgeFrame f t).map) (fun hm => ?_) h).same (u := judgeFrame f t) rfl
  simp only [judgeFrame]
  split
  · exact openSpan_fits (releaseKind_fits hm)
  · exact closeSpan_fits (releaseKind_fits hm)

theorem keeps_registerFrame (f : Frame) (h : Keeps s t) : Keeps s (registerFrame f t) := by
  unfold registerFrame
  exact keeps_judgeFrame f (keeps_eachUnit _ (h.same rfl))

theorem keeps_openUnverified (h : Keeps s t) : Keeps s (openUnverified t) := keeps_map openSpan_fits h

theorem keeps_trimFetchBody (p : Port) (h : Keeps s t) : Keeps s (trimFetchBody p t) := by
  unfold trimFetchBody
  exact .ite (keeps_answer _ _ _ h) (keeps_sendRecords _ _ _ _ h)

theorem keeps_trimAppliedBody (p : Port) (args : List Byte) (h : Keeps s t) : Keeps s (trimAppliedBody p args t) := by
  unfold trimAppliedBody
  split
  · exact keeps_answer _ _ _ h
  · exact .ite (keeps_answerOk _ _ (keeps_putUnit _ _ h)) (keeps_answer _ _ _ h)

theorem keeps_trimHoldBody (p : Port) (args : List Byte) (h : Keeps s t) : Keeps s (trimHoldBody p args t) := by
  unfold trimHoldBody
  exact .ite (keeps_answer _ _ _ h) (keeps_answerOk _ _ (h.same rfl))

theorem keeps_setFlush (on : Bool) (h : Keeps s t) : Keeps s (setFlush on t) := by
  unfold setFlush
  exact .ite (keeps_eachUnit _ (h.same rfl)) (h.same rfl)

theorem keeps_sampleFlushBody (p : Port) (args : List Byte) (h : Keeps s t) : Keeps s (sampleFlushBody p args t) := by
  unfold sampleFlushBody
  exact .ite (keeps_answer _ _ _ h) (keeps_answerOk _ _ (keeps_setFlush _ h))

theorem keeps_trimTimeout (k : Fin 7) (h : Keeps s t) : Keeps s (trimTimeout k t) := keeps_putUnit _ _ h

/-! ### Embossing (05) -/

theorem keeps_putEmboss (x : ChannelStep) (h : Keeps s t) : Keeps s (putEmboss x t) := by
  unfold putEmboss
  exact .ite (keeps_raise _ _ (h.same rfl)) (h.same rfl)

theorem keeps_modifyNip (f : Nip → Nip) (h : Keeps s t) : Keeps s (modifyNip f t) := h.same rfl

theorem keeps_enterNip (st : NipState) (h : Keeps s t) : Keeps s (enterNip st t) := by
  unfold enterNip
  exact .ite h (keeps_raise _ _ (keeps_modifyNip _ h))

theorem keeps_orderNipOpen (reason : OrderReason) (h : Keeps s t) : Keeps s (orderNipOpen reason t) :=
  keeps_enterNip _ (keeps_modifyNip _ h)

theorem keeps_judgeEmboss (h : Keeps s t) : Keeps s (judgeEmboss t) := by
  unfold judgeEmboss
  refine .ite (keeps_map (fun hm => ?_) h) h
  split
  · exact openSpan_fits (releaseKind_fits hm)
  · exact closeSpan_fits (releaseKind_fits hm)

theorem keeps_judgeChange (before : NipState) (h : Keeps s t) : Keeps s (judgeChange before t) := by
  unfold judgeChange
  exact .ite h (keeps_judgeEmboss h)

theorem keeps_embossAcquired (h : Keeps s t) : Keeps s (embossAcquired t) := by
  unfold embossAcquired
  exact .ite (keeps_orderNipOpen _ (keeps_modifyNip _ h)) (keeps_modifyNip _ h)

theorem keeps_withdrawPermit (h : Keeps s t) : Keeps s (withdrawPermit t) := by
  unfold withdrawPermit
  exact .ite (keeps_enterNip _ h) h

theorem keeps_countClose (result : Option Int) (h : Keeps s t) : Keeps s (countClose result t) := by
  unfold countClose
  split
  · exact keeps_modifyNip _ h
  · exact h

theorem keeps_closedSample (result : Option Int) (h : Keeps s t) : Keeps s (closedSample result t) := by
  unfold closedSample
  split
  · exact .ite (keeps_modifyNip _ h) (.ite (keeps_orderNipOpen _ (keeps_modifyNip _ h)) (keeps_modifyNip _ h))
  · exact h

theorem keeps_nipFrame (result : Option Int) (h : Keeps s t) : Keeps s (nipFrame result t) := by
  have counted := keeps_countClose result h
  unfold nipFrame
  dsimp only
  split
  · exact .ite (keeps_enterNip _ counted) counted
  · split
    · exact .ite (keeps_enterNip _ counted) (keeps_withdrawPermit counted)
    · exact keeps_withdrawPermit counted
  · exact keeps_closedSample _ counted
  · exact counted
  · exact counted

theorem keeps_holdMke (c : Pos) (h : Keeps s t) : Keeps s (holdMke c t) := h.same rfl

theorem keeps_recordEmbossFrame (ci : Pos) (ce : Option Pos) (h : Keeps s t) :
    Keeps s (recordEmbossFrame ci ce t) := h.same rfl

theorem keeps_embossFrame (ci : Pos) (h : Keeps s t) : Keeps s (embossFrame ci t) := by
  unfold embossFrame
  exact .ite h (keeps_judgeEmboss (keeps_nipFrame _
    (.ite (keeps_embossAcquired (keeps_putEmboss _ (keeps_recordEmbossFrame _ _ h)))
      (keeps_putEmboss _ (keeps_recordEmbossFrame _ _ h)))))

theorem keeps_idxReturned (h : Keeps s t) : Keeps s (idxReturned t) :=
  keeps_judgeChange _ (keeps_withdrawPermit
    (.ite (keeps_embossAcquired (keeps_putEmboss _ h)) (keeps_putEmboss _ h)))

theorem keeps_embTimeout (h : Keeps s t) : Keeps s (embTimeout t) :=
  keeps_judgeChange _ (keeps_withdrawPermit (keeps_putEmboss _ h))

theorem keeps_embFetchBody (p : Port) (h : Keeps s t) : Keeps s (embFetchBody p t) := by
  unfold embFetchBody
  exact .ite (keeps_answer _ _ _ h) (keeps_sendRecords _ _ _ _ h)

theorem keeps_embAppliedBody (p : Port) (args : List Byte) (h : Keeps s t) : Keeps s (embAppliedBody p args t) := by
  unfold embAppliedBody
  exact .ite (keeps_answerOk _ _ (keeps_putEmboss _ h)) (keeps_answer _ _ _ h)

theorem keeps_closeNip (cause : CloseCause) (h : Keeps s t) : Keeps s (closeNip cause t) :=
  keeps_judgeChange _ (keeps_enterNip _ (keeps_modifyNip _ h))

theorem keeps_nipClosedBody (p : Port) (h : Keeps s t) : Keeps s (nipClosedBody p t) := by
  unfold nipClosedBody
  split
  · exact keeps_answerOk _ _ (keeps_closeNip _ h)
  · exact keeps_answerOk _ _ (keeps_closeNip _ h)
  · exact keeps_answerOk _ _ h
  · exact keeps_answer _ _ _ h
  · exact keeps_answer _ _ _ h

theorem keeps_openNip (h : Keeps s t) : Keeps s (openNip t) :=
  keeps_judgeChange _ (keeps_enterNip _ (keeps_modifyNip _ h))

theorem keeps_nipOpenedBody (p : Port) (h : Keeps s t) : Keeps s (nipOpenedBody p t) := by
  unfold nipOpenedBody
  split
  · exact keeps_answer _ _ _ h
  all_goals exact keeps_answerOk _ _ (keeps_openNip h)

/-! ### The run state (05, 16) -/

theorem keeps_reachWatch (p : Port) (h : Keeps s t) : Keeps s (reachWatch p t) := by
  unfold reachWatch
  split
  · exact .ite (keeps_raise _ _ (keeps_port (fun _ => rfl) h)) h
  · exact h

theorem keeps_reachWatches (h : Keeps s t) : Keeps s (reachWatches t) :=
  keeps_foldl (fun _ _ => keeps_reachWatch _) _ h

/-- The blocks that an open puts at their initial values. -/
theorem keeps_initRun (batches : List Batch) (highest : Nat) (h : Keeps s t) :
    Keeps s (initRun batches highest t) := by
  have parked := Keeps.ite (c := t.emboss.nip.state = .parked) h (keeps_raise .emboss .nip h)
  unfold initRun
  refine keeps_reachWatches (parked.trans fun x => ?_)
  cases x with
  | fifos | store | banks => exact id
  | measured | transport | cuts | samples | labels => exact fun _ => Nat.zero_le _
  | map => exact fun _ => ⟨Nat.zero_le _, .nil⟩

theorem keeps_enterNoOrder (h : Keeps s t) : Keeps s (enterNoOrder t) := keeps_enterLineState _ (h.same rfl)

/-! ### The order store (10) -/

theorem keeps_modifyDir (n : Fin 4) (f : DirectoryEntry → DirectoryEntry) (h : Keeps s t) :
    Keeps s (modifyDir n f t) := h.same rfl

theorem keeps_releaseUnjournalled (i : Fin 24) (h : Keeps s t) : Keeps s (releaseUnjournalled i t) :=
  keeps_label id (keeps_freeRecord i h)

theorem keeps_releaseWaiting (fuel : Nat) (h : Keeps s t) : Keeps s (releaseWaiting fuel t) := by
  induction fuel generalizing t with
  | zero => exact h
  | succ fuel ih =>
    unfold releaseWaiting
    split
    · exact ih (keeps_releaseUnjournalled _ h)
    · exact h

theorem keeps_settleJournalPath (h : Keeps s t) : Keeps s (settleJournalPath t) := by
  unfold settleJournalPath
  exact .ite (keeps_releaseWaiting 24 h) h

theorem keeps_degradeSlot (n : Fin 4) (h : Keeps s t) : Keeps s (degradeSlot n t) :=
  keeps_settleJournalPath (keeps_raiseAll .store (keeps_modifyDir n _ h))

theorem keeps_recordFailure (op : StoreOp) (target : Option (Fin 4)) (kind : FailureKind) (h : Keeps s t) :
    Keeps s (recordFailure op target kind t) := h.same rfl

theorem keeps_modifyBatch (n : Nat) (f : Batch → Batch) (h : Keeps s t) : Keeps s (modifyBatch n f t) :=
  keeps_shade id h

/-- An operation joins a store queue that has room. -/
theorem keeps_pushOp {op : StoreOp} (room : StoreQueueFits s → t.store.queue.length < 8) (h : Keeps s t) :
    Keeps s (pushOp op t) := by
  intro x hx
  cases x with
  | store =>
    show (t.store.queue ++ [op]).length ≤ 8
    simpa using room hx
  | fifos | measured | transport | cuts | samples | labels | map => exact h _ hx
  | banks => exact h .banks hx

theorem keeps_releaseHead (h : Keeps s t) : Keeps s (releaseHead t) :=
  keeps_queue (fun hq => by rw [List.length_tail]; omega) h

theorem room_of_not_full (h : t.storeFull = false) : t.store.queue.length < 8 :=
  not_le.1 (of_decide_eq_false h)

theorem keeps_takePlaces (fuel : Nat) (h : Keeps s t) : Keeps s (takePlaces fuel t) := by
  induction fuel generalizing t with
  | zero => exact h
  | succ fuel ih =>
    unfold takePlaces
    split
    · exact h
    · rename_i hfull
      have room (_ : StoreQueueFits s) := room_of_not_full (Bool.not_eq_true _ ▸ hfull)
      split
      · exact ih (keeps_modifyBatch _ _ (keeps_pushOp room h))
      · split
        · exact ih (keeps_modifyRecord _ _ (keeps_pushOp room h))
        · exact h
      · exact h

theorem keeps_startHead (op : StoreOp) (h : Keeps s t) : Keeps s (startHead op t) := by
  unfold startHead
  dsimp only
  split
  case h_2 =>
    split
    · exact (keeps_modifyBatch _ _ h).same rfl
    · exact h.same rfl
  case h_3 => exact (keeps_modifyRecord _ _ h).same rfl
  all_goals exact h.same rfl

theorem keeps_closeOrderAfter (written : StoredState) (h : Keeps s t) : Keeps s (closeOrderAfter written t) := by
  unfold closeOrderAfter
  exact .ite (keeps_enterNoOrder h) h

theorem keeps_failUnstarted (op : StoreOp) (h : Keeps s t) : Keeps s (failUnstarted op t) := by
  have failed := keeps_recordFailure op op.slot? .degradedTarget h
  cases op with
  | batchWrite n k => exact keeps_modifyBatch _ _ failed
  | journalAppend n i => exact keeps_releaseUnjournalled _ failed
  | headerWrite n written => exact keeps_closeOrderAfter _ failed
  | slotErase n => exact keeps_modifyDir _ _ failed
  | geometryRead | slotRead | journalRead | recipeWrite | geometryWrite => exact failed

theorem keeps_failFull (op : StoreOp) (h : Keeps s t) : Keeps s (failFull op t) := by
  cases op with
  | journalAppend n i =>
    exact keeps_settleJournalPath (keeps_releaseUnjournalled _
      (keeps_raiseAll _ (keeps_modifyDir _ _ (keeps_recordFailure _ _ _ h))))
  | headerWrite | geometryRead | slotRead | journalRead | recipeWrite | geometryWrite | slotErase | batchWrite =>
    exact h

theorem keeps_dealHead (fuel : Nat) (h : Keeps s t) : Keeps s (dealHead fuel t) := by
  induction fuel generalizing t with
  | zero => exact h
  | succ fuel ih =>
    have sampled : Keeps s (sampleEnable t) := h.same rfl
    unfold dealHead
    split
    · exact h.same rfl
    · exact .ite (keeps_startHead _ sampled)
        (.ite (ih (keeps_takePlaces 24 (keeps_releaseHead (keeps_failUnstarted _ h))))
          (.ite (ih (keeps_takePlaces 24 (keeps_releaseHead (keeps_failFull _ h))))
            (.ite (keeps_startHead _ sampled) (keeps_raiseAll _ (sampled.same rfl)))))

theorem keeps_enqueue {op : StoreOp} (room : StoreQueueFits s → t.store.queue.length < 8) (h : Keeps s t) :
    Keeps s (enqueue op t) := by
  unfold enqueue
  exact .ite (keeps_dealHead _ (keeps_pushOp room h)) (keeps_pushOp room h)

theorem headerContent_queue (n : Fin 4) (f : DirectoryEntry → DirectoryEntry) (s : State) :
    (headerContent n f s).store.queue = s.store.queue := by
  unfold headerContent
  split <;> rfl

theorem keeps_headerContent (n : Fin 4) (f : DirectoryEntry → DirectoryEntry) (h : Keeps s t) :
    Keeps s (headerContent n f t) := by
  unfold headerContent
  exact .ite h (keeps_modifyDir _ _ h)

theorem keeps_advanceClosing (h : Keeps s t) : Keeps s (advanceClosing t) := by
  unfold advanceClosing
  split
  · rename_i hc
    obtain ⟨-, -, -, hempty⟩ := hc
    split
    · refine keeps_enqueue (fun _ => ?_) (keeps_headerContent _ _ (h.same rfl))
      rw [headerContent_queue, List.isEmpty_iff.1 hempty]
      decide
    · exact keeps_enterNoOrder h
  · exact h

/-- The head ends; what its end queues finds the place that it released. -/
theorem keeps_endHead {effects next : State → State} (heffects : Keeps s (effects t))
    (hnext : ∀ u, (StoreQueueFits s → u.store.queue.length < 8) → Keeps s u → Keeps s (next u)) :
    Keeps s (endHead effects next t) := by
  unfold endHead
  refine keeps_advanceClosing (keeps_dealHead _ (keeps_takePlaces _ (hnext _ (fun hs => ?_) (keeps_releaseHead heffects))))
  have fits : (effects t).store.queue.length ≤ 8 := heffects .store hs
  show (effects t).store.queue.tail.length < 8
  rw [List.length_tail]
  omega

theorem keeps_endHead_id {effects : State → State} (heffects : Keeps s (effects t)) :
    Keeps s (endHead effects id t) :=
  keeps_endHead heffects fun _ _ hu => hu

theorem keeps_useFresh (h : Keeps s t) : Keeps s (useFresh t) := h.same rfl

theorem keeps_readHeader (fault : Bool) (n : Fin 4) (h : Keeps s t) : Keeps s (readHeader fault n t) := by
  unfold readHeader
  exact .ite (keeps_modifyDir _ _ h) (keeps_raiseAll _ (keeps_recordFailure _ _ _ (keeps_modifyDir _ _ h)))

theorem keeps_readGeometry (fault : Bool) (h : Keeps s t) : Keeps s (readGeometry fault t) := by
  unfold readGeometry
  split
  · exact .ite (h.same rfl) (h.same rfl)
  · exact h.same rfl
  · exact keeps_raiseAll _ (keeps_recordFailure _ _ _ (h.same rfl))

theorem keeps_geometryReadEffects (faults : BitVec 5) (h : Keeps s t) : Keeps s (geometryReadEffects faults t) :=
  keeps_readHeader _ _ (keeps_readHeader _ _ (keeps_readHeader _ _ (keeps_readHeader _ _ (keeps_readGeometry _ h))))

theorem keeps_answerOpening (status : Status) (h : Keeps s t) : Keeps s (answerOpening status t) := by
  unfold answerOpening
  split
  · exact keeps_respond _ _ _ _ h
  · exact h

theorem keeps_resumeOrder (recipe : Recipe) (batches : List Batch) (highest headerRun : Nat) (status : Status)
    (h : Keeps s t) : Keeps s (resumeOrder recipe batches highest headerRun status t) := by
  unfold resumeOrder
  exact keeps_answerOpening _ (keeps_enterLineState _ (keeps_initRun _ _ (h.same rfl)))

theorem keeps_slotReadEffects (n : Fin 4) (verified : Bool) (h : Keeps s t) :
    Keeps s (slotReadEffects n verified t) := by
  unfold slotReadEffects
  split
  · exact keeps_resumeOrder _ _ _ _ _ h
  · exact keeps_resumeOrder _ _ _ _ _ (keeps_degradeSlot _ (keeps_recordFailure _ _ _ h))

theorem keeps_resumeHeader (n : Fin 4) (room : StoreQueueFits s → t.store.queue.length < 8) (h : Keeps s t) :
    Keeps s (resumeHeader n t) :=
  keeps_pushOp (by rwa [headerContent_queue]) (keeps_headerContent _ _ h)

theorem keeps_failWrite (op : StoreOp) (n : Fin 4) (kind : FailureKind) (h : Keeps s t) :
    Keeps s (failWrite op n kind t) :=
  keeps_degradeSlot _ (keeps_recordFailure _ _ _ (keeps_useFresh h))

theorem keeps_headerWriteEffects (n : Fin 4) (written : StoredState) (x : Header) (verified : Bool) (h : Keeps s t) :
    Keeps s (headerWriteEffects n written x verified t) := by
  unfold headerWriteEffects
  exact keeps_closeOrderAfter _ (.ite (keeps_slotRecord (fun _ => ⟨rfl, rfl⟩) h)
    (keeps_failWrite _ _ _ (keeps_slotRecord (fun _ => ⟨rfl, rfl⟩) h)))

theorem keeps_recipeWriteEffects (n : Fin 4) (r : Recipe) (verified : Bool) (h : Keeps s t) :
    Keeps s (recipeWriteEffects n r verified t) := by
  unfold recipeWriteEffects
  exact .ite (keeps_slotRecord (fun _ => ⟨rfl, rfl⟩) h)
    (keeps_failWrite _ _ _ (keeps_slotRecord (fun _ => ⟨rfl, rfl⟩) h))

theorem keeps_batchWriteEffects (n : Fin 4) (b : Batch) (verified : Bool) (h : Keeps s t) :
    Keeps s (batchWriteEffects n b verified t) := by
  unfold batchWriteEffects
  exact .ite (keeps_modifyBatch _ _ (keeps_slotBatch h))
    (keeps_modifyBatch _ _ (keeps_failWrite _ _ _ (keeps_slotBatch h)))

theorem keeps_appendDone (n : Fin 4) (i : Fin 24) (x : Summary) (h : Keeps s t) : Keeps s (appendDone n i x t) :=
  keeps_freeRecord _ (keeps_modifyDir _ _ (keeps_slotJournal h))

theorem keeps_journalAppendEffects (n : Fin 4) (i : Fin 24) (x : Summary) (verified : Bool) (h : Keeps s t) :
    Keeps s (journalAppendEffects n i x verified t) := by
  unfold journalAppendEffects
  exact .ite (keeps_releaseUnjournalled _ (keeps_degradeSlot _ (keeps_recordFailure _ _ _ h)))
    (.ite (keeps_appendDone _ _ _ h) (keeps_releaseUnjournalled _ (keeps_failWrite _ _ _ (keeps_slotJournal h))))

theorem keeps_geometryWriteEffects (g : Geometry) (verified : Bool) (h : Keeps s t) :
    Keeps s (geometryWriteEffects g verified t) := by
  unfold geometryWriteEffects
  exact .ite (keeps_geometryRecord h)
    (keeps_raiseAll _ (keeps_recordFailure _ _ _ (keeps_useFresh ((keeps_geometryRecord h).same rfl))))

theorem keeps_slotEraseEffects (n : Fin 4) (verified : Bool) (h : Keeps s t) :
    Keeps s (slotEraseEffects n verified t) := by
  unfold slotEraseEffects
  exact .ite (keeps_modifyDir _ _ (keeps_modifySlot (fun _ _ => ⟨rfl, rfl⟩) h))
    (keeps_modifyDir _ _ (keeps_failWrite _ _ _ (keeps_failedErase h)))

theorem keeps_interruptStore (h : Keeps s t) : Keeps s (interruptStore t) := by
  unfold interruptStore
  split
  · exact keeps_slotRecord (fun _ => ⟨rfl, rfl⟩) h
  · exact keeps_slotRecord (fun _ => ⟨rfl, rfl⟩) h
  · exact keeps_slotBatch h
  · exact .ite (keeps_slotJournal h) h
  · exact keeps_geometryRecord h
  · exact keeps_useFresh (keeps_partlyErased h)
  · exact h

theorem keeps_answerJournal (p : Port) (bytes : List Byte) (h : Keeps s t) : Keeps s (answerJournal p bytes t) := by
  unfold answerJournal
  split
  · exact .ite (keeps_respond _ _ _ _ h) (.ite (keeps_respond _ _ _ _ h) (keeps_port (fun _ => rfl) h))
  · exact h

theorem keeps_journalReadEffects (n : Fin 4) (position : Nat) (p : Port) (verified : Bool) (h : Keeps s t) :
    Keeps s (journalReadEffects n position p verified t) := by
  unfold journalReadEffects
  split
  · exact keeps_answerJournal _ _ h
  · exact keeps_answerJournal _ _ h
  · exact keeps_answerJournal _ _ (keeps_degradeSlot _ (keeps_recordFailure _ _ _ h))

/-! ### Labelling (09) -/

theorem pushLabel_entries (i : Fin 24) (s : State) :
    (pushLabel i s).label.entries = s.label.entries ++ [⟨i, (s.record i).saleNumber.getD 0⟩] := by
  unfold pushLabel
  rw [modifyRecord_eq]
  dsimp only
  split <;> rfl

/-- A roll enters a label queue that has room. -/
theorem keeps_pushLabel {i : Fin 24} (room : s.label.entries.length ≤ 8 → t.label.entries.length < 8) (h : Keeps s t) :
    Keeps s (pushLabel i t) := by
  have marked := keeps_modifyRecord i (fun r => { r with state := .labelPending }) h
  have others (x : Limit) (hx : x ≠ .labels) (hs : x.Holds s) : x.Holds (pushLabel i t) := by
    unfold pushLabel
    refine Keeps.ite (keeps_raise .quality .label (.refl _)) (.refl _) x ?_
    cases x with
    | labels => exact absurd rfl hx
    | fifos | store | measured | transport | cuts | samples | map => exact marked _ hs
    | banks => exact marked .banks hs
  intro x hs
  cases x with
  | labels =>
    show (pushLabel i t).label.entries.length ≤ 8
    rw [pushLabel_entries, List.length_append]
    exact room hs
  | fifos | store | measured | transport | cuts | samples | map | banks => exact others _ (by simp) hs

theorem keeps_joinLabel (i : Fin 24) (h : Keeps s t) : Keeps s (joinLabel i t) := by
  unfold joinLabel
  refine keeps_evalHolds ?_
  split
  · rename_i hroom
    exact keeps_pushLabel (fun _ => hroom.1) h
  · exact h

theorem keeps_removeHead (h : Keeps s t) : Keeps s (removeHead t) := by
  have shorter {n : Nat} (hn : t.label.entries.length ≤ n) : t.label.entries.tail.length ≤ n := by
    rw [List.length_tail]; omega
  have tail : Keeps s { t with label := { t.label with entries := t.label.entries.tail } } := keeps_label shorter h
  have raised {u : State} (hu : Keeps s u) :
      Keeps s (evalHolds (if u.label.entries.isEmpty then u else u.raise .quality .label)) :=
    keeps_evalHolds (.ite hu (keeps_raise _ _ hu))
  unfold removeHead
  dsimp only
  split
  · refine raised (keeps_pushLabel (fun hs => ?_) tail)
    have fits : t.label.entries.length ≤ 8 := h .labels hs
    show t.label.entries.tail.length < 8
    rw [List.length_tail]
    omega
  · exact raised tail

theorem keeps_reportRecord (i : Fin 24) (f : RollRecord → RollRecord) (h : Keeps s t) :
    Keeps s (reportRecord i f t) := keeps_roll id id h

theorem keeps_takeJournalPath (i : Fin 24) (h : Keeps s t) : Keeps s (takeJournalPath i t) := by
  unfold takeJournalPath
  split
  · exact keeps_releaseUnjournalled _ h
  · split
    · rename_i hmay
      simp only [mayAppend, Bool.and_eq_true, Bool.not_eq_true'] at hmay
      refine keeps_enqueue (fun _ => ?_) (keeps_modifyRecord _ _ h)
      rw [modifyRecord_eq]
      exact room_of_not_full hmay.1.1
    · exact keeps_modifyRecord _ _ h

theorem keeps_finishLabel (i : Fin 24) (f : RollRecord → RollRecord) (h : Keeps s t) : Keeps s (finishLabel i f t) :=
  keeps_advanceClosing (keeps_takeJournalPath i (keeps_removeHead (keeps_reportRecord i _ h)))

theorem keeps_labelFetchBody (p : Port) (h : Keeps s t) : Keeps s (labelFetchBody p t) := by
  unfold labelFetchBody
  refine .ite (keeps_answer _ _ _ h) ?_
  split
  · exact keeps_answer _ _ _ h
  · exact keeps_sendRecords _ _ _ _ h

theorem keeps_labelDoneBody (p : Port) (args : List Byte) (h : Keeps s t) : Keeps s (labelDoneBody p args t) := by
  unfold labelDoneBody
  refine .ite (keeps_answer _ _ _ h) ?_
  split
  · exact keeps_answer _ _ _ h
  · exact .ite (keeps_answer _ _ _ h) (.ite (keeps_answerOk _ _ (keeps_finishLabel _ _ h))
      (keeps_answerOk _ _ (keeps_reportRecord _ _ h)))

theorem keeps_labelSkipBody (p : Port) (args : List Byte) (h : Keeps s t) : Keeps s (labelSkipBody p args t) := by
  unfold labelSkipBody
  split
  · exact keeps_answer _ _ _ h
  · exact .ite (keeps_answer _ _ _ h) (keeps_answerOk _ _ (keeps_finishLabel _ _ h))

/-! ### Shade batches (08) -/

theorem keeps_wasteSamples (n : Nat) (h : Keeps s t) : Keeps s (wasteSamples n t) := keeps_shade id h

theorem keeps_emptySamples (h : Keeps s t) : Keeps s (emptySamples t) :=
  keeps_shade (fun _ => Nat.zero_le _) (keeps_wasteSamples _ h)

theorem keeps_shadeSampleBody (p : Port) (args : List Byte) (h : Keeps s t) : Keeps s (shadeSampleBody p args t) := by
  unfold shadeSampleBody sampleLimit
  dsimp only
  split
  · exact keeps_respond _ _ _ _ (keeps_shade id h)
  · rename_i hroom
    exact keeps_respond _ _ _ _ (keeps_shade (fun _ => by simp only [List.length_append, List.length_singleton]; omega) h)

theorem keeps_drainSample (record : Option (Fin 24)) (start : Pos) (x : Sample) (h : Keeps s t) :
    Keeps s (drainSample record start x t) := by
  unfold drainSample
  split
  · exact .ite (keeps_modifyRecord _ _ h) (keeps_wasteSamples _ h)
  · exact keeps_wasteSamples _ h

theorem keeps_markThin (record : Option (Fin 24)) (h : Keeps s t) : Keeps s (markThin record t) := by
  unfold markThin
  split
  · exact .ite (keeps_modifyRecord _ _ h) h
  · exact h

theorem keeps_drainSamples (record : Option (Fin 24)) (start c : Pos) (h : Keeps s t) :
    Keeps s (drainSamples record start c t) :=
  keeps_shade id (keeps_markThin _ (keeps_foldl (fun _ _ => keeps_drainSample _ _ _) _
    (keeps_shade (fun hl => (List.length_filter_le _ _).trans hl) h)))

theorem keeps_saveBatch (k : Nat) (h : Keeps s t) : Keeps s (saveBatch k t) := by
  unfold saveBatch
  split
  · split
    · exact h
    · dsimp only
      split
      · split
        · rename_i hroom
          simp only [Bool.and_eq_true, Bool.not_eq_true'] at hroom
          exact keeps_enqueue (fun _ => room_of_not_full hroom.2) (keeps_modifyBatch _ _ (keeps_modifyBatch _ _ h))
        · exact keeps_modifyBatch _ _ h
      · exact keeps_modifyBatch _ _ h
  · exact h

theorem keeps_writeResult (i : Fin 24) (result : ShadeResult) (batch : Option Nat) (low : Bool) (h : Keeps s t) :
    Keeps s (writeResult i result batch low t) := keeps_modifyRecord _ _ h

theorem keeps_assignBatch (i : Fin 24) (b : Batch) (h : Keeps s t) : Keeps s (assignBatch i b t) :=
  keeps_saveBatch _ (keeps_modifyBatch _ _ h)

theorem keeps_foundBatch (i : Fin 24) (mean : Shade) (h : Keeps s t) : Keeps s (foundBatch i mean t) :=
  keeps_saveBatch _ (keeps_raise _ _ (keeps_shade id h))

theorem keeps_foundOrUnclassed (i : Fin 24) (mean : Shade) (spread : Int) (distance : Option Int) (low : Bool)
    (h : Keeps s t) : Keeps s (foundOrUnclassed i mean spread distance low t) := by
  unfold foundOrUnclassed
  exact .ite (keeps_foundBatch _ _ (keeps_writeResult _ _ _ _ h)) (keeps_writeResult _ _ _ _ h)

theorem keeps_matchBatches (i : Fin 24) (mean : Shade) (spread : Int) (h : Keeps s t) :
    Keeps s (matchBatches i mean spread t) := by
  unfold matchBatches
  dsimp only
  split
  · exact .ite (keeps_assignBatch _ _ (keeps_writeResult _ _ _ _ h)) (keeps_foundOrUnclassed _ _ _ _ _ h)
  · exact keeps_foundOrUnclassed _ _ _ _ _ h

theorem keeps_classify (i : Fin 24) (h : Keeps s t) : Keeps s (classify i t) := by
  unfold classify
  exact .ite (keeps_writeResult _ _ _ _ h) (.ite (keeps_writeResult _ _ _ _ h) (keeps_matchBatches _ _ _ h))

theorem keeps_batchCloseBody (p : Port) (args : List Byte) (h : Keeps s t) : Keeps s (batchCloseBody p args t) := by
  unfold batchCloseBody
  refine .ite (keeps_answer _ _ _ h) ?_
  split
  · exact keeps_answer _ _ _ h
  · exact .ite (keeps_answer _ _ _ h) (keeps_answerOk _ _ (keeps_saveBatch _ (keeps_modifyBatch _ _ h)))

theorem keeps_readBatchBody (p : Port) (args : List Byte) (h : Keeps s t) : Keeps s (readBatchBody p args t) := by
  unfold readBatchBody
  refine .ite (keeps_answer _ _ _ h) ?_
  split
  · exact keeps_answer _ _ _ h
  · exact .ite (keeps_answer _ _ _ h) (keeps_sendRecords _ _ _ _ h)

/-! ### The roll former (07) -/

theorem keeps_raiseCut (h : Keeps s t) : Keeps s (raiseCut t) := keeps_raise _ _ h

theorem keeps_putPlan (p : Option Plan) (h : Keeps s t) : Keeps s (putPlan p t) := keeps_roll id id h

theorem keeps_installPlan (p : Plan) (h : Keeps s t) : Keeps s (installPlan p t) := by
  unfold installPlan
  split
  · exact keeps_evalHolds (keeps_putPlan _ (keeps_modifyRecord _ _ h))
  · exact keeps_roll id id h

theorem keeps_beginWaste (start : Pos) (h : Keeps s t) : Keeps s (beginWaste start t) := keeps_installPlan _ h

theorem keeps_placeEnd (p : Plan) (c : Pos) (h : Keeps s t) : Keeps s (placeEnd p c t) := by
  unfold placeEnd
  dsimp only
  split
  · exact keeps_modifyRecord _ _ (keeps_putPlan _ h)
  · exact keeps_putPlan _ h

theorem keeps_addWaste (length : Int) (h : Keeps s t) : Keeps s (addWaste length t) := keeps_roll id id h

theorem keeps_numberRoll (i : Fin 24) (h : Keeps s t) : Keeps s (numberRoll i t) := by
  unfold numberRoll
  exact keeps_modifyRecord _ _ (keeps_roll id id h)

theorem keeps_gradeRecord (i : Fin 24) (unconfirmed : Bool) (h : Keeps s t) : Keeps s (gradeRecord i unconfirmed t) :=
  keeps_joinLabel _ (keeps_modifyRecord _ _ (keeps_classify _ (keeps_numberRoll _ h)))

theorem keeps_freeWaste (i : Fin 24) (h : Keeps s t) : Keeps s (freeWaste i t) := keeps_freeRecord _ (keeps_addWaste _ h)

theorem keeps_finishRecord (i : Fin 24) (unconfirmed : Bool) (h : Keeps s t) :
    Keeps s (finishRecord i unconfirmed t) := by
  unfold finishRecord
  split
  · exact keeps_gradeRecord _ _ h
  · exact keeps_freeWaste _ h

theorem keeps_finishCut (x : CutRecord) (unconfirmed : Bool) (h : Keeps s t) : Keeps s (finishCut x unconfirmed t) := by
  unfold finishCut
  split
  · exact keeps_finishRecord _ _ h
  · split
    · exact h
    · exact keeps_addWaste _ h

theorem keeps_modifyCuts (st : CutState) (f : CutRecord → CutRecord) (h : Keeps s t) : Keeps s (modifyCuts st f t) :=
  keeps_roll id (fun hc => by simpa using hc) h

theorem keeps_pushCut (x : CutRecord) (h : Keeps s t) : Keeps s (pushCut x t) :=
  keeps_roll id (fun _ => lastN_length_le 2 _) h

theorem keeps_endAwaiting (h : Keeps s t) : Keeps s (endAwaiting t) := by
  unfold endAwaiting
  split
  · exact keeps_finishCut _ _ (keeps_roll id id (keeps_modifyCuts _ _ h))
  · exact h

theorem keeps_withdrawCut (h : Keeps s t) : Keeps s (withdrawCut t) := keeps_modifyCuts _ _ h

theorem keeps_takeTransport (c : Pos) (h : Keeps s t) : Keeps s (takeTransport c t) := by
  unfold takeTransport
  split
  · exact keeps_roll (fun _ => lastN_length_le 4 _) id h
  · exact h

theorem keeps_modifyTracked (p : Plan) (f : RollRecord → RollRecord) (h : Keeps s t) :
    Keeps s (modifyTracked p f t) := by
  unfold modifyTracked
  split
  · exact keeps_modifyRecord _ _ h
  · exact h

theorem keeps_closeRecord (p : Plan) (c : Pos) (h : Keeps s t) : Keeps s (closeRecord p c t) := by
  unfold closeRecord
  split
  · exact keeps_modifyRecord _ _ h
  · exact h

theorem keeps_fixCut (p : Plan) (c : Pos) (h : Keeps s t) : Keeps s (fixCut p c t) :=
  keeps_raiseCut (keeps_pushCut _ (keeps_closeRecord _ _ (keeps_putPlan _ h)))

theorem keeps_assertStrobe (position : Pos) (h : Keeps s t) : Keeps s (assertStrobe position t) := keeps_roll id id h

theorem keeps_consumeSegment (p : Plan) (c : Pos) (h : Keeps s t) : Keeps s (consumeSegment p c t) :=
  keeps_drainSamples _ _ _ (keeps_consumeMap _ _ _ h)

theorem keeps_strobeFor (p : Plan) (x : CutRecord) (h : Keeps s t) : Keeps s (strobeFor p x t) :=
  keeps_raiseCut (keeps_modifyCuts _ _ (keeps_installPlan _ (keeps_consumeSegment _ _ (keeps_modifyTracked _ _
    (keeps_modifyCuts _ _ (keeps_assertStrobe _ (keeps_endAwaiting h)))))))

theorem keeps_strobeNow (h : Keeps s t) : Keeps s (strobeNow t) := by
  unfold strobeNow
  split
  · exact keeps_strobeFor _ _ h
  · exact h

theorem keeps_settlePlan (fuel : Nat) (h : Keeps s t) : Keeps s (settlePlan fuel t) := by
  induction fuel generalizing t with
  | zero => exact h
  | succ fuel ih =>
    unfold settlePlan
    split
    · exact .ite (ih (keeps_strobeNow (keeps_fixCut _ _ h))) (keeps_fixCut _ _ h)
    · exact h

theorem keeps_cutDue (h : Keeps s t) : Keeps s (cutDue t) := keeps_settlePlan _ h

theorem keeps_strobe (h : Keeps s t) : Keeps s (strobe t) := by
  unfold strobe
  exact .ite (keeps_settlePlan _ (keeps_strobeNow h)) h

theorem keeps_strobeDeassert (h : Keeps s t) : Keeps s (strobeDeassert t) := by
  unfold strobeDeassert
  split
  · exact .ite (keeps_roll id id h) h
  · exact h

theorem keeps_confirmTimeout (h : Keeps s t) : Keeps s (confirmTimeout t) := by
  unfold confirmTimeout
  split
  · exact .ite (keeps_raiseCut (keeps_endAwaiting h)) h
  · exact h

theorem keeps_endWasteAt (clean : Pos) (h : Keeps s t) : Keeps s (endWasteAt clean t) := by
  unfold endWasteAt
  split
  · exact .ite (keeps_settlePlan _ (keeps_placeEnd _ _ h)) h
  · exact h

theorem keeps_forceWasteEnd (h : Keeps s t) : Keeps s (forceWasteEnd t) := by
  unfold forceWasteEnd
  split
  · exact .ite (keeps_settlePlan _ (keeps_placeEnd _ _ h)) h
  · exact h

theorem keeps_spliceFollowing (x : Pos) (h : Keeps s t) : Keeps s (spliceFollowing x t) := by
  unfold spliceFollowing
  split
  · split
    · exact .ite (keeps_putPlan _ h) h
    · exact h
  · exact h

theorem keeps_handSplice (x : Pos) (h : Keeps s t) : Keeps s (handSplice x t) := by
  have following := keeps_spliceFollowing x h
  unfold handSplice
  split
  · split
    · split
      · split
        · exact keeps_settlePlan _ (keeps_placeEnd _ _ h)
        · exact following
      · exact following
    · exact .ite (keeps_settlePlan _ (keeps_placeEnd _ _ h)) following
    · exact following
    · exact h
  · exact h

theorem keeps_spliceBody (p : Port) (args : List Byte) (h : Keeps s t) : Keeps s (spliceBody p args t) := by
  unfold spliceBody
  dsimp only
  split
  · rename_i hm
    exact keeps_respond _ _ _ _ (keeps_handSplice _ (keeps_map (addEntry_fits hm) h))
  · exact keeps_answer _ _ _ h

theorem keeps_cutFetchBody (p : Port) (h : Keeps s t) : Keeps s (cutFetchBody p t) := by
  unfold cutFetchBody
  exact .ite (keeps_answer _ _ _ h) (keeps_sendRecords _ _ _ _ h)

theorem keeps_enterDrain (h : Keeps s t) : Keeps s (enterDrain t) :=
  (keeps_emptySamples (keeps_map (fun _ => emptyMap_fits _) h)).same rfl

theorem keeps_afterReport (x : CutRecord) (h : Keeps s t) : Keeps s (afterReport x t) := by
  unfold afterReport
  exact .ite (.ite (keeps_advanceClosing (keeps_enterDrain (keeps_roll id id h))) (keeps_roll id id h)) h

theorem keeps_takeCutDone (x : CutRecord) (h : Keeps s t) : Keeps s (takeCutDone x t) :=
  keeps_afterReport _ (keeps_raiseCut (keeps_finishCut _ _ (keeps_modifyCuts _ _ h)))

theorem keeps_cutDoneBody (p : Port) (args : List Byte) (h : Keeps s t) : Keeps s (cutDoneBody p args t) := by
  unfold cutDoneBody
  split
  · exact keeps_answer _ _ _ h
  · exact keeps_answerOk _ _ (keeps_takeCutDone _ h)

theorem keeps_mergePlan (i : Fin 24) (p : Plan) (h : Keeps s t) : Keeps s (mergePlan i p t) := by
  unfold mergePlan
  split
  · exact keeps_freeRecord _ (keeps_wasteSamples _ (keeps_modifyRecord _ _ h))
  · exact h

theorem keeps_takeOver (i : Fin 24) (p : Plan) (h : Keeps s t) : Keeps s (takeOver i p t) :=
  keeps_modifyCuts _ _ (keeps_modifyRecord _ _ (keeps_putPlan _ (keeps_mergePlan _ _ h)))

theorem keeps_failTracked (i : Fin 24) (h : Keeps s t) : Keeps s (failTracked i t) := by
  unfold failTracked
  split
  · exact keeps_takeOver _ _ h
  · exact keeps_finishRecord _ _ (keeps_modifyRecord _ _ h)

theorem keeps_failUntracked (x : CutRecord) (h : Keeps s t) : Keeps s (failUntracked x t) := by
  unfold failUntracked
  dsimp only
  split
  · exact keeps_modifyTracked _ _ (keeps_finishCut _ _ h)
  · exact keeps_finishCut _ _ h

theorem keeps_takeCutFailed (x : CutRecord) (h : Keeps s t) : Keeps s (takeCutFailed x t) := by
  unfold takeCutFailed
  refine keeps_afterReport _ (keeps_raiseCut ?_)
  split
  · exact keeps_failTracked _ (keeps_modifyCuts _ _ h)
  · exact keeps_failUntracked _ (keeps_modifyCuts _ _ h)

theorem keeps_cutFailedBody (p : Port) (args : List Byte) (h : Keeps s t) : Keeps s (cutFailedBody p args t) := by
  unfold cutFailedBody
  split
  · exact keeps_answer _ _ _ h
  · exact keeps_answerOk _ _ (keeps_takeCutFailed _ h)

theorem keeps_breakRecord (p : Plan) (e : Pos) (h : Keeps s t) : Keeps s (breakRecord p e t) := by
  unfold breakRecord
  split
  · exact keeps_finishRecord _ _ (keeps_modifyRecord _ _ h)
  · split
    · exact h
    · exact keeps_addWaste _ h

theorem keeps_breakPlan (h : Keeps s t) : Keeps s (breakPlan t) := by
  unfold breakPlan
  split
  · exact keeps_putPlan _ (keeps_breakRecord _ _ (keeps_consumeSegment _ _ (keeps_withdrawCut h)))
  · exact h

theorem keeps_breakRolls (h : Keeps s t) : Keeps s (breakRolls t) := by
  have ended : Keeps s { breakPlan (endAwaiting t) with
      roll := { (breakPlan (endAwaiting t)).roll with transport := [] } } :=
    keeps_roll (fun _ => Nat.zero_le _) id (keeps_breakPlan (keeps_endAwaiting h))
  unfold breakRolls
  exact .ite (keeps_raiseCut ended) ended

theorem keeps_closingCutOf (p : Plan) (h : Keeps s t) : Keeps s (closingCutOf p t) :=
  keeps_raiseCut (keeps_putPlan _ (keeps_consumeSegment _ _ (keeps_modifyTracked _ _ (keeps_assertStrobe _
    (keeps_pushCut _ (keeps_withdrawCut (keeps_endAwaiting h)))))))

theorem keeps_closingCut (h : Keeps s t) : Keeps s (closingCut t) := by
  unfold closingCut
  split
  · exact (keeps_closingCutOf _ h).same rfl
  · exact keeps_enterDrain h

theorem keeps_rollFlagBody (p : Port) (args : List Byte) (h : Keeps s t) : Keeps s (rollFlagBody p args t) := by
  unfold rollFlagBody
  split
  · exact keeps_answer _ _ _ h
  · exact .ite (keeps_answer _ _ _ h) (keeps_respond _ _ _ _ (keeps_modifyRecord _ _ h))

theorem keeps_readRollBody (p : Port) (args : List Byte) (h : Keeps s t) : Keeps s (readRollBody p args t) := by
  unfold readRollBody
  split
  · exact keeps_answer _ _ _ h
  · exact .ite (keeps_answer _ _ _ h) (keeps_sendRecords _ _ _ _ h)

/-! ### Mark capture (03) -/

theorem keeps_putChannel (ch : Channel) (c : ChannelRecord) (h : Keeps s t) : Keeps s (putChannel ch c t) := h.same rfl

theorem keeps_armPhased (ch : Channel) (limit : Pos) (h : Keeps s t) : Keeps s (armPhased ch limit t) := by
  unfold armPhased
  split <;> exact keeps_putChannel _ _ h

theorem keeps_phasedFollow (before : Option Pos) (ch : Channel) (h : Keeps s t) :
    Keeps s (phasedFollow before ch t) := by
  unfold phasedFollow
  refine .ite h (.ite (keeps_armPhased _ _ h) ?_)
  split
  · exact keeps_armPhased _ _ h
  all_goals exact h

theorem keeps_phasedFollowAll (before : Option Pos) (h : Keeps s t) : Keeps s (phasedFollowAll before t) := by
  unfold phasedFollowAll
  exact .ite h (keeps_phasedFollow _ _ (keeps_phasedFollow _ _ h))

theorem keeps_phasedDrop (h : Keeps s t) : Keeps s (phasedDrop t) := keeps_putChannel _ _ (keeps_putChannel _ _ h)

theorem keeps_phasedNext (ch : Channel) (x : Pos) (h : Keeps s t) : Keeps s (phasedNext ch x t) :=
  keeps_armPhased _ _ h

theorem keeps_acceptUnit (k : Fin 7) (position : Pos) (c : ChannelRecord) (h : Keeps s t) :
    Keeps s (acceptUnit k position c t) := by
  have set : Keeps s (putChannel (.unit k) (c.accept position).shut t) := keeps_putChannel _ _ h
  exact set.same rfl

theorem keeps_openUnit (c0 : Pos) (k : Fin 7) (h : Keeps s t) : Keeps s (openUnit c0 k t) := by
  unfold openUnit
  dsimp only
  refine .ite h ?_
  split
  · exact keeps_acceptUnit _ _ _ h
  · exact keeps_putChannel _ _ h

theorem keeps_openFrame (c0 : Pos) (h : Keeps s t) : Keeps s (openFrame c0 t) :=
  keeps_foldl (fun _ _ => keeps_openUnit _ _) _ (h.same rfl)

theorem keeps_closeUnit (f : Frame) (k : Fin 7) (h : Keeps s t) : Keeps s (closeUnit f k t) := by
  unfold closeUnit
  exact .ite h (keeps_putChannel _ _ h)

theorem keeps_capture (c : Capture) (h : Keeps s t) : Keeps s { t with capture := c } := h.same rfl

theorem keeps_closeUnits (f : Frame) (h : Keeps s t) :
    Keeps s ((allRows 7).foldl (fun s k => closeUnit f k s) t) :=
  keeps_foldl (fun _ _ => keeps_closeUnit _ _) _ h

theorem keeps_finishFrame (f : Frame) (h : Keeps s t) : Keeps s (finishFrame f t) := by
  unfold finishFrame
  exact keeps_capture _ (keeps_closeUnits f h)

theorem keeps_closeFrame (h : Keeps s t) : Keeps s (closeFrame t) := by
  unfold closeFrame
  split
  · exact keeps_endWasteAt _ (keeps_registerFrame _ (keeps_finishFrame _ h))
  · exact h

theorem keeps_acceptKey (h : Keeps s t) : Keeps s (acceptKey t) :=
  keeps_phasedFollowAll _ (keeps_openFrame _ (keeps_keyCapture _ _ (keeps_putChannel _ _ h)))

theorem keeps_acceptIndex (h : Keeps s t) : Keeps s (acceptIndex t) := keeps_embossFrame _ (keeps_putChannel _ _ h)

theorem keeps_keyReturned (h : Keeps s t) : Keeps s (keyReturned t) :=
  keeps_phasedDrop (keeps_openUnverified (keeps_eachUnit _ (keeps_clock id h)))

theorem keeps_missKey (ch : Channel) (x : Pos) (h : Keeps s t) : Keeps s (missKey ch x t) := by
  unfold missKey returned
  refine .ite ?_ (keeps_putChannel _ _ h)
  split
  · exact keeps_keyReturned (keeps_putChannel _ _ h)
  · exact keeps_idxReturned (keeps_putChannel _ _ h)
  all_goals exact keeps_putChannel _ _ h

theorem keeps_openWindow (ch : Channel) (h : Keeps s t) : Keeps s (openWindow ch t) := by
  unfold openWindow
  exact .ite (keeps_putChannel _ _ h) h

theorem keeps_endWindow (ch : Channel) (h : Keeps s t) : Keeps s (endWindow ch t) := by
  unfold endWindow
  refine .ite ?_ h
  dsimp only
  split
  · exact keeps_missKey _ _ h
  · exact keeps_missKey _ _ h
  · exact keeps_putChannel _ _ h
  all_goals exact keeps_phasedNext _ _ (keeps_putChannel _ _ h)

theorem keeps_keyEdge {ch : Channel} {accept : State → State} (haccept : Keeps s (accept t)) (h : Keeps s t) :
    Keeps s (keyEdge ch accept t) := by
  unfold keyEdge
  exact .ite haccept (keeps_putChannel _ _ h)

theorem keeps_phasedEdge {ch : Channel} {hand : State → State} (hhand : ∀ u, Keeps s u → Keeps s (hand u))
    (h : Keeps s t) : Keeps s (phasedEdge ch hand t) := by
  unfold phasedEdge
  exact .ite (hhand _ (keeps_phasedNext _ _ (keeps_putChannel _ _ h))) (keeps_putChannel _ _ h)

theorem keeps_unitEdge (k : Fin 7) (h : Keeps s t) : Keeps s (unitEdge k t) := by
  unfold unitEdge
  exact .ite (keeps_putChannel _ _ h) (.ite (keeps_acceptUnit _ _ _ h) (keeps_putChannel _ _ h))

theorem keeps_markEdge (ch : Channel) (falling : Bool) (h : Keeps s t) : Keeps s (markEdge ch falling t) := by
  unfold markEdge takeEdge
  refine .ite ?_ h
  split
  · exact keeps_keyEdge (keeps_acceptKey h) h
  · exact keeps_keyEdge (keeps_acceptIndex h) h
  · exact keeps_unitEdge _ h
  · exact keeps_phasedEdge (fun _ => keeps_holdMke _) h
  · exact keeps_phasedEdge (fun _ => keeps_takeTransport _) h

theorem keeps_coastingBoundary (h : Keeps s t) : Keeps s (coastingBoundary t) := by
  unfold coastingBoundary
  exact .ite (keeps_phasedFollowAll _ (keeps_coast h)) h

theorem keeps_breakChannels (h : Keeps s t) : Keeps s (breakChannels t) :=
  keeps_idxReturned (keeps_keyReturned (h.same rfl))

/-! ### The encoder (02) -/

theorem keeps_settleEvents (h : Keeps s t) : Keeps s (settleEvents t) := by
  unfold settleEvents
  exact keeps_forceWasteEnd (keeps_strobeDeassert (keeps_strobe (keeps_cutDue (keeps_confirmTimeout (keeps_endPulse
    (keeps_closeFrame (keeps_foldl (fun _ _ => keeps_endWindow _) _ (keeps_coastingBoundary
      (keeps_foldl (fun _ _ => keeps_openWindow _) _ (keeps_reachWatches h))))))))))

theorem advance_measured (r : Recipe) (x : RepeatClock) : (x.advance r).measured = x.measured := by
  unfold RepeatClock.advance
  split <;> rfl

theorem keeps_advanceWeb (h : Keeps s t) : Keeps s (advanceWeb t) := by
  unfold advanceWeb
  exact .ite (keeps_evalHolds ((keeps_clock (fun hm => by rwa [advance_measured]) h).same rfl)) (h.same rfl)

theorem keeps_forwardStep (h : Keeps s t) : Keeps s (forwardStep t) := by
  have paired : Keeps s (modifyWeb (fun x => { x with pair := x.pair.forward }) t) := h.same rfl
  unfold forwardStep
  exact .ite paired (.ite (paired.same rfl) (keeps_advanceWeb (keeps_settleEvents paired)))

theorem keeps_reverseStep (h : Keeps s t) : Keeps s (reverseStep t) := by
  unfold reverseStep
  exact .ite (h.same rfl) (h.same rfl)

/-! ### Line control (01) -/

theorem keeps_openFresh (order : Nat) (slot : Option (Fin 4)) (h : Keeps s t) : Keeps s (openFresh order slot t) :=
  keeps_enterLineState _ (keeps_initRun _ _ (h.same rfl))

/-- The line state and a request in execution are no part of the store queue. -/
theorem enterLineState_store (st : LineState) (s : State) : (enterLineState st s).store = s.store := by
  unfold enterLineState evalHolds
  repeat' split
  all_goals rfl

theorem keeps_resumeSlot (p : Port) (order : Nat) (n : Fin 4) (room : t.storeFull = false) (h : Keeps s t) :
    Keeps s (resumeSlot p order n t) := by
  unfold resumeSlot
  refine keeps_enqueue (fun _ => ?_) (keeps_keepExecuting _ _ _ (keeps_enterLineState _ (h.same rfl)))
  have queue : (keepExecuting p Req.orderOpen.role.code .opening (enterLineState .opening
      { t with line := { t.line with order := some order, slot := some n } })).store = t.store :=
    enterLineState_store _ _
  rw [queue]
  exact room_of_not_full room

theorem enqueue_behind {op : StoreOp} (hq : s.store.queue ≠ []) : enqueue op s = pushOp op s := by
  rw [enqueue, if_neg (by simpa using hq)]

/-- A read queued into an empty queue starts at once (R167, R168). -/
theorem enqueue_read {op : StoreOp} (hq : s.store.queue = []) (hread : op.isRead = true) :
    enqueue op s = startHead op (sampleEnable (pushOp op s)) := by
  have queue : (pushOp op s).store.queue = [op] := by simp [pushOp, hq]
  rw [enqueue, hq, List.isEmpty_nil, if_pos rfl, show headFuel = 63 + 1 from rfl, dealHead]
  simp only [queue, hread, if_true]

/-- A write or erase queued into an empty queue starts or waits for STORE_EN, unless its slot is DEGRADED or its journal
is full (R167, R168, R171, R173). -/
theorem enqueue_write {op : StoreOp} (hq : s.store.queue = []) (hread : op.isRead = false)
    (hslot : targetDegraded op s = false) (hfull : appendIsFull op s = false) :
    enqueue op s =
      if s.store.enabled then startHead op (sampleEnable (pushOp op s))
      else ({ sampleEnable (pushOp op s) with
        store := { (sampleEnable (pushOp op s)).store with head := .waiting } }).raiseAll .store := by
  have queue : (pushOp op s).store.queue = [op] := by simp [pushOp, hq]
  have slot : targetDegraded op (pushOp op s) = false := hslot
  have full : appendIsFull op (pushOp op s) = false := by cases op <;> exact hfull
  rw [enqueue, hq, List.isEmpty_nil, if_pos rfl, show headFuel = 63 + 1 from rfl, dealHead]
  simp only [queue, hread, slot, full, Bool.false_eq_true, if_false]
  rfl

@[simp] theorem startHead_queue (op : StoreOp) (s : State) : (startHead op s).store.queue = s.store.queue := by
  cases op with
  | batchWrite n k =>
    simp only [startHead]
    split <;> rfl
  | journalAppend n i =>
    simp only [startHead]
    rw [modifyRecord_eq]
  | geometryRead | slotRead | journalRead | headerWrite | recipeWrite | geometryWrite | slotErase => rfl

/-- A write that is no append, to a slot that is not DEGRADED, stays in its place in the queue. -/
theorem enqueue_queue {op : StoreOp} (hread : op.isRead = false) (hslot : targetDegraded op s = false)
    (hfull : appendIsFull op s = false) : (enqueue op s).store.queue = s.store.queue ++ [op] := by
  by_cases hq : s.store.queue = []
  · rw [enqueue_write hq hread hslot hfull]
    split
    · rw [startHead_queue]; rfl
    · rfl
  · rw [enqueue_behind hq]; rfl

@[simp] theorem reachWatch_store (p : Port) (s : State) : (reachWatch p s).store = s.store := by
  unfold reachWatch
  repeat' split
  all_goals rfl

theorem initRun_store (batches : List Batch) (highest : Nat) (s : State) :
    (initRun batches highest s).store = s.store := by
  simp only [initRun, reachWatches, allPorts, List.foldl_cons, List.foldl_nil, reachWatch_store]
  split <;> rfl

theorem openFresh_store (order : Nat) (slot : Option (Fin 4)) (s : State) :
    (openFresh order slot s).store = s.store :=
  (enterLineState_store _ _).trans (initRun_store _ _ _)

/-- The slot that an open claims is EMPTY. -/
theorem emptySlot_empty {n : Fin 4} (h : emptySlot s = some n) : (s.dir n).state = .empty := by
  have := List.mem_of_mem_head? h
  simp only [Table.which, List.mem_filter, Bool.and_eq_true, beq_iff_eq] at this
  exact this.2.1

theorem keeps_claimSlot (order : Nat) (n : Fin 4) (hempty : (t.dir n).state = .empty) (room : t.store.queue.length < 7)
    (h : Keeps s t) : Keeps s (claimSlot order n t) := by
  have opened := keeps_openFresh order (some n) h
  have store : (openFresh order (some n) t).store = t.store := openFresh_store _ _ _
  have dir : ((openFresh order (some n) t).dir n).state ≠ .degraded := by
    rw [State.dir, store, ← State.dir, hempty]; decide
  have claimed : headerContent n (claimEntry order) (openFresh order (some n) t)
      = modifyDir n (claimEntry order) (openFresh order (some n) t) := if_neg dir
  have ready : targetDegraded (.headerWrite n .active)
      (modifyDir n (claimEntry order) (openFresh order (some n) t)) = false := by
    simp [targetDegraded, StoreOp.slot?, modifyDir, State.dir, claimEntry]
  have queue : (modifyDir n (claimEntry order) (openFresh order (some n) t)).store.queue = t.store.queue := by
    show (openFresh order (some n) t).store.queue = _
    rw [store]
  unfold claimSlot
  rw [claimed]
  refine keeps_enqueue (fun _ => ?_) (keeps_enqueue (fun _ => ?_) (keeps_modifyDir _ _ opened))
  · rw [enqueue_queue rfl ready rfl, queue, List.length_append, List.length_singleton]
    omega
  · rw [queue]; omega

theorem keeps_orderOpenBody (p : Port) (args : List Byte) (h : Keeps s t) : Keeps s (orderOpenBody p args t) := by
  unfold orderOpenBody
  refine .ite (keeps_answer _ _ _ h) (.ite (keeps_answer _ _ _ h) ?_)
  split
  · split
    · exact keeps_answer _ _ _ h
    · rename_i hroom
      exact keeps_resumeSlot _ _ _ (by simpa using hroom) h
  · split
    · rename_i n hn
      split
      · exact keeps_answer _ _ _ h
      · rename_i hroom
        exact keeps_answerOk _ _ (keeps_claimSlot _ _ (emptySlot_empty hn) (not_le.1 hroom) h)
    · exact .ite (keeps_answerOk _ _ (keeps_openFresh _ _ h)) (keeps_answer _ _ _ h)

theorem keeps_disableChannels (h : Keeps s t) : Keeps s (disableChannels t) := h.same rfl

theorem keeps_parkEmboss (h : Keeps s t) : Keeps s (parkEmboss t) := keeps_enterNip _ (keeps_putEmboss _ h)

theorem keeps_enterClosing (h : Keeps s t) : Keeps s (enterClosing t) := by
  unfold enterClosing
  exact keeps_closingCut (keeps_haltClock (keeps_parkEmboss (keeps_eachUnit _ (keeps_disableChannels
    (keeps_enterLineState _ (h.same rfl))))))

theorem keeps_orderCloseBody (p : Port) (h : Keeps s t) : Keeps s (orderCloseBody p t) :=
  keeps_advanceClosing (keeps_enterClosing (keeps_answerOk .orderClose p h))

theorem keeps_recipeWriteBody (p : Port) (h : Keeps s t) : Keeps s (recipeWriteBody p t) := by
  unfold recipeWriteBody
  refine .ite (keeps_answer _ _ _ h) (.ite (keeps_answer _ _ _ h) ?_)
  split
  · exact keeps_answer _ _ _ h
  · rename_i hroom
    refine keeps_respond _ _ _ _ ?_
    unfold putRecipe
    dsimp only
    split
    · rename_i hn
      refine keeps_enqueue (fun _ => ?_) (h.same rfl)
      exact room_of_not_full (t := t) (by simpa [storeRefuses, hn] using hroom)
    · exact h.same rfl

theorem keeps_takeTune (tune : Tune) (h : Keeps s t) : Keeps s (takeTune tune t) := by
  unfold takeTune
  exact .ite (h.same rfl) (keeps_applyTune _ h)

theorem keeps_recipeTuneBody (p : Port) (h : Keeps s t) : Keeps s (recipeTuneBody p t) := by
  unfold recipeTuneBody
  exact .ite (keeps_answer _ _ _ h) (.ite (keeps_answer _ _ _ h) (.ite (keeps_answer _ _ _ h)
    (keeps_respond _ _ _ _ (.ite h (keeps_takeTune _ h)))))

theorem keeps_geometryWriteBody (p : Port) (h : Keeps s t) : Keeps s (geometryWriteBody p t) := by
  unfold geometryWriteBody
  refine .ite (keeps_answer _ _ _ h) (.ite (keeps_answer _ _ _ h) ?_)
  split
  · exact keeps_answer _ _ _ h
  · rename_i hroom
    simp only [Bool.or_eq_true, not_or, Bool.not_eq_true] at hroom
    dsimp only
    split
    · exact keeps_respond _ _ _ _ h
    · exact keeps_respond _ _ _ _ (keeps_enqueue (fun _ => room_of_not_full (t := t) hroom.2) (h.same rfl))

theorem keeps_startBody (p : Port) (h : Keeps s t) : Keeps s (startBody p t) := by
  have begun : Keeps s (startEmboss (eachUnit (startUnit t.recipe) (enableChannels (enterLineState .run t)))) := by
    have enabled : Keeps s (eachUnit (startUnit t.recipe) (enableChannels (enterLineState .run t))) :=
      keeps_eachUnit _ ((keeps_enterLineState _ h).same rfl)
    unfold startEmboss
    exact .ite (keeps_judgeEmboss (keeps_enterNip _ (keeps_putEmboss _ enabled))) enabled
  unfold startBody
  split
  · exact keeps_respond _ _ _ _ h
  · refine keeps_answerOk _ _ (.ite (keeps_beginWaste _ (keeps_startClock begun)) ?_)
    unfold startFromStopped
    exact .ite (keeps_beginWaste _ (keeps_setBreakFlag _ (keeps_enterLineState _ h))) (keeps_enterLineState _ h)

theorem keeps_stopBody (p : Port) (h : Keeps s t) : Keeps s (stopBody p t) :=
  keeps_answerOk _ _ (keeps_enterLineState _ (keeps_setBreakFlag _ (keeps_discardTune h)))

theorem keeps_brkBody (p : Port) (h : Keeps s t) : Keeps s (brkBody p t) := by
  have held (u : State) (hu : Keeps s u) : Keeps s (breakEmboss u) := by
    unfold breakEmboss
    exact keeps_judgeEmboss (.ite (hu.same rfl) (keeps_orderNipOpen _ (hu.same rfl)))
  unfold brkBody takeBreak
  exact keeps_answerOk _ _ (.ite (keeps_setBreakFlag _ h)
    (keeps_setBreakFlag _ (keeps_enterLineState _ (keeps_discardTune (keeps_forgetMeasured (held _
      (keeps_breakChannels (keeps_emptySamples (keeps_map (fun _ => emptyMap_fits _) (keeps_breakRolls h))))))))))

theorem keeps_resetPart (s : State) : Keeps s (resetPart s) := by
  intro x hx
  cases x with
  | fifos => exact Whole.resetWithinLimits.fifos
  | store => exact (by decide : 1 ≤ 8)
  | measured | transport | cuts | samples | labels => exact Nat.zero_le _
  | map => exact ⟨Nat.zero_le _, .nil⟩
  | banks => exact keeps_interruptStore (.refl s) .banks hx

/-! ### The station ports (11) -/

theorem keeps_responseRead (p : Port) (count : Nat) (h : Keeps s t) : Keeps s (responseRead p count t) := by
  unfold responseRead
  split
  · exact .ite (keeps_port (fun _ => rfl) (keeps_shiftOut _ _ h)) (keeps_shiftOut _ _ h)
  · exact keeps_shiftOut _ _ h

theorem keeps_statusRead (p : Port) (count : Nat) (h : Keeps s t) : Keeps s (statusRead p count t) := by
  unfold statusRead
  exact .ite (keeps_shiftOut _ _ h) (keeps_port (fun _ => rfl) (keeps_shiftOut _ _ h))

theorem keeps_dropTransfer (p : Port) (h : Keeps s t) : Keeps s (dropTransfer p t) := by
  unfold dropTransfer
  split
  · exact keeps_respond _ _ _ _ h
  all_goals exact h

theorem keeps_flushFifo (p : Port) (h : Keeps s t) : Keeps s (flushFifo p t) :=
  keeps_dropTransfer p (keeps_modifyPort (fun _ _ => Nat.zero_le _) h)

theorem keeps_fifoDirection (p : Port) (direction : Byte) (h : Keeps s t) : Keeps s (fifoDirection p direction t) := by
  unfold fifoDirection
  exact .ite (keeps_port (fun _ => rfl) (keeps_shiftOut _ _ h)) (.ite (keeps_shiftOut _ _ h)
    (keeps_port (fun _ => rfl) (keeps_flushFifo _ (keeps_shiftOut _ _ h))))

theorem dataByte_fits (x : PortState) (b : Byte) (hx : x.fifo.length ≤ 256) : (x.dataByte b).1.fifo.length ≤ 256 := by
  unfold PortState.dataByte
  split
  · split
    · rename_i hf
      rw [hf, List.length_cons] at hx
      exact Nat.le_of_succ_le hx
    · exact hx
  · split
    · rename_i hroom
      simpa using hroom
    · exact hx

theorem dataBytes_fits (bytes : List Byte) (x : PortState) (hx : x.fifo.length ≤ 256) :
    (x.dataBytes bytes).1.fifo.length ≤ 256 := by
  induction bytes generalizing x with
  | nil => exact hx
  | cons b rest ih => exact ih _ (dataByte_fits x b hx)

theorem keeps_fifoData (p : Port) (bytes : List Byte) (h : Keeps s t) : Keeps s (fifoData p bytes t) :=
  keeps_modifyPort (dataBytes_fits bytes) (keeps_shiftOut _ _ h)

/-- A port takes a value whose FIFO fits. -/
theorem keeps_setPort {p : Port} {f : PortState → PortState} (hf : (f (t.port p)).fifo.length ≤ 256) (h : Keeps s t) :
    Keeps s (t.modifyPort p f) := by
  have constant : t.modifyPort p f = t.modifyPort p (fun _ => f (t.port p)) := rfl
  rw [constant]
  exact keeps_modifyPort (fun _ _ => hf) h

/-- Two more bytes at most join a FIFO with two bytes of room. -/
theorem append_two_fits {xs ys : List Byte} (hroom : ¬ 254 < xs.length) : (xs ++ ys.take 2).length ≤ 256 := by
  rw [List.length_append, List.length_take]; omega

theorem keeps_writeLate (p : Port) (h : Keeps s t) : Keeps s (writeLate p t) := by
  unfold writeLate
  split
  · exact h
  · rename_i hroom
    exact keeps_setPort (append_two_fits hroom) h

theorem keeps_writeWord (p : Port) (h : Keeps s t) : Keeps s (writeWord p t) := by
  unfold writeWord
  split
  · split
    · exact h
    · rename_i code rest result discard _ hroom
      have written : Keeps s (t.modifyPort p (fun x => { x with
          fifo := x.fifo ++ rest.take 2, late := []
          request := some ⟨code, .words (rest.drop 2) result, discard⟩ })) :=
        keeps_setPort (append_two_fits hroom) h
      exact .ite (keeps_respond _ _ _ _ written) written
  all_goals exact keeps_writeLate p h

theorem keeps_unknownRequest (p : Port) (code : Byte) (args : List Byte) (h : Keeps s t) :
    Keeps s (unknownRequest p code args t) := by
  have shifted : Keeps s (requestShift p args t) := keeps_shiftOut _ _ h
  unfold unknownRequest
  exact .ite (keeps_discardRequest _ shifted) (keeps_respond _ _ _ _ (.ite shifted (keeps_purgeMistake _ shifted)))

theorem keeps_discardedRequest (p : Port) (args : List Byte) (h : Keeps s t) : Keeps s (discardedRequest p args t) := by
  unfold discardedRequest
  exact .ite (keeps_discardRequest _ (keeps_shiftOut _ _ h)) h

theorem keeps_ignoredTransaction (p : Port) (h : Keeps s t) : Keeps s (ignoredTransaction p t) := by
  unfold ignoredTransaction setFrameFlag
  exact keeps_port (fun _ => rfl) (keeps_shiftOut _ _ h)

theorem keeps_viewDataRead (p : Port) (count : Nat) (h : Keeps s t) : Keeps s (viewDataRead p count t) := by
  unfold viewDataRead
  exact keeps_port (fun _ => rfl) (keeps_shiftOut _ _ h)

theorem keeps_watchSetBody (p : Port) (args : List Byte) (h : Keeps s t) : Keeps s (watchSetBody p args t) :=
  keeps_answerOk _ _ (keeps_reachWatch _ (keeps_port (fun _ => rfl) h))

theorem keeps_setPurge (p : Port) (x : Purge) (h : Keeps s t) : Keeps s (setPurge p x t) := keeps_port (fun _ => rfl) h

theorem keeps_refusePurge (r : Req) (p : Port) (status : Status) (h : Keeps s t) : Keeps s (refusePurge r p status t) :=
  keeps_answer _ _ _ (keeps_purgeMistake _ h)

theorem keeps_purgeBeginBody (p : Port) (args : List Byte) (h : Keeps s t) : Keeps s (purgeBeginBody p args t) := by
  unfold purgeBeginBody
  split
  · exact keeps_refusePurge _ _ _ h
  · exact .ite (keeps_refusePurge _ _ _ h) (keeps_answerOk _ _ (keeps_setPurge _ _ h))

theorem keeps_purgeConfirmBody (p : Port) (args : List Byte) (h : Keeps s t) : Keeps s (purgeConfirmBody p args t) := by
  unfold purgeConfirmBody
  split
  · exact .ite (keeps_answerOk _ _ (keeps_setPurge _ _ h)) (keeps_refusePurge _ _ _ h)
  all_goals exact keeps_refusePurge _ _ _ h

theorem keeps_purgeCommitBody (p : Port) (args : List Byte) (h : Keeps s t) : Keeps s (purgeCommitBody p args t) := by
  have refused (status : Status) := keeps_refusePurge .purgeCommit p status h
  unfold purgeCommitBody
  split
  · exact refused _
  · split
    · refine .ite (refused _) (.ite (refused _) ?_)
      unfold commitPurge
      refine .ite (keeps_answerOk _ _ (keeps_setPurge _ _ h)) ?_
      split
      · exact keeps_answer _ _ _ h
      · rename_i hroom
        have room := room_of_not_full (t := t) (by simpa using hroom)
        exact keeps_answerOk _ _ (keeps_enqueue (fun _ => room) (keeps_modifyDir _ _ (keeps_setPurge _ _ h)))
    all_goals exact refused _

theorem keeps_clearProtectBody (p : Port) (h : Keeps s t) : Keeps s (clearProtectBody p t) :=
  keeps_answerOk _ _ (keeps_port (fun _ => rfl) h)

theorem keeps_journalReadBody (p : Port) (args : List Byte) (h : Keeps s t) : Keeps s (journalReadBody p args t) := by
  unfold journalReadBody
  split
  · exact keeps_answer _ _ _ h
  · refine .ite (keeps_answer _ _ _ h) (.ite (keeps_answer _ _ _ h) ?_)
    split
    · exact keeps_answer _ _ _ h
    · rename_i hroom
      have room := room_of_not_full (t := t) (by simpa using hroom)
      exact keeps_enqueue (fun _ => room) (keeps_keepExecuting _ _ _ h)

theorem keeps_resetPort (p : Port) (h : Keeps s t) : Keeps s (resetPort p t) :=
  keeps_modifyPort (fun _ _ => Nat.zero_le _) h

/-! ### The events of the order store (10) -/

theorem keeps_storeEnRise (h : Keeps s t) : Keeps s (storeEnRise t) := by
  have raised : Keeps s (setEnable true t) := h.same rfl
  unfold storeEnRise
  dsimp only
  split
  · exact keeps_advanceClosing (keeps_dealHead _ raised)
  all_goals exact raised

theorem keeps_geometryReadEnd (faults : BitVec 5) (h : Keeps s t) : Keeps s (geometryReadEnd faults t) := by
  unfold geometryReadEnd
  split
  · exact keeps_endHead_id (keeps_geometryReadEffects _ h)
  · exact h

theorem keeps_slotReadEnd (verified : Bool) (h : Keeps s t) : Keeps s (slotReadEnd verified t) := by
  unfold slotReadEnd
  split
  · exact keeps_endHead (keeps_slotReadEffects _ _ h) fun _ => keeps_resumeHeader _
  · exact h

theorem keeps_journalReadEnd (verified : Bool) (h : Keeps s t) : Keeps s (journalReadEnd verified t) := by
  unfold journalReadEnd
  split
  · exact keeps_endHead_id (keeps_journalReadEffects _ _ _ _ h)
  · exact h

theorem keeps_headerWriteEnd (verified : Bool) (h : Keeps s t) : Keeps s (headerWriteEnd verified t) := by
  unfold headerWriteEnd
  split
  · exact keeps_endHead_id (keeps_headerWriteEffects _ _ _ _ h)
  · exact h

theorem keeps_recipeWriteEnd (verified : Bool) (h : Keeps s t) : Keeps s (recipeWriteEnd verified t) := by
  unfold recipeWriteEnd
  split
  · exact keeps_endHead_id (keeps_recipeWriteEffects _ _ _ h)
  · exact h

theorem keeps_batchWriteEnd (verified : Bool) (h : Keeps s t) : Keeps s (batchWriteEnd verified t) := by
  unfold batchWriteEnd
  split
  · exact keeps_endHead_id (keeps_batchWriteEffects _ _ _ h)
  · exact h

theorem keeps_journalAppendEnd (verified : Bool) (h : Keeps s t) : Keeps s (journalAppendEnd verified t) := by
  unfold journalAppendEnd
  split
  · exact keeps_endHead_id (keeps_journalAppendEffects _ _ _ _ h)
  · exact h

theorem keeps_geometryWriteEnd (verified : Bool) (h : Keeps s t) : Keeps s (geometryWriteEnd verified t) := by
  unfold geometryWriteEnd
  split
  · exact keeps_endHead_id (keeps_geometryWriteEffects _ _ h)
  · exact h

theorem keeps_slotEraseEnd (verified : Bool) (h : Keeps s t) : Keeps s (slotEraseEnd verified t) := by
  unfold slotEraseEnd
  split
  · exact keeps_endHead_id (keeps_slotEraseEffects _ _ h)
  · exact h

/-! ### Every command -/

/-- A command keeps every limit, by the lemma for what it does. -/
theorem exec_keeps {i : Instr} {s t : State} (h : exec i s = .next t) : Keeps s t := by
  have start := Keeps.refl s
  cases i
  case requestUnknownCode p code args =>
    simp only [exec, execRequestUnknownCode] at h
    split at h
    · cases h
    · obtain rfl := Host.Outcome.next.inj h
      exact keeps_unknownRequest _ _ _ start
  case accessByteInvalid p access =>
    simp only [exec, execAccessByteInvalid] at h
    split at h
    · cases h
    · obtain rfl := Host.Outcome.next.inj h
      exact keeps_ignoredTransaction _ start
  all_goals obtain rfl := Host.Outcome.next.inj h
  case coldReset => exact keeps_resetPart s
  case portReset => exact keeps_resetPort _ start
  case forwardStep => exact keeps_forwardStep start
  case reverseStep => exact keeps_reverseStep start
  case faultStep => exact start.same rfl
  case markEdge => exact keeps_markEdge _ _ start
  case storeEnRise => exact keeps_storeEnRise start
  case storeEnFall => exact start.same rfl
  case windowOpen => exact keeps_openWindow _ start
  case windowEnd => exact keeps_endWindow _ start
  case frameClose => exact keeps_closeFrame start
  case coastingBoundary => exact keeps_coastingBoundary start
  case rpoPulseEnd => exact keeps_endPulse start
  case cutDue => exact keeps_cutDue start
  case cutStrobe => exact keeps_strobe start
  case cutStrobeDeassert => exact keeps_strobeDeassert start
  case confirmTimeout => exact keeps_confirmTimeout start
  case wasteEndForced => exact keeps_forceWasteEnd start
  case watchReached => exact keeps_reachWatch _ start
  case trimTimeout => exact keeps_trimTimeout _ start
  case embTimeout => exact keeps_embTimeout start
  case geometryReadEnd => exact keeps_geometryReadEnd _ start
  case slotReadEnd => exact keeps_slotReadEnd _ start
  case journalReadEnd => exact keeps_journalReadEnd _ start
  case headerWriteEnd => exact keeps_headerWriteEnd _ start
  case recipeWriteEnd => exact keeps_recipeWriteEnd _ start
  case batchWriteEnd => exact keeps_batchWriteEnd _ start
  case journalAppendEnd => exact keeps_journalAppendEnd _ start
  case geometryWriteEnd => exact keeps_geometryWriteEnd _ start
  case slotEraseEnd => exact keeps_slotEraseEnd _ start
  case orderOpen => exact keeps_takeRequest (fun _ => keeps_orderOpenBody _ _) start
  case orderClose => exact keeps_takeRequest (fun _ => keeps_orderCloseBody _) start
  case recipeWrite => exact keeps_takeRequest (fun _ => keeps_recipeWriteBody _) start
  case recipeTune => exact keeps_takeRequest (fun _ => keeps_recipeTuneBody _) start
  case geometryWrite => exact keeps_takeRequest (fun _ => keeps_geometryWriteBody _) start
  case start => exact keeps_takeRequest (fun _ => keeps_startBody _) start
  case stop => exact keeps_takeRequest (fun _ => keeps_stopBody _) start
  case trimFetch => exact keeps_takeRequest (fun _ => keeps_trimFetchBody _) start
  case trimApplied => exact keeps_takeRequest (fun _ => keeps_trimAppliedBody _ _) start
  case trimHold => exact keeps_takeRequest (fun _ => keeps_trimHoldBody _ _) start
  case sampleFlush => exact keeps_takeRequest (fun _ => keeps_sampleFlushBody _ _) start
  case embFetch => exact keeps_takeRequest (fun _ => keeps_embFetchBody _) start
  case embApplied => exact keeps_takeRequest (fun _ => keeps_embAppliedBody _ _) start
  case nipClosed => exact keeps_takeRequest (fun _ => keeps_nipClosedBody _) start
  case nipOpened => exact keeps_takeRequest (fun _ => keeps_nipOpenedBody _) start
  case defect => exact keeps_takeRequest (fun _ => keeps_defectBody _ _) start
  case splice => exact keeps_takeRequest (fun _ => keeps_spliceBody _ _) start
  case cutFetch => exact keeps_takeRequest (fun _ => keeps_cutFetchBody _) start
  case cutDone => exact keeps_takeRequest (fun _ => keeps_cutDoneBody _ _) start
  case cutFailed => exact keeps_takeRequest (fun _ => keeps_cutFailedBody _ _) start
  case brk => exact keeps_takeRequest (fun _ => keeps_brkBody _) start
  case rollFlag => exact keeps_takeRequest (fun _ => keeps_rollFlagBody _ _) start
  case readRoll => exact keeps_takeRequest (fun _ => keeps_readRollBody _ _) start
  case shadeSample => exact keeps_takeRequest (fun _ => keeps_shadeSampleBody _ _) start
  case batchClose => exact keeps_takeRequest (fun _ => keeps_batchCloseBody _ _) start
  case readBatch => exact keeps_takeRequest (fun _ => keeps_readBatchBody _ _) start
  case labelFetch => exact keeps_takeRequest (fun _ => keeps_labelFetchBody _) start
  case labelDone => exact keeps_takeRequest (fun _ => keeps_labelDoneBody _ _) start
  case labelSkip => exact keeps_takeRequest (fun _ => keeps_labelSkipBody _ _) start
  case purgeBegin => exact keeps_takeRequest (fun _ => keeps_purgeBeginBody _ _) start
  case purgeConfirm => exact keeps_takeRequest (fun _ => keeps_purgeConfirmBody _ _) start
  case purgeCommit => exact keeps_takeRequest (fun _ => keeps_purgeCommitBody _ _) start
  case clearProtect => exact keeps_takeRequest (fun _ => keeps_clearProtectBody _) start
  case journalRead => exact keeps_takeRequest (fun _ => keeps_journalReadBody _ _) start
  case watchSet => exact keeps_takeRequest (fun _ => keeps_watchSetBody _ _) start
  case requestDiscarded => exact keeps_discardedRequest _ _ start
  case responseRead => exact keeps_responseRead _ _ start
  case statusRead => exact keeps_statusRead _ _ start
  case noticeClear => exact keeps_port (fun _ => rfl) (keeps_shiftOut _ _ start)
  case noticeMaskWrite => exact keeps_port (fun _ => rfl) (keeps_shiftOut _ _ start)
  case fifoDirection => exact keeps_fifoDirection _ _ start
  case fifoFlush => exact keeps_flushFifo _ (keeps_shiftOut _ _ start)
  case fifoData => exact keeps_fifoData _ _ start
  case viewPointerLoad => exact keeps_port (fun _ => rfl) (keeps_shiftOut _ _ start)
  case viewDataRead => exact keeps_viewDataRead _ _ start
  case stationFlagNibbleWrite => exact keeps_port (fun _ => rfl) (keeps_shiftOut _ _ start)
  case transactionCutShort => exact keeps_ignoredTransaction _ start
  case fifoWordWritten => exact keeps_writeWord _ start

/-- A step keeps every limit. -/
theorem step_keeps {s t : State} (h : step s = .next t) : Keeps s t := by
  unfold step at h
  split at h
  · rename_i c rest _
    have taken : Keeps s { s with pending := rest } := (Keeps.refl s).same rfl
    exact taken.trans (exec_keeps h)
  · obtain rfl := Host.Outcome.next.inj h
    exact .refl s

/-- Settles O57: the limits of the FIFOs, the store queue and the lists, each kept by itself. -/
theorem capacitiesKept : Obligations.CapacitiesKept := fun _ _ h =>
  have keeps := step_keeps h
  ⟨keeps .fifos, keeps .store, fun lists => {
    measured := keeps .measured lists.measured
    transport := keeps .transport lists.transport
    cuts := keeps .cuts lists.cuts
    samples := keeps .samples lists.samples
    labels := keeps .labels lists.labels }⟩

/-- Settles O58: additions insert in order, an overflow merge removes as many entries as it adds, and every other change
keeps the starts in their order. -/
theorem mapKept : Obligations.MapKept := fun _ _ h => step_keeps h .map

/-- Settles O59: every write of a bank goes through the operations that keep it canonical. -/
theorem banksKept : Obligations.BanksKept := fun _ _ h => step_keeps h .banks

end Sys2Proof.Limits

/-! ## The station ports and the purge sequence (R176 to R193) -/

namespace Sys2Proof.Porting

open Sys2Proof.Machine Sys2Proof.Safety Sys2Proof.Reporting

/-! ### Requests in general (R183) -/

/-- A request is taken by the rule of its own that `exec` names. -/
theorem exec_request (r : Req) (p : Port) (args : List Byte) :
    ∃ body : State → State, ∀ s, exec (requestInstr r p args) s = .next (takeRequest r p args body s) := by
  cases r <;> exact ⟨_, fun _ => rfl⟩

theorem busy_of_not_open {p : Port} {s : State} (h : ¬ Open p s) : (s.port p).busy = true := by
  rw [← Bool.not_eq_false, not_busy_iff]; exact h

theorem not_busy_of_open {p : Port} {s : State} (h : Open p s) : (s.port p).busy = false := (not_busy_iff p s).2 h

/-- A change of one port alone. -/
structure PortChanged (p : Port) (x : PortState) (s t : State) : Prop where
  rest : SameButPorts s t
  others : OthersKept p s t
  own : t.port p = x

theorem portChanged_modifyPort (p : Port) (f : PortState → PortState) (s : State) :
    PortChanged p (f (s.port p)) s (s.modifyPort p f) :=
  ⟨rfl, fun q hq => by simp [hq], by simp⟩

theorem portChanged_refl (p : Port) (s : State) : PortChanged p (s.port p) s s := ⟨rfl, fun _ _ => rfl, rfl⟩

theorem PortChanged.trans {p : Port} {x y : PortState} {s t u : State} (a : PortChanged p x s t)
    (b : PortChanged p y t u) : PortChanged p y s u :=
  ⟨by rw [SameButPorts, b.rest, a.rest], fun q hq => (b.others q hq).trans (a.others q hq), b.own⟩

theorem PortChanged.of_eq {p : Port} {x y : PortState} {s t : State} (h : PortChanged p x s t) (e : x = y) :
    PortChanged p y s t := e ▸ h

theorem PortChanged.modify {p : Port} {x : PortState} {s t : State} (h : PortChanged p x s t)
    (f : PortState → PortState) : PortChanged p (f x) s (t.modifyPort p f) :=
  h.trans ((portChanged_modifyPort p f t).of_eq (by rw [h.own]))

theorem PortChanged.and {p : Port} {x : PortState} {s t : State} (h : PortChanged p x s t) :
    SameButPorts s t ∧ OthersKept p s t ∧ t.port p = x := ⟨h.rest, h.others, h.own⟩

/-- The bytes that a transaction shifts out. -/
theorem portChanged_shiftOut (p : Port) (bytes : List Byte) (s : State) :
    PortChanged p { s.port p with sdo := s.summary p :: bytes } s (s.shiftOut p bytes) :=
  portChanged_modifyPort p (fun x => { x with sdo := s.summary p :: bytes }) s

theorem portChanged_raise {p : Port} {x : PortState} {s t : State} (h : PortChanged p x s t) (n : Notice) :
    PortChanged p { x with pending := x.pending ||| n.bit } s (t.raise p n) :=
  h.modify fun x => { x with pending := x.pending ||| n.bit }

/-- What an answer leaves on its port. -/
def PortState.answered (code : Byte) (status : Status) (result : List Byte) (x : PortState) : PortState :=
  match x.request with
  | some e =>
    if e.discard then { x with request := none }
    else { x with request := none, response := some ⟨code, status, result⟩ }
  | none => { x with response := some ⟨code, status, result⟩ }

theorem PortChanged.respond {p : Port} {x : PortState} {s t : State} (h : PortChanged p x s t) (code : Byte)
    (status : Status) (result : List Byte) :
    PortChanged p (PortState.answered code status result x) s (respond p code status result t) :=
  h.modify _

theorem answered_none {x : PortState} (h : x.request = none) (code : Byte) (status : Status) (result : List Byte) :
    PortState.answered code status result x = { x with response := some ⟨code, status, result⟩ } := by
  unfold PortState.answered
  rw [h]

/-- A port as a request's own rule finds it (R177, R182). -/
def portReceived (r : Req) (args : List Byte) (summary : Byte) (x : PortState) : PortState :=
  { x with
    pending := x.pending ||| (if isMistake r x then Notice.protect.bit else 0#16)
    purge := if isMistake r x then .nothing else x.purge
    protect := x.protect || isMistake r x
    sdo := summary :: List.replicate (args.length + 2) 0 }

theorem received_changed (r : Req) (p : Port) (args : List Byte) (s : State) :
    PortChanged p (portReceived r args (s.summary p) (s.port p)) s (received r p args s) :=
  ⟨received_eq r p args s, fun q hq => by rw [port_eq, received_get, if_neg hq]; rfl,
    by rw [port_eq, received_get, if_pos rfl]; rfl⟩

theorem PortChanged.takeInput {p : Port} {x : PortState} {s t : State} (h : PortChanged p x s t) (r : Req) :
    PortChanged p { x with fifo := if r.readsFifo && !x.toStation then [] else x.fifo } s (takeInput r p t) := by
  refine h.trans ⟨takeInput_eq r p t, fun q hq => ?_, ?_⟩
  · rw [port_eq, takeInput_get, if_neg hq]; rfl
  · rw [port_eq, takeInput_get, if_pos rfl, ← port_eq, h.own]

theorem discarded_changed (p : Port) (n : Nat) (s : State) :
    PortChanged p { s.port p with overrun := true, sdo := s.summary p :: List.replicate n 0#8 } s
      (discardRequest p (s.shiftOut p (List.replicate n 0))) :=
  (portChanged_shiftOut p _ s).modify fun x => { x with overrun := true }

/-- A request refused for the line state: the purge progress is none after it, by a mistake or because the step gives it
up (R176, R177). -/
theorem refused_state_changed {r : Req} {p : Port} {args : List Byte} {s : State} (h : Open p s) :
    PortChanged p
      { portAfter r args none (some ⟨r.role.code, .state, []⟩) 0#16 (s.summary p) (s.port p) with
        purge := .nothing } s
      (takeInput r p (respond p r.role.code .state [] (dropPurge r p (received r p args s)))) := by
  have reqnone : (s.port p).request = none := h.1
  have dropped : PortChanged p { portReceived r args (s.summary p) (s.port p) with purge := .nothing } s
      (dropPurge r p (received r p args s)) := by
    by_cases hr : r.isPurge = true
    · rw [dropPurge, if_pos hr]
      exact (received_changed r p args s).modify fun x => { x with purge := .nothing }
    · rw [dropPurge, if_neg hr]
      refine (received_changed r p args s).of_eq ?_
      simp [portReceived, isMistake, hr]
  refine ((dropped.respond r.role.code .state []).takeInput r).of_eq ?_
  rw [answered_none (by exact reqnone)]
  simp [-port_eq, portReceived, portAfter, reqnone]

/-- Settles O53: the checks in their order, each by the equation of a request that fails it. -/
theorem requestsChecked : Obligations.RequestsChecked := by
  refine ⟨fun r p args s => ?_, fun p code args s hcode => ?_, fun p args s => ⟨fun h => ?_, fun h => ?_⟩⟩
  · obtain ⟨body, hexec⟩ := exec_request r p args
    refine ⟨_, hexec s, fun h => ?_, fun h hrole => ?_, fun h hrole hstate => ?_, fun h hrole hstate hlen => ?_⟩
    · rw [takeRequest_busy _ _ _ _ _ (busy_of_not_open h)]
      exact (discarded_changed p _ s).and
    · rw [takeRequest_role _ _ _ _ _ h hrole]
      exact answered_received .role [] h
    · rw [takeRequest_state _ _ _ _ _ h hrole hstate]
      exact (refused_state_changed h).and
    · rw [takeRequest_length _ _ _ _ _ h hrole hstate hlen]
      exact answered_received .range [] h
  · have hexec : exec (.requestUnknownCode p code args) s = .next (unknownRequest p code args s) := by
      simp [exec, execRequestUnknownCode, hcode]
    refine ⟨_, hexec, ?_⟩
    by_cases h : Open p s
    · have idle : (s.port p).request = none := h.1
      have free : unknownRequest p code args s = respond p code .role []
          (if (s.port p).purge = .nothing then requestShift p args s else purgeMistake p (requestShift p args s)) := by
        rw [unknownRequest, if_neg (by rw [not_busy_of_open h]; decide)]
      have shifted : PortChanged p { s.port p with
          purge := .nothing
          protect := (s.port p).protect || (s.port p).purge != .nothing
          pending := (s.port p).pending ||| (if (s.port p).purge = .nothing then 0#16 else Notice.protect.bit)
          sdo := s.summary p :: List.replicate (args.length + 2) 0#8 } s
          (if (s.port p).purge = .nothing then requestShift p args s else purgeMistake p (requestShift p args s)) := by
        split
        · rename_i hp
          refine (portChanged_shiftOut p _ s).of_eq ?_
          simp [-port_eq, hp]
        · rename_i hp
          refine (portChanged_raise ((portChanged_shiftOut p _ s).modify fun x =>
            { x with purge := .nothing, protect := true }) .protect).of_eq ?_
          simp [-port_eq, hp]
      rw [free]
      have answered := shifted.respond code .role []
      rw [answered_none (by exact idle)] at answered
      exact ⟨answered.rest, answered.others, fun hn => absurd h hn, fun _ => answered.own⟩
    · have busy : unknownRequest p code args s = discardRequest p (requestShift p args s) :=
        if_pos (busy_of_not_open h)
      rw [busy]
      have discarded := discarded_changed p (args.length + 2) s
      exact ⟨discarded.rest, discarded.others, fun _ => discarded.own, fun hn => absurd hn h⟩
  · exact congrArg Host.Outcome.next (if_neg (by rw [not_busy_of_open h]; decide))
  · exact ⟨_, congrArg Host.Outcome.next (if_pos (busy_of_not_open h)), (discarded_changed p _ s).and⟩

end Sys2Proof.Porting

namespace Sys2Proof.Porting

open Sys2Proof.Machine Sys2Proof.Safety Sys2Proof.Reporting

/-! ### Accesses that are no requests (R182, R185, R186, R191, R193) -/

theorem flagsByte_bits (x : PortState) :
    x.flagsByte.getLsbD 0 = x.overrun ∧ x.flagsByte.getLsbD 1 = x.frame ∧ x.flagsByte.getLsbD 2 = x.protect ∧
      x.flagsByte.getLsbD 3 = x.unpaired := by
  unfold PortState.flagsByte
  cases x.overrun <;> cases x.frame <;> cases x.protect <;> cases x.unpaired <;> decide

theorem unpaired_iff (x : PortState) :
    x.unpaired = decide (x.toStation = false ∧ x.fifo.length % 2 = 1) := by
  cases h : x.toStation <;> simp [PortState.unpaired, h, BEq.beq]

theorem lowByte_purge (x : Purge) :
    (lowByte x.code).toNat = match x with
      | .nothing => 0
      | .begun n => 1 + 16 * (n.val + 1)
      | .confirmed n => 2 + 16 * (n.val + 1) := by
  cases x with
  | nothing => rfl
  | begun n => fin_cases n <;> rfl
  | confirmed n => fin_cases n <;> rfl

/-- A response read: the slot is emptied with the last byte of its frame. -/
theorem responseRead_changed (p : Port) (count : Nat) (s : State) :
    PortChanged p
      { s.port p with
        response := (s.port p).response.filter (fun r => decide (count < r.frame.length))
        sdo := s.summary p :: (((s.port p).response.map Response.frame).getD emptyFrame).take count } s
      (responseRead p count s) := by
  unfold responseRead
  cases h : (s.port p).response with
  | none => exact (portChanged_shiftOut p _ s).of_eq (by simp [-port_eq, h])
  | some r =>
    by_cases hc : r.frame.length ≤ count
    · simp only [hc, if_true]
      exact ((portChanged_shiftOut p _ s).modify fun x => { x with response := none }).of_eq
        (by simp [-port_eq, Option.filter, Nat.not_lt.2 hc])
    · simp only [hc, if_false]
      exact (portChanged_shiftOut p _ s).of_eq (by simp [-port_eq, h, Option.filter, Nat.not_le.1 hc])

theorem statusRead_changed (p : Port) (count : Nat) (s : State) :
    PortChanged p
      { s.port p with
        overrun := if count = 0 then (s.port p).overrun else false
        frame := if count = 0 then (s.port p).frame else false
        sdo := s.summary p :: (s.port p).status.take count } s (statusRead p count s) := by
  unfold statusRead
  by_cases hc : count = 0
  · simp only [hc, if_true]
    exact portChanged_shiftOut p _ s
  · simp only [hc, if_false]
    exact (portChanged_shiftOut p _ s).modify fun x => { x with overrun := false, frame := false }

theorem ignored_changed (p : Port) (s : State) :
    PortChanged p { s.port p with frame := true, sdo := [s.summary p] } s (ignoredTransaction p s) :=
  (portChanged_shiftOut p [] s).modify fun x => { x with frame := true }

theorem isAccessByte_false {x : Byte} (h : 12 < x.toNat ∨ x.toNat = 0) : isAccessByte x = false := by
  unfold isAccessByte
  grind

/-- Settles O54: each access by the port state it leaves. -/
theorem portAccesses : Obligations.PortAccesses := by
  refine ⟨fun p count s => ?_, fun p count s => ?_, fun p x s => ⟨?_, ?_⟩, fun p count s => ?_,
    fun p x k s => ⟨?_, fun hx => ?_, ?_⟩⟩
  · have h := responseRead_changed p count s
    refine ⟨_, rfl, h.rest, h.others, fun hr => ?_, fun r hr => ?_⟩
    · rw [h.own, hr]
      simp [-port_eq, emptyFrame, hr]
    · rw [h.own, hr]
      by_cases hc : r.result.length + 3 ≤ count
      · simp [-port_eq, Option.filter, hc, Nat.not_lt.2 hc, Response.frame, lowByte]
      · simp [-port_eq, Option.filter, hc, Nat.not_le.1 hc, Response.frame, lowByte]
  · have h := statusRead_changed p count s
    obtain ⟨overrun, frame, protect, unpaired⟩ := flagsByte_bits (s.port p)
    exact ⟨_, rfl, h.rest, h.others, _, _, h.own, overrun, frame, protect, unpaired.trans (unpaired_iff _),
      lowByte_purge _⟩
  · exact ⟨_, rfl,
      ((portChanged_shiftOut p [0, 0] s).modify fun y => { y with pending := y.pending &&& ~~~x }).and⟩
  · exact ⟨_, rfl, ((portChanged_shiftOut p [0, 0] s).modify fun y => { y with mask := x }).and⟩
  · exact (portChanged_shiftOut p _ s).and
  · exact ⟨_, rfl,
      ((portChanged_shiftOut p [0] s).modify fun y => { y with nibble := x.extractLsb' 0 4 }).and⟩
  · refine ⟨ignoredTransaction p s, ?_, (ignored_changed p s).and⟩
    simp [exec, execAccessByteInvalid, isAccessByte_false hx]
  · exact ⟨_, rfl, (ignored_changed p s).and⟩

/-! ### The FIFO (R187 to R189) -/

/-- Data bytes join the tail of a FIFO set toward the part up to 256, and the rest are lost (R187). -/
theorem dataBytes_part (bytes : List Byte) (x : PortState) (dir : x.toStation = false) (fit : x.fifo.length ≤ 256) :
    x.dataBytes bytes =
      ({ x with
          fifo := (x.fifo ++ bytes).take 256
          overrun := x.overrun || decide (256 < x.fifo.length + bytes.length) },
        List.replicate bytes.length 0#8) := by
  induction bytes generalizing x with
  | nil =>
    simp only [PortState.dataBytes, List.append_nil, List.length_nil, Nat.add_zero, List.replicate_zero,
      List.take_of_length_le fit, Nat.not_lt.2 fit, decide_false, Bool.or_false]
  | cons b rest ih =>
    by_cases room : x.fifo.length < 256
    · have taken : x.dataByte b = ({ x with fifo := x.fifo ++ [b] }, 0) := by simp [PortState.dataByte, dir, room]
      simp only [PortState.dataBytes, taken]
      rw [ih { x with fifo := x.fifo ++ [b] } dir (by simp; omega)]
      simp [List.replicate_succ, Nat.add_assoc, Nat.add_comm 1]
    · have full : x.fifo.length = 256 := by omega
      have lost : x.dataByte b = ({ x with overrun := true }, 0) := by simp [PortState.dataByte, dir, room]
      simp only [PortState.dataBytes, lost]
      rw [ih { x with overrun := true } dir fit]
      simp [List.replicate_succ, full]

/-- Data bytes leave the head of a FIFO set toward the station, and a read of an empty one returns 0 (R188). -/
theorem dataBytes_station (bytes : List Byte) (x : PortState) (dir : x.toStation = true) :
    x.dataBytes bytes =
      ({ x with
          fifo := x.fifo.drop bytes.length
          overrun := x.overrun || decide (x.fifo.length < bytes.length) },
        (x.fifo ++ List.replicate bytes.length 0#8).take bytes.length) := by
  induction bytes generalizing x with
  | nil => simp [PortState.dataBytes]
  | cons b rest ih =>
    cases hf : x.fifo with
    | nil =>
      have none : x.dataByte b = ({ x with overrun := true }, 0) := by simp [PortState.dataByte, dir, hf]
      simp only [PortState.dataBytes, none]
      rw [ih { x with overrun := true } dir]
      simp [hf, List.replicate_succ]
    | cons head tail =>
      have left : x.dataByte b = ({ x with fifo := tail }, head) := by simp [PortState.dataByte, dir, hf]
      simp only [PortState.dataBytes, left]
      rw [ih { x with fifo := tail } dir]
      simp only [List.length_cons, List.drop_succ_cons, List.cons_append, List.take_succ_cons, List.replicate_succ',
        Nat.add_lt_add_iff_right, Prod.mk.injEq, true_and, List.cons.injEq]
      rw [← List.append_assoc]
      exact (List.take_append_of_le_length (by simp)).symm

/-- A request that copies words into the FIFO. -/
def Writing (x : PortState) : Prop := ∃ code rest result d, x.request = some ⟨code, .words rest result, d⟩

theorem wordBeside_of_not_writing {x : PortState} (h : ∀ code rest result d, x.request ≠ some ⟨code, .words rest result, d⟩) :
    x.wordBeside = [] := by
  unfold PortState.wordBeside
  split
  · rename_i code rest result d writing
    exact absurd writing (h code rest result d)
  · rfl
  · rfl

theorem dropTransfer_of_not_writing {p : Port} {s : State}
    (h : ∀ code rest result d, (s.port p).request ≠ some ⟨code, .words rest result, d⟩) : dropTransfer p s = s := by
  unfold dropTransfer
  split
  · rename_i code rest result d writing
    exact absurd writing (h code rest result d)
  · rfl
  · rfl

/-- A flush with no request writing. -/
theorem PortChanged.flush_idle {p : Port} {x : PortState} {s t : State} (h : PortChanged p x s t)
    (idle : ∀ code rest result d, x.request ≠ some ⟨code, .words rest result, d⟩) :
    PortChanged p { x with fifo := [], late := [] } s (flushFifo p t) := by
  unfold flushFifo
  have emptied := h.modify fun y => { y with fifo := [], late := y.wordBeside }
  rw [wordBeside_of_not_writing idle] at emptied
  rw [dropTransfer_of_not_writing (by rw [emptied.own]; exact idle)]
  exact emptied

/-- A flush ends the request that writes words, the one of them that falls beside it apart (R189). -/
theorem PortChanged.flush_writing {p : Port} {x : PortState} {s t : State} (h : PortChanged p x s t) {code : Byte}
    {rest result : List Byte} {d : Bool} (writing : x.request = some ⟨code, .words rest result, d⟩) :
    PortChanged p
      { x with
        fifo := [], request := none
        late := if x.fifo.length ≤ 254 then rest.take 2 else []
        response := if d then x.response else some ⟨code, .fifoDir, []⟩ } s (flushFifo p t) := by
  unfold flushFifo
  have emptied := h.modify fun y => { y with fifo := [], late := y.wordBeside }
  have ended : dropTransfer p (t.modifyPort p fun y => { y with fifo := [], late := y.wordBeside })
      = Machine.respond p code .fifoDir [] (t.modifyPort p fun y => { y with fifo := [], late := y.wordBeside }) := by
    unfold dropTransfer
    rw [emptied.own]
    simp only [writing]
  have beside : x.wordBeside = if x.fifo.length ≤ 254 then rest.take 2 else [] := by
    by_cases hl : x.fifo.length ≤ 254
    · simp [PortState.wordBeside, writing, hl, Nat.not_lt.2 hl]
    · simp [PortState.wordBeside, writing, hl, Nat.not_le.1 hl]
  rw [ended]
  refine (emptied.respond code .fifoDir []).of_eq ?_
  simp only [PortState.answered, writing, beside]
  cases d <;> rfl

/-- The next word of a request's records. -/
theorem writeWord_writing {p : Port} {s : State} {code : Byte} {rest result : List Byte} {d : Bool}
    (writing : (s.port p).request = some ⟨code, .words rest result, d⟩) (room : (s.port p).fifo.length ≤ 254) :
    PortChanged p
      (if rest.length ≤ 2 then
        { s.port p with
          fifo := (s.port p).fifo ++ rest, late := [], request := none
          response := if d then (s.port p).response else some ⟨code, .ok, result⟩ }
      else
        { s.port p with
          fifo := (s.port p).fifo ++ rest.take 2, late := []
          request := some ⟨code, .words (rest.drop 2) result, d⟩ }) s (writeWord p s) := by
  have joined := portChanged_modifyPort p (fun x => { x with
    fifo := x.fifo ++ rest.take 2, late := [], request := some ⟨code, .words (rest.drop 2) result, d⟩ }) s
  unfold writeWord
  simp only [writing, Nat.not_lt.2 room, if_false]
  by_cases last : rest.length ≤ 2
  · have none : rest.drop 2 = [] := List.drop_eq_nil_of_le last
    have all : rest.take 2 = rest := List.take_of_length_le last
    simp only [none, List.isEmpty_nil, if_true, last]
    rw [none, all] at joined
    rw [all]
    refine (joined.respond code .ok result).of_eq ?_
    cases d <;> rfl
  · have more : (rest.drop 2).isEmpty = false := by
      rw [List.isEmpty_eq_false_iff, ← List.length_pos_iff_ne_nil]; simp; omega
    simp only [more, Bool.false_eq_true, if_false, last]
    exact joined

theorem writeWord_not_writing {p : Port} {s : State}
    (idle : ∀ code rest result d, (s.port p).request ≠ some ⟨code, .words rest result, d⟩) :
    writeWord p s = writeLate p s := by
  unfold writeWord
  split
  · rename_i code rest result d writing
    exact absurd writing (idle code rest result d)
  · rfl
  · rfl

theorem writeWord_full {p : Port} {s : State} (full : 254 < (s.port p).fifo.length) : writeWord p s = s := by
  have late : writeLate p s = s := if_pos full
  unfold writeWord
  split
  · exact if_pos full
  · exact late
  · exact late

theorem ports_set_self (x : Ports) (p : Port) : x.set p (x.get p) = x := by cases p <;> rfl

theorem modifyPort_same {p : Port} {f : PortState → PortState} {s : State} (h : f (s.port p) = s.port p) :
    s.modifyPort p f = s := by
  unfold State.modifyPort
  rw [port_eq] at h
  rw [h, ports_set_self]

theorem writeLate_nothing {p : Port} {s : State} (h : (s.port p).late = []) : writeLate p s = s := by
  unfold writeLate
  split
  · rfl
  · refine modifyPort_same ?_
    simp only [h, List.take_nil, List.append_nil]
    rw [← h]

/-- A direction byte that turns the FIFO (R189). -/
theorem fifoDirection_turn {p : Port} {x : Byte} {s : State} (small : x.toNat ≤ 1)
    (other : (s.port p).toStation ≠ decide (x.toNat = 1)) :
    fifoDirection p x s =
      (flushFifo p (s.shiftOut p [0])).modifyPort p
        (fun y => { y with toStation := decide (x.toNat = 1), late := [] }) := by
  have toStation : (x == 1#8) = decide (x.toNat = 1) := by
    rw [Bool.eq_iff_iff]; simp [← BitVec.toNat_inj]
  unfold fifoDirection
  rw [if_neg (Nat.not_lt.2 small), toStation, if_neg other]

theorem fifoDirection_same {p : Port} {x : Byte} {s : State} (small : x.toNat ≤ 1)
    (same : (s.port p).toStation = decide (x.toNat = 1)) : fifoDirection p x s = s.shiftOut p [0] := by
  have toStation : (x == 1#8) = decide (x.toNat = 1) := by
    rw [Bool.eq_iff_iff]; simp [← BitVec.toNat_inj]
  unfold fifoDirection
  rw [if_neg (Nat.not_lt.2 small), toStation, if_pos same]

theorem fifoDirection_wrong {p : Port} {x : Byte} {s : State} (wrong : 1 < x.toNat) :
    fifoDirection p x s = setFrameFlag p (s.shiftOut p [0]) := if_pos wrong

/-- Settles O55: each FIFO access by the port state it leaves. -/
theorem fifoAccesses : Obligations.FifoAccesses := by
  refine ⟨fun p bytes s fit => ?_, fun p s => ⟨?_, fun idle late room => ?_, fun code rest result d writing room => ?_⟩,
    fun p s => ?_, fun p x s => ?_⟩
  · have h := (portChanged_shiftOut p ((s.port p).dataBytes bytes).2 s).modify fun x => (x.dataBytes bytes).1
    refine ⟨_, rfl, h.rest, h.others, fun dir => ?_, fun dir => ?_⟩
    · refine h.own.trans ?_
      rw [dataBytes_part bytes (s.port p) dir fit]
      exact congrArg Prod.fst (dataBytes_part bytes { s.port p with sdo := s.summary p :: List.replicate bytes.length 0#8 } dir fit)
    · refine h.own.trans ?_
      rw [dataBytes_station bytes (s.port p) dir]
      exact congrArg Prod.fst (dataBytes_station bytes { s.port p with
        sdo := s.summary p :: ((s.port p).fifo ++ List.replicate bytes.length 0#8).take bytes.length } dir)
  · rintro (⟨idle, late⟩ | full)
    · exact congrArg Host.Outcome.next ((writeWord_not_writing idle).trans (writeLate_nothing late))
    · exact congrArg Host.Outcome.next (writeWord_full full)
  · refine ⟨_, congrArg Host.Outcome.next (writeWord_not_writing idle), ?_⟩
    have h := portChanged_modifyPort p (fun x => { x with fifo := x.fifo ++ x.late.take 2, late := [] }) s
    have eq : writeLate p s = _ := if_neg (Nat.not_lt.2 room)
    rw [eq]
    exact h.and
  · have h := writeWord_writing writing room
    refine ⟨_, rfl, h.rest, h.others, fun more => ?_, fun last => ?_⟩
    · exact h.own.trans (if_neg (Nat.not_le.2 more))
    · exact h.own.trans (if_pos last)
  · by_cases writing : Writing (s.port p)
    · obtain ⟨code, rest, result, d, writing⟩ := writing
      have h := (portChanged_shiftOut p [] s).flush_writing writing
      refine ⟨_, rfl, h.rest, h.others, fun idle => absurd writing (idle _ _ _ _), fun code' rest' result' d' w => ?_⟩
      obtain ⟨rfl, ⟨rfl, rfl⟩, rfl⟩ : code = code' ∧ (rest = rest' ∧ result = result') ∧ d = d' := by
        simpa [-port_eq, writing] using w
      exact h.own
    · have idle : ∀ code rest result d, (s.port p).request ≠ some ⟨code, .words rest result, d⟩ :=
        fun code rest result d w => writing ⟨code, rest, result, d, w⟩
      have h := (portChanged_shiftOut p [] s).flush_idle idle
      exact ⟨_, rfl, h.rest, h.others, fun _ => h.own, fun code rest result d w => absurd w (idle _ _ _ _)⟩
  · refine ⟨_, rfl, ?_⟩
    by_cases wrong : 1 < x.toNat
    · have h := (portChanged_shiftOut p [0] s).modify fun y => { y with frame := true }
      rw [fifoDirection_wrong wrong]
      exact ⟨h.rest, h.others, fun _ => h.own, fun hx => absurd hx (Nat.not_le.2 wrong),
        fun hx => absurd hx (Nat.not_le.2 wrong)⟩
    have small : x.toNat ≤ 1 := Nat.not_lt.1 wrong
    by_cases same : (s.port p).toStation = decide (x.toNat = 1)
    · have h := portChanged_shiftOut p [0] s
      rw [fifoDirection_same small same]
      exact ⟨h.rest, h.others, fun hx => absurd hx wrong, fun _ _ => h.own, fun _ other => absurd same other⟩
    rw [fifoDirection_turn small same]
    by_cases writing : Writing (s.port p)
    · obtain ⟨code, rest, result, d, writing⟩ := writing
      have h := ((portChanged_shiftOut p [0] s).flush_writing writing).modify
        fun y => { y with toStation := decide (x.toNat = 1), late := [] }
      refine ⟨h.rest, h.others, fun hx => absurd hx wrong, fun _ hs => absurd hs same, fun _ _ =>
        ⟨fun idle => absurd writing (idle _ _ _ _), fun code' rest' result' d' w => ?_⟩⟩
      obtain ⟨rfl, ⟨rfl, rfl⟩, rfl⟩ : code = code' ∧ (rest = rest' ∧ result = result') ∧ d = d' := by
        simpa [-port_eq, writing] using w
      exact h.own
    · have idle : ∀ code rest result d, (s.port p).request ≠ some ⟨code, .words rest result, d⟩ :=
        fun code rest result d w => writing ⟨code, rest, result, d, w⟩
      have h := ((portChanged_shiftOut p [0] s).flush_idle idle).modify
        fun y => { y with toStation := decide (x.toNat = 1), late := [] }
      exact ⟨h.rest, h.others, fun hx => absurd hx wrong, fun _ hs => absurd hs same,
        fun _ _ => ⟨fun _ => h.own, fun code rest result d w => absurd w (idle _ _ _ _)⟩⟩

end Sys2Proof.Porting

namespace Sys2Proof.Porting

open Sys2Proof.Machine Sys2Proof.Safety Sys2Proof.Reporting

/-! ### The view pointer (R190) -/

theorem nextPointer_toNat (a : Word16) : (nextPointer a).toNat = min 65535 (a.toNat + 1) := by
  unfold nextPointer
  split
  · rename_i h; subst h; rfl
  · rename_i h
    have hlt := a.isLt
    have hne : a.toNat ≠ 65535 := fun e => h (BitVec.eq_of_toNat_eq e)
    have one : (1 : Word16).toNat = 1 := rfl
    rw [BitVec.toNat_add, one]
    omega

/-- A view data read shows the words at the pointer's places, two bytes each. -/
theorem readView_eq (s : State) (count : Nat) (a x : Word16) (place shown : Nat → Word16)
    (hplace : ∀ j, place j = BitVec.ofNat 16 (min 65535 (a.toNat + j))) (hfirst : shown 0 = x)
    (hnext : ∀ j, 0 < j → shown j = viewWord s (place j)) :
    readView s count a x = ((place (count / 2), shown (count / 2)),
      (List.range count).map fun j =>
        if j % 2 = 0 then (shown (j / 2)).extractLsb' 0 8 else (shown (j / 2)).extractLsb' 8 8) := by
  have here : place 0 = a := by
    rw [hplace]
    refine BitVec.eq_of_toNat_eq ?_
    have := a.isLt
    simp only [BitVec.toNat_ofNat]
    omega
  induction count using Nat.twoStepInduction generalizing a x place shown with
  | zero => simp [readView, here, hfirst]
  | one => simp [readView, here, hfirst, lowHalf]
  | more n ih _ =>
    have step : place 1 = nextPointer a := by
      rw [hplace]
      refine BitVec.eq_of_toNat_eq ?_
      rw [nextPointer_toNat, BitVec.toNat_ofNat]
      omega
    have shift : ∀ j, place (j + 1) = BitVec.ofNat 16 (min 65535 ((nextPointer a).toNat + j)) := fun j => by
      rw [hplace, nextPointer_toNat]
      congr 1
      omega
    have rest := ih (nextPointer a) (viewWord s (nextPointer a)) (fun j => place (j + 1)) (fun j => shown (j + 1)) shift
      (by rw [hnext 1 Nat.one_pos, step]) (fun j _ => hnext (j + 1) j.succ_pos) step
    have half : (n + 2) / 2 = n / 2 + 1 := by omega
    have tail (j : Nat) : (j + 2) / 2 = j / 2 + 1 := by omega
    have parity (j : Nat) : (j + 2) % 2 = j % 2 := by omega
    rw [readView, rest, half, List.range_succ_eq_map, List.range_succ_eq_map]
    simp only [List.map_cons, List.map_map, Function.comp_def, Nat.succ_eq_add_one, tail, parity, hfirst]
    rfl

/-- Settles O56: a load, a data read by the places it shows, and the words of the line status block. -/
theorem viewReads : Obligations.ViewReads := by
  refine ⟨fun p x s => ?_, fun p count s place shown hplace hfirst hnext => ?_, fun s => ⟨?_, ?_, ?_, ?_⟩⟩
  · exact ⟨_, rfl, ((portChanged_shiftOut p [0, 0] s).modify
      fun y => { y with pointer := x, prefetch := viewWord s x }).and⟩
  · have read := readView_eq s count (s.port p).pointer (s.port p).prefetch place shown hplace hfirst hnext
    refine ⟨_, rfl, ?_⟩
    unfold viewDataRead
    rw [read]
    exact ((portChanged_shiftOut p _ s).modify
      fun y => { y with pointer := place (count / 2), prefetch := shown (count / 2) }).and
  · exact Whole.viewWord_state s
  · exact (Whole.viewWord_line s (n := 5) (by decide)).trans (Whole.lineBlock_words s).2.1
  · exact (Whole.viewWord_line s (n := 6) (by decide)).trans (Whole.lineBlock_words s).2.2.1
  · exact (Whole.viewWord_line s (n := 25) (by decide)).trans (Whole.lineBlock_words s).2.2.2

/-! ### The position watch (R192) -/

theorem PortChanged.reachWatch {p : Port} {x : PortState} {s t : State} (h : PortChanged p x s t) :
    PortChanged p
      { x with
        watch := x.watch.filter (fun k => decide (s.web.w < k))
        pending := x.pending ||| (if ∃ k ∈ x.watch, k ≤ s.web.w then Notice.watch.bit else 0#16) } s
      (reachWatch p t) := by
  have web : t.web = s.web := by rw [h.rest]
  unfold Machine.reachWatch
  rw [h.own, web]
  cases hx : x.watch with
  | none =>
    refine h.of_eq ?_
    simp only [Option.filter_none, Option.mem_def, reduceCtorEq, false_and, exists_false, if_false, BitVec.or_zero]
    rw [← hx]
  | some k =>
    by_cases hk : k ≤ s.web.w
    · simp only [hk, if_true]
      refine (portChanged_raise (h.modify fun y => { y with watch := none }) .watch).of_eq ?_
      simp [Option.filter, hk, Nat.not_lt.2 hk]
    · simp only [hk, if_false]
      refine h.of_eq ?_
      simp [Option.filter, hk, Nat.not_le.1 hk]
      rw [← hx]

theorem argNat_whole {args : List Byte} {n : Nat} (h : args.length = n) : argNat args 0 n = natOfBytes args := by
  rw [argNat, List.drop_zero, List.take_of_length_le h.le]

/-- Settles O52: the watch a request sets, and a watch that stands. -/
theorem watches : Obligations.Watches := by
  refine ⟨fun p args s x h hx => ?_, fun p s => ⟨fun x hw hle => ?_, fun hw => ?_⟩⟩
  · have hexec : exec (.watchSet p args) s = .next (takeInput .watchSet p
        (watchSetBody p args (received .watchSet p args s))) :=
      congrArg Host.Outcome.next (takeRequest_admitted _ h)
    have position : argNat args 0 4 = x := (argNat_whole h.length).trans hx.symm
    have set := (((((received_changed .watchSet p args s).modify fun y =>
      { y with watch := if x = 0 then none else some x }).reachWatch).respond 0x58#8 .ok []).takeInput .watchSet)
    refine ⟨_, hexec, ?_⟩
    rw [watchSetBody, position]
    refine (set.of_eq ?_).and
    clear set
    rw [answered_none (by exact h.slots.1)]
    have idle : (s.port p).request = none := h.slots.1
    rcases Nat.eq_zero_or_pos x with zero | pos
    · simp [-port_eq, portReceived, portAfter, zero, idle, Req.readsFifo]
    · simp [-port_eq, portReceived, portAfter, pos, pos.ne', idle, Req.readsFifo, Option.filter]
  · have h := (portChanged_refl p s).reachWatch
    refine ⟨_, rfl, (h.of_eq ?_).and⟩
    simp [-port_eq, hw, hle, Option.filter, Nat.not_lt.2 hle]
  · refine congrArg Host.Outcome.next ?_
    unfold Machine.reachWatch
    cases hx : (s.port p).watch with
    | none => rfl
    | some k => exact if_neg (Nat.not_le.2 (hw k hx))

end Sys2Proof.Porting

namespace Sys2Proof.Porting

open Sys2Proof.Machine Sys2Proof.Safety Sys2Proof.Reporting

/-! ### The purge sequence (R176 to R180) -/

theorem slotOfNumber_val (n : Fin 4) : slotOfNumber (n.val + 1) = some n := by
  simp [slotOfNumber, Nat.succ_le_of_lt n.isLt]

theorem slotOfNumber_none {k : Nat} (h : ¬ (1 ≤ k ∧ k ≤ 4)) : slotOfNumber k = none := dif_neg h

/-- What the four ports hold: port `p` a value, and the others their own with the notices raised. -/
def PortsHold (p : Port) (x : PortState) (raised : Raised) (s t : State) : Prop :=
  ∀ q, t.port q = if q = p then x else { s.port q with pending := (s.port q).pending ||| raised q }

theorem PortChanged.hold {p : Port} {x : PortState} {s t : State} (h : PortChanged p x s t) :
    PortsHold p x quiet s t := fun q => by
  by_cases hq : q = p
  · rw [if_pos hq, hq, h.own]
  · rw [if_neg hq, h.others q hq]
    simp [quiet]

theorem PortsHold.of_eq {p : Port} {x y : PortState} {raised : Raised} {s t : State} (h : PortsHold p x raised s t)
    (e : x = y) : PortsHold p y raised s t := e ▸ h

theorem PortsHold.own {p : Port} {x : PortState} {raised : Raised} {s t : State} (h : PortsHold p x raised s t) :
    t.port p = x := (h p).trans (if_pos rfl)

theorem PortsHold.modify {p : Port} {x : PortState} {raised : Raised} {s t : State} (h : PortsHold p x raised s t)
    (f : PortState → PortState) : PortsHold p (f x) raised s (t.modifyPort p f) := fun q => by
  have changed := portChanged_modifyPort p f t
  by_cases hq : q = p
  · rw [if_pos hq, hq, changed.own, h.own]
  · rw [changed.others q hq, h q, if_neg hq, if_neg hq]

theorem PortsHold.notices {p : Port} {x : PortState} {raised more : Raised} {s t u : State}
    (h : PortsHold p x raised s t) (hu : Noticed more t u) :
    PortsHold p { x with pending := x.pending ||| more p } (both raised more) s u := fun q => by
  rw [hu q, h q]
  by_cases hq : q = p
  · subst hq
    simp
  · simp [hq, both, BitVec.or_assoc]

theorem PortsHold.respond {p : Port} {x : PortState} {raised : Raised} {s t : State} (h : PortsHold p x raised s t)
    (code : Byte) (status : Status) (result : List Byte) :
    PortsHold p (PortState.answered code status result x) raised s (respond p code status result t) :=
  h.modify _

theorem PortsHold.takeInput {p : Port} {x : PortState} {raised : Raised} {s t : State} (h : PortsHold p x raised s t)
    (r : Req) : PortsHold p { x with fifo := if r.readsFifo && !x.toStation then [] else x.fifo } raised s
      (takeInput r p t) := fun q => by
  have changed := (portChanged_refl p t).takeInput r
  by_cases hq : q = p
  · rw [if_pos hq, hq, changed.own, h.own]
  · rw [changed.others q hq, h q, if_neg hq, if_neg hq]

/-- The port as a purge step finds it. -/
def portShifted (args : List Byte) (summary : Byte) (x : PortState) : PortState :=
  { x with sdo := summary :: List.replicate (args.length + 2) 0 }

theorem received_purge {r : Req} (hr : r.isPurge = true) (p : Port) (args : List Byte) (s : State) :
    PortChanged p (portShifted args (s.summary p) (s.port p)) s (received r p args s) :=
  (received_changed r p args s).of_eq (by simp [portReceived, portShifted, isMistake, hr])

/-- An answered purge step, by the port it leaves. -/
theorem PortChanged.purged {r : Req} {p : Port} {args : List Byte} {status : Status} {progress : Purge} {mistake : Bool}
    {x : PortState} {s t : State} (h : PortChanged p x s t)
    (hx : x = { s.port p with
      response := some ⟨r.role.code, status, []⟩
      purge := progress
      protect := (s.port p).protect || mistake
      pending := (s.port p).pending ||| (if mistake then Notice.protect.bit else 0#16) ||| quiet p
      sdo := s.summary p :: List.replicate (args.length + 2) 0#8 }) :
    SameButPorts s t ∧ Purged r p args status progress mistake quiet s t :=
  ⟨h.rest, (h.of_eq hx).hold⟩

theorem readsFifo_of_purge {r : Req} (hr : r.isPurge = true) : r.readsFifo = false := by
  revert hr
  cases r <;> decide

/-- A purge step refused as a mistake (R177). -/
theorem refused_purge {r : Req} {p : Port} {args : List Byte} {s : State} (hr : r.isPurge = true) (h : Open p s)
    (status : Status) :
    SameButPorts s (takeInput r p (refusePurge r p status (received r p args s))) ∧
      Purged r p args status .nothing true quiet s
        (takeInput r p (refusePurge r p status (received r p args s))) := by
  have idle : (s.port p).request = none := h.1
  have mistaken := portChanged_raise ((received_purge hr p args s).modify fun x =>
    { x with purge := .nothing, protect := true }) .protect
  refine ((mistaken.respond r.role.code status []).takeInput r).purged ?_
  rw [answered_none (by exact idle)]
  simp [portShifted, readsFifo_of_purge hr, quiet]

/-- A purge step that is no mistake and leaves the progress `x`. -/
theorem accepted_purge {r : Req} {p : Port} {args : List Byte} {s : State} (hr : r.isPurge = true) (h : Open p s)
    (status : Status) (x : Purge) :
    SameButPorts s (takeInput r p (answer r p status (setPurge p x (received r p args s)))) ∧
      Purged r p args status x false quiet s
        (takeInput r p (answer r p status (setPurge p x (received r p args s)))) := by
  have idle : (s.port p).request = none := h.1
  have set := (received_purge hr p args s).modify fun y => { y with purge := x }
  refine ((set.respond r.role.code status []).takeInput r).purged ?_
  rw [answered_none (by exact idle)]
  simp [portShifted, readsFifo_of_purge hr, quiet]

/-! ### A write or erase that joins the store queue (R167, R168) -/

/-- The operations that only take the head of the queue when they start. -/
def PlainWrite : StoreOp → Bool
  | .headerWrite _ _ | .recipeWrite _ _ | .geometryWrite _ | .slotErase _ => true
  | _ => false

/-- The state but for the order store's queue and directory and the ports. -/
def StorePorts (s t : State) : Prop := t = { s with store := t.store, ports := t.ports }

theorem StorePorts.trans {s t u : State} (a : StorePorts s t) (b : StorePorts t u) : StorePorts s u := by
  unfold StorePorts at *
  rw [b, a]

theorem StorePorts.of_ports {s t : State} (h : SameButPorts s t) : StorePorts s t := by
  unfold StorePorts SameButPorts at *
  rw [h]

/-- A state in which an operation stands at the end of the queue, and nothing else of the part has changed but the
head of the queue and the notices it raises. -/
structure WriteQueued (op : StoreOp) (raised : Raised) (s t : State) : Prop where
  rest : StorePorts s t
  store : t.store = { s.store with queue := s.store.queue ++ [op], head := t.store.head, sampled := t.store.sampled }
  noticed : Noticed raised s t

theorem noticed_refl (s t : State) (h : t.ports = s.ports) : Noticed quiet s t := fun q => by
  simp [h, quiet]

theorem pushOp_queued (op : StoreOp) (s : State) : WriteQueued op quiet s (pushOp op s) :=
  ⟨rfl, rfl, noticed_refl s _ rfl⟩

theorem startHead_plain {op : StoreOp} (h : PlainWrite op = true) (s : State) :
    ∃ c, startHead op s = { s with store := { s.store with head := .running c } } := by
  cases op with
  | headerWrite | recipeWrite | geometryWrite | slotErase => exact ⟨_, rfl⟩
  | geometryRead | slotRead | journalRead | batchWrite | journalAppend => simp [PlainWrite] at h

theorem isRead_of_plain {op : StoreOp} (h : PlainWrite op = true) : op.isRead = false := by
  cases op <;> simp [PlainWrite] at h <;> rfl

theorem appendIsFull_of_plain {op : StoreOp} (h : PlainWrite op = true) (s : State) : appendIsFull op s = false := by
  cases op <;> simp [PlainWrite] at h <;> rfl

theorem raiseAll_noticed {s u : State} (h : u.ports = s.ports) (n : Notice) :
    Noticed (everywhere n) s (u.raiseAll n) := fun q => by
  rw [port_eq, raiseAll_get, h]
  rfl

/-- A queued write whose head waits for STORE_EN raises STORE. -/
theorem raiseAll_queued {op : StoreOp} {s u : State} (hu : u = { s with store := u.store })
    (hq : u.store = { s.store with queue := s.store.queue ++ [op], head := u.store.head, sampled := u.store.sampled }) :
    WriteQueued op (everywhere .store) s (u.raiseAll .store) := by
  have rest : u.raiseAll .store = { u with ports := (u.raiseAll .store).ports } := rfl
  have stored : StorePorts s u := by
    unfold StorePorts
    conv_lhs => rw [hu]
    rw [hu]
  refine ⟨stored.trans (.of_ports rest), ?_, raiseAll_noticed (by rw [hu]) .store⟩
  rw [raiseAll_store]
  exact hq

/-- A plain write queued behind others, or to a slot that is not DEGRADED. -/
theorem enqueue_plain {op : StoreOp} {s : State} (hop : PlainWrite op = true)
    (hs : targetDegraded op s = false ∨ s.store.queue ≠ []) :
    ∃ raised, WriteQueued op raised s (enqueue op s) := by
  by_cases hq : s.store.queue = []
  · have hslot := hs.resolve_right (not_not_intro hq)
    rw [Limits.enqueue_write hq (isRead_of_plain hop) hslot (appendIsFull_of_plain hop s)]
    split
    · obtain ⟨c, hc⟩ := startHead_plain hop (sampleEnable (pushOp op s))
      rw [hc]
      exact ⟨quiet, rfl, rfl, noticed_refl s _ rfl⟩
    · exact ⟨everywhere .store, raiseAll_queued rfl rfl⟩
  · rw [Limits.enqueue_behind hq]
    exact ⟨quiet, pushOp_queued op s⟩

theorem store_of_sameButPorts {s t : State} (h : SameButPorts s t) : t.store = s.store := by rw [h]

/-- An answer adds to a state no more than a port. -/
theorem answered_sameButPorts (r : Req) (p : Port) (code : Byte) (status : Status) (result : List Byte) (s : State) :
    SameButPorts s (takeInput r p (respond p code status result s)) := by
  unfold SameButPorts
  rw [takeInput_eq, respond_eq]

/-- A slot's erase, queued by a PURGE_COMMIT with no mistake (R178). -/
theorem queuedErase {p : Port} {args : List Byte} {s : State} (h : Open p s) (n : Fin 4)
    (hs : (s.dir n).state ≠ .degraded ∨ s.store.queue ≠ []) :
    ∃ raised t, t = takeInput .purgeCommit p
        (answerOk .purgeCommit p (queueErase n (setPurge p .nothing (received .purgeCommit p args s)))) ∧
      t = { s with store := t.store, ports := t.ports } ∧
      t.store.queue = s.store.queue ++ [.slotErase n] ∧
      t.dir n = { s.dir n with erasePending := true } ∧ (∀ m, m ≠ n → t.dir m = s.dir m) ∧
      Purged .purgeCommit p args .ok .nothing false raised s t := by
  have idle : (s.port p).request = none := h.1
  have set := (received_purge (r := .purgeCommit) rfl p args s).modify fun y => { y with purge := .nothing }
  generalize hs1 : setPurge p .nothing (received .purgeCommit p args s) = s1
  have set : PortChanged p { portShifted args (s.summary p) (s.port p) with purge := .nothing } s s1 := hs1 ▸ set
  have store1 : s1.store = s.store := by rw [set.rest]
  let mark : DirectoryEntry → DirectoryEntry := fun d => { d with erasePending := true }
  have dir2 (m : Fin 4) : (modifyDir n mark s1).dir m = if m = n then mark (s.dir m) else s.dir m := by
    simp only [State.dir, modifyDir, table_get_modify, store1]
    split
    · rename_i hm; rw [if_pos hm.symm, hm]
    · rename_i hm; rw [if_neg (Ne.symm hm)]
  have queue2 : (modifyDir n mark s1).store.queue = s.store.queue := by rw [← store1]; rfl
  have marked : targetDegraded (.slotErase n) (modifyDir n mark s1) = false ∨
      (modifyDir n mark s1).store.queue ≠ [] := by
    rw [queue2]
    refine hs.imp_left fun hd => ?_
    simp only [targetDegraded, StoreOp.slot?, dir2, if_true]
    simpa [mark] using hd
  obtain ⟨raised, queued⟩ := enqueue_plain (op := .slotErase n) (s := modifyDir n mark s1) rfl marked
  have answered := answered_sameButPorts .purgeCommit p 0x52#8 .ok []
    (enqueue (.slotErase n) (modifyDir n mark s1))
  have store : (takeInput .purgeCommit p (answerOk .purgeCommit p (queueErase n s1))).store =
      (enqueue (.slotErase n) (modifyDir n mark s1)).store := store_of_sameButPorts answered
  have dir (m : Fin 4) : (takeInput .purgeCommit p (answerOk .purgeCommit p (queueErase n s1))).dir m =
      if m = n then mark (s.dir m) else s.dir m := by
    rw [← dir2 m, State.dir, store, queued.store]
    rfl
  refine ⟨both quiet raised, _, rfl, ?_, ?_, ?_, fun m hm => ?_, ?_⟩
  · have marking : StorePorts s1 (modifyDir n mark s1) := rfl
    exact (StorePorts.of_ports set.rest).trans (marking.trans (queued.rest.trans (.of_ports answered)))
  · rw [store, queued.store, ← queue2]
  · exact (dir n).trans (if_pos rfl)
  · exact (dir m).trans (if_neg hm)
  · have held : PortsHold p _ quiet s (modifyDir n mark s1) := fun q => set.hold q
    refine (((held.notices queued.noticed).respond _ .ok []).takeInput .purgeCommit).of_eq ?_
    rw [answered_none (by exact idle)]
    simp [portShifted, both, Req.readsFifo, quiet]

/-- The purge progress and the open order's slot as a purge step finds them. -/
theorem received_progress {r : Req} (hr : r.isPurge = true) (p : Port) (args : List Byte) (s : State) :
    ((received r p args s).port p).purge = (s.port p).purge ∧
      (∀ n, isOpenSlot n (received r p args s) = decide (s.line.slot = some n)) ∧
      (received r p args s).store = s.store := by
  refine ⟨by rw [(received_purge hr p args s).own]; rfl, fun n => ?_, by rw [received_eq]⟩
  rw [isOpenSlot, received_eq, Bool.eq_iff_iff]
  simp

theorem slot_of_range {k : Nat} (h : 1 ≤ k ∧ k ≤ 4) : ∃ n : Fin 4, k = n.val + 1 := ⟨⟨k - 1, by omega⟩, by simp; omega⟩

theorem purgeBegin_cases (p : Port) (args : List Byte) (s : State) (h : Admitted .purgeBegin p args s) :
    ∃ t, exec (.purgeBegin p args) s = .next t ∧ SameButPorts s t ∧
      (¬ (1 ≤ natOfBytes args ∧ natOfBytes args ≤ 4) →
        Purged .purgeBegin p args .range .nothing true quiet s t) ∧
      ∀ n : Fin 4, natOfBytes args = n.val + 1 →
        ((s.port p).purge ≠ .nothing ∨ s.line.slot = some n →
          Purged .purgeBegin p args .state .nothing true quiet s t) ∧
        ((s.port p).purge = .nothing → s.line.slot ≠ some n →
          Purged .purgeBegin p args .ok (.begun n) false quiet s t) := by
  refine ⟨_, congrArg Host.Outcome.next (takeRequest_admitted _ h), ?_⟩
  have number : argNat args 0 1 = natOfBytes args := argNat_whole h.length
  obtain ⟨purge, slot, -⟩ := received_progress (r := .purgeBegin) rfl p args s
  simp only [purgeBeginBody, number, purge, slot]
  by_cases range : 1 ≤ natOfBytes args ∧ natOfBytes args ≤ 4
  · obtain ⟨n, hn⟩ := slot_of_range range
    simp only [hn, slotOfNumber_val]
    have only (m : Fin 4) (hm : n.val + 1 = m.val + 1) : n = m := Fin.ext (by omega)
    by_cases bad : (s.port p).purge ≠ .nothing ∨ s.line.slot = some n
    · obtain ⟨same, purged⟩ := refused_purge (r := .purgeBegin) (p := p) (args := args) (s := s) rfl h.slots .state
      rw [if_pos (by simpa using bad)]
      refine ⟨same, fun out => absurd range (hn ▸ out), fun m hm => ?_⟩
      obtain rfl := only m hm
      exact ⟨fun _ => purged, fun hp hs => bad.elim (absurd hp) fun own => absurd own hs⟩
    · obtain ⟨same, purged⟩ := accepted_purge (r := .purgeBegin) (p := p) (args := args) (s := s) rfl h.slots .ok (.begun n)
      rw [if_neg (by simpa using bad)]
      refine ⟨same, fun out => absurd range (hn ▸ out), fun m hm => ?_⟩
      obtain rfl := only m hm
      exact ⟨fun hb => absurd hb bad, fun _ _ => purged⟩
  · obtain ⟨same, purged⟩ := refused_purge (r := .purgeBegin) (p := p) (args := args) (s := s) rfl h.slots .range
    simp only [slotOfNumber_none range]
    exact ⟨same, fun _ => purged, fun n hn => absurd ⟨by omega, by have := n.isLt; omega⟩ range⟩

theorem purgeConfirm_cases (p : Port) (args : List Byte) (s : State) (h : Admitted .purgeConfirm p args s) :
    ∃ t, exec (.purgeConfirm p args) s = .next t ∧ SameButPorts s t ∧
      ((∀ n, (s.port p).purge ≠ .begun n) →
        Purged .purgeConfirm p args .state .nothing true quiet s t) ∧
      ∀ n : Fin 4, (s.port p).purge = .begun n →
        (natOfBytes args = 255 - (n.val + 1) →
          Purged .purgeConfirm p args .ok (.confirmed n) false quiet s t) ∧
        (natOfBytes args ≠ 255 - (n.val + 1) →
          Purged .purgeConfirm p args .invalid .nothing true quiet s t) := by
  refine ⟨_, congrArg Host.Outcome.next (takeRequest_admitted _ h), ?_⟩
  have number : argNat args 0 1 = natOfBytes args := argNat_whole h.length
  obtain ⟨purge, -, -⟩ := received_progress (r := .purgeConfirm) rfl p args s
  have refused := refused_purge (r := .purgeConfirm) (p := p) (args := args) (s := s) rfl h.slots
  simp only [purgeConfirmBody, number, purge]
  cases hp : (s.port p).purge with
  | begun n =>
    have complement : natOfBytes args + (n.val + 1) = 255 ↔ natOfBytes args = 255 - (n.val + 1) := by omega
    by_cases right : natOfBytes args = 255 - (n.val + 1)
    · obtain ⟨same, purged⟩ := accepted_purge (r := .purgeConfirm) (p := p) (args := args) (s := s) rfl h.slots .ok (.confirmed n)
      simp only [complement.2 right, if_true]
      refine ⟨same, fun none => absurd rfl (none n), fun m hm => ?_⟩
      obtain rfl : n = m := by simpa using hm
      exact ⟨fun _ => purged, fun wrong => absurd right wrong⟩
    · simp only [mt complement.1 right, if_false]
      refine ⟨(refused .invalid).1, fun none => absurd rfl (none n), fun m hm => ?_⟩
      obtain rfl : n = m := by simpa using hm
      exact ⟨fun e => absurd e right, fun _ => (refused .invalid).2⟩
  | nothing => exact ⟨(refused .state).1, fun _ => (refused .state).2, fun n hn => absurd hn (by simp)⟩
  | confirmed m => exact ⟨(refused .state).1, fun _ => (refused .state).2, fun n hn => absurd hn (by simp)⟩

/-- PURGE_COMMIT by the rule of its own. -/
theorem exec_purgeCommit {p : Port} {args : List Byte} {s : State} (h : Admitted .purgeCommit p args s) :
    exec (.purgeCommit p args) s =
      .next (takeInput .purgeCommit p (purgeCommitBody p args (received .purgeCommit p args s))) :=
  congrArg Host.Outcome.next (takeRequest_admitted _ h)

/-- CLEAR_PROTECT: a mistake of the purge sequence, if it is one, and then the flag is clear (R177, R180). -/
theorem clearProtect_changed {p : Port} {s : State} (h : Open p s) :
    PortChanged p { s.port p with
        response := some ⟨0x53#8, .ok, []⟩, purge := .nothing, protect := false
        pending := (s.port p).pending ||| (if (s.port p).purge = .nothing then 0#16 else Notice.protect.bit)
        sdo := s.summary p :: List.replicate 2 0#8 } s
      (takeInput .clearProtect p (clearProtectBody p (received .clearProtect p [] s))) := by
  have idle : (s.port p).request = none := h.1
  have cleared := ((((received_changed .clearProtect p [] s).modify fun x => { x with protect := false }).respond
    0x53#8 .ok []).takeInput .clearProtect)
  refine cleared.of_eq ?_
  rw [answered_none (by exact idle)]
  by_cases hp : (s.port p).purge = .nothing
  · simp [-port_eq, portReceived, isMistake, hp, Req.isPurge, Req.readsFifo]
  · simp [-port_eq, portReceived, isMistake, hp, Req.isPurge, Req.readsFifo]

/-- Settles O51: each step by the mistakes it can be, in the order of the table of R177. -/
theorem purgeSequence : Obligations.PurgeSequence := by
  refine ⟨purgeBegin_cases, purgeConfirm_cases, fun p args s h => ?_,
    fun p s h => ⟨_, congrArg Host.Outcome.next (takeRequest_admitted _ h), (clearProtect_changed h.slots).and⟩⟩
  obtain ⟨purge, slot, store⟩ := received_progress (r := .purgeCommit) rfl p args s
  have dir (n : Fin 4) : (received .purgeCommit p args s).dir n = s.dir n := by rw [State.dir, store]; rfl
  have full : (received .purgeCommit p args s).storeFull = s.storeFull := by
    rw [State.storeFull, State.storeCount, store]; rfl
  have number : argNat args 0 1 = natOfBytes args := argNat_whole h.length
  have body := exec_purgeCommit h
  simp only [purgeCommitBody, commitPurge, number, purge, slot, dir, full] at body
  have refused (status : Status) := refused_purge (r := .purgeCommit) (p := p) (args := args) (s := s) rfl h.slots status
  refine ⟨fun out => ?_, fun n hn => ⟨fun none => ?_, fun m hm other => ?_, fun hp own => ?_, fun hp free => ?_⟩⟩
  · simp only [slotOfNumber_none out] at body
    exact ⟨_, body, refused .range⟩
  all_goals simp only [hn, slotOfNumber_val] at body
  · have mistaken : exec (.purgeCommit p args) s = .next
        (takeInput .purgeCommit p (refusePurge .purgeCommit p .state (received .purgeCommit p args s))) := by
      cases hp : (s.port p).purge with
      | confirmed m => exact absurd hp (none m)
      | nothing => simpa only [hp] using body
      | begun m => simpa only [hp] using body
    exact ⟨_, mistaken, refused .state⟩
  · simp only [hm, ne_eq, Ne.symm other, not_false_eq_true, if_true] at body
    exact ⟨_, body, refused .invalid⟩
  · simp only [hp, ne_eq, not_true_eq_false, if_false, own, decide_true, if_true] at body
    exact ⟨_, body, refused .state⟩
  · simp only [hp, ne_eq, not_true_eq_false, if_false, free, decide_false, Bool.false_eq_true] at body
    refine ⟨fun pending => ?_, fun idle hfull => ?_, fun idle room standing => ?_⟩
    · simp only [pending, if_true] at body
      exact ⟨_, body, accepted_purge rfl h.slots .ok .nothing⟩
    · have isFull : s.storeFull = true := decide_eq_true hfull
      simp only [idle, Bool.false_eq_true, if_false, isFull, if_true] at body
      have kept : setPurge p (.confirmed n) (received .purgeCommit p args s) = received .purgeCommit p args s :=
        modifyPort_same (by rw [← hp, ← purge])
      have answered := accepted_purge (r := .purgeCommit) (p := p) (args := args) (s := s) rfl h.slots .busy (.confirmed n)
      rw [kept] at answered
      exact ⟨_, body, answered⟩
    · have notFull : s.storeFull = false := decide_eq_false (Nat.not_le.2 room)
      simp only [idle, Bool.false_eq_true, if_false, notFull] at body
      obtain ⟨raised, t, rfl, rest, queue, erasing, others, purged⟩ := queuedErase (args := args) h.slots n standing
      exact ⟨_, raised, body, rest, queue, erasing, others, purged⟩

end Sys2Proof.Porting

/-! ## Requests that are answered from the state they find -/

namespace Sys2Proof.Answering

open Sys2Proof.Machine Sys2Proof.Safety Sys2Proof.Reporting Sys2Proof.Porting

/-- The ports as the rule of an admitted request finds them. -/
structure Found (r : Req) (p : Port) (args : List Byte) (s : State) (P : Ports) : Prop where
  eq : P = (received r p args s).ports

theorem Found.port {r : Req} {p : Port} {args : List Byte} {s : State} {P : Ports} (h : Found r p args s P) :
    P.get p = portReceived r args (s.summary p) (s.port p) := by
  rw [h.eq]
  exact (received_changed r p args s).own

theorem Found.toStation {r : Req} {p : Port} {args : List Byte} {s : State} {P : Ports} (h : Found r p args s P) :
    (P.get p).toStation = (s.port p).toStation := by rw [h.port]; rfl

theorem Found.fifo {r : Req} {p : Port} {args : List Byte} {s : State} {P : Ports} (h : Found r p args s P) :
    (P.get p).fifo = (s.port p).fifo := by rw [h.port]; rfl

/-- A request whose rule answers a state `y` that has the blocks of `z` and has raised notices. -/
theorem request_noticed {i : Instr} {r : Req} {p : Port} {args : List Byte} {s : State} {body : State → State}
    {status : Status} {result : List Byte} {raised : Raised} (z : State)
    (hexec : exec i s = .next (takeRequest r p args body s)) (h : Admitted r p args s)
    (hbody : ∀ P, Found r p args s P → ∃ y, body { s with ports := P } = respond p r.role.code status result y ∧
      y = { z with ports := y.ports } ∧ ∀ q, y.ports.get q = { P.get q with pending := (P.get q).pending ||| raised q }) :
    ∃ t, exec i s = .next t ∧ t = { z with ports := t.ports } ∧ Answered r p args status result raised s t := by
  obtain ⟨y, hy, blocks, ports⟩ := hbody _ ⟨rfl⟩
  rw [takeRequest_admitted body h, received_eq, hy] at hexec
  have same := answered_sameButPorts r p r.role.code status result y
  refine ⟨_, hexec, ?_, answered_of h ports⟩
  unfold SameButPorts at same
  rw [same, blocks]

/-- A request whose rule answers a state with the blocks of `z` and raises nothing. -/
theorem request_answered {i : Instr} {r : Req} {p : Port} {args : List Byte} {s : State} {body : State → State}
    {status : Status} {result : List Byte} (z : State)
    (hexec : exec i s = .next (takeRequest r p args body s)) (h : Admitted r p args s)
    (hbody : ∀ P, Found r p args s P → body { s with ports := P } = respond p r.role.code status result { z with ports := P }) :
    ∃ t, exec i s = .next t ∧ t = { z with ports := t.ports } ∧ Answered r p args status result quiet s t :=
  request_noticed z hexec h fun P hP => ⟨_, hbody P hP, rfl, fun q => by simp [quiet]⟩

/-- A request whose rule refuses, or answers, without a change. -/
theorem request_refused {i : Instr} {r : Req} {p : Port} {args : List Byte} {s : State} {body : State → State}
    {status : Status} {result : List Byte} (hexec : exec i s = .next (takeRequest r p args body s))
    (h : Admitted r p args s)
    (hbody : ∀ P, Found r p args s P → body { s with ports := P } = respond p r.role.code status result { s with ports := P }) :
    ∃ t, exec i s = .next t ∧ SameButPorts s t ∧ Answered r p args status result quiet s t :=
  request_answered s hexec h hbody

/-- A request whose rule copies records into the FIFO (R188). -/
theorem request_fetching {i : Instr} {r : Req} {p : Port} {args : List Byte} {s : State} {body : State → State}
    {bytes result : List Byte} (hexec : exec i s = .next (takeRequest r p args body s)) (h : Admitted r p args s)
    (hbody : ∀ P, Found r p args s P →
      body { s with ports := P } = sendRecords p r.role.code bytes result { s with ports := P }) :
    ∃ t, exec i s = .next t ∧ SameButPorts s t ∧ Fetching r p args bytes result s t := by
  by_cases none : bytes = []
  · have found (P : Ports) (hP : Found r p args s P) :
        body { s with ports := P } = respond p r.role.code .ok result { s with ports := P } := by
      rw [hbody P hP, none]
      rfl
    obtain ⟨t, ht, same, answered⟩ := request_refused hexec h found
    exact ⟨t, ht, same, by rw [Fetching, if_pos none]; exact answered⟩
  · have idle : (s.port p).request = Option.none := h.slots.1
    have empty : (s.port p).response = Option.none := h.slots.2
    have waits : body (received r p args s) =
        keepExecuting p r.role.code (.words bytes result) (received r p args s) := by
      have := hbody _ ⟨rfl⟩
      rw [← received_eq, sendRecords, if_neg (by simpa using none)] at this
      exact this
    have changed := ((received_changed r p args s).modify fun x =>
      { x with request := some ⟨r.role.code, .words bytes result, false⟩ }).takeInput r
    have own := changed.of_eq (y := portAfter r args (some ⟨r.role.code, .words bytes result, false⟩) Option.none
      (quiet p) (s.summary p) (s.port p)) (by simp [portReceived, portAfter, quiet, ← empty])
    rw [takeRequest_admitted body h, waits] at hexec
    refine ⟨_, hexec, own.rest, ?_⟩
    rw [Fetching, if_neg none]
    intro q
    by_cases hq : q = p
    · subst hq
      rw [if_pos rfl]
      exact own.own
    · rw [if_neg hq]
      refine (own.others q hq).trans ?_
      simp [quiet]

/-- A fetch: a FIFO set toward the part refuses it, and otherwise the records are copied. -/
theorem request_fetch {i : Instr} {r : Req} {p : Port} {args : List Byte} {s : State} {body : State → State}
    {bytes result : List Byte} (hexec : exec i s = .next (takeRequest r p args body s)) (h : Admitted r p args s)
    (hbody : ∀ P, Found r p args s P → body { s with ports := P } =
      if !(P.get p).toStation then answer r p .fifoDir { s with ports := P }
      else sendRecords p r.role.code bytes result { s with ports := P }) :
    ∃ t, exec i s = .next t ∧ SameButPorts s t ∧
      ((s.port p).toStation = false → Answered r p args .fifoDir [] quiet s t) ∧
      ((s.port p).toStation = true → Fetching r p args bytes result s t) := by
  cases dir : (s.port p).toStation with
  | false =>
    obtain ⟨t, ht, same, answered⟩ := request_refused hexec h (status := .fifoDir) (result := []) fun P hP => by
      rw [hbody P hP, hP.toStation, dir]
      rfl
    exact ⟨t, ht, same, fun _ => answered, fun hn => absurd hn (by decide)⟩
  | true =>
    obtain ⟨t, ht, same, fetching⟩ := request_fetching hexec h fun P hP => by
      rw [hbody P hP, hP.toStation, dir]
      rfl
    exact ⟨t, ht, same, fun hn => absurd hn (by decide), fun _ => fetching⟩

theorem argNat_byte (b : Byte) : argNat [b] 0 1 = b.toNat := argNat_first b []

/-! ### The trim requests (R65, R66, R68, R83, R84) -/

theorem trimRecords_flatten (s : State) :
    (trimRecords s).flatten = (List.finRange 7).flatMap (fun k =>
      match (s.unit k).outstanding with
      | some o => [BitVec.ofNat 8 (k.val + 1), o.sequence] ++ bytesOfInt 2 o.delta ++ bytesOfInt 2 (s.unit k).trim
      | none => []) := by
  unfold trimRecords
  have rows : allRows 7 = List.finRange 7 := by decide
  rw [rows]
  induction List.finRange 7 with
  | nil => rfl
  | cons k rest ih =>
    cases ho : (s.unit k).outstanding with
    | none => simpa [ho] using ih
    | some o =>
      simp only [List.filterMap_cons, List.flatMap_cons, ho, Option.map_some, List.flatten_cons, ih]
      rfl

theorem trimRecords_length (s : State) :
    (trimRecords s).length = ((List.finRange 7).filter fun k => (s.unit k).outstanding.isSome).length := by
  unfold trimRecords
  have rows : allRows 7 = List.finRange 7 := by decide
  rw [rows]
  induction List.finRange 7 with
  | nil => rfl
  | cons k rest ih =>
    cases ho : (s.unit k).outstanding with
    | none => simp [ho, ih]
    | some o => simp [ho, ih]

/-- Settles O17: each fetch copies the records of the channels with an outstanding trim. -/
theorem trimsFetched : Obligations.TrimsFetched := by
  refine ⟨fun p s h => ?_, fun p s h => ?_⟩
  · obtain ⟨t, ht, same, refused, fetching⟩ := request_fetch (i := .trimFetch p [])
      (bytes := (trimRecords s).flatten) (result := [lowByte (trimRecords s).length]) rfl h fun _ _ => rfl
    refine ⟨t, ht, same, refused, fun dir => ?_⟩
    have copied := fetching dir
    rw [trimRecords_flatten, trimRecords_length] at copied
    exact copied
  · obtain ⟨t, ht, same, refused, fetching⟩ := request_fetch (i := .embFetch p [])
      (bytes := embossTrimRecord s) (result := [lowByte (bitOf s.emboss.channel.outstanding.isSome)]) rfl h
      fun _ _ => rfl
    refine ⟨t, ht, same, refused, fun dir none => ?_, fun o dir some => ?_⟩
    · have := fetching dir
      simpa [Fetching, embossTrimRecord, none, lowByte, bitOf] using this
    · have := fetching dir
      simpa [embossTrimRecord, some, trimBytes, lowByte, bitOf] using this

/-! ### Roll, cut, label and batch records (R123, R134, R148, R157) -/

@[simp] theorem bytesOfNat_length (k n : Nat) : (bytesOfNat k n).length = k := by
  induction k generalizing n with
  | zero => rfl
  | succ k ih => simp [bytesOfNat, ih]

@[simp] theorem bytesOfInt_length (k : Nat) (v : Int) : (bytesOfInt k v).length = k := bytesOfNat_length ..

@[simp] theorem Shade.bytes_length (x : Shade) : x.bytes.length = 6 := by simp [Machine.Shade.bytes]

theorem headBytes_length (r : RollRecord) : r.headBytes.length = 24 := by
  unfold RollRecord.headBytes
  cases r.grade with
  | none => simp
  | some g => cases g <;> simp [Grade.codes]

theorem totalBytes_length (r : RollRecord) : r.totalBytes.length = 40 := by
  simp [RollRecord.totalBytes]

theorem resultBytes_length (r : RollRecord) : r.resultBytes.length = 94 := by
  unfold RollRecord.resultBytes
  cases r.result.bind ShadeResult.distance <;> simp

/-- The roll record image (R134), the fourth part of O32. -/
theorem image_layout (r : RollRecord) :
    r.image.length = 192 ∧ r.image.take 4 = bytesOfNat 4 r.revision ∧ r.image.drop 188 = bytesOfNat 4 r.revision := by
  let middle := r.headBytes ++ r.totalBytes ++ r.resultBytes ++ List.replicate 26 0#8
  have split : r.image = bytesOfNat 4 r.revision ++ middle ++ bytesOfNat 4 r.revision := by
    simp [RollRecord.image, middle]
  have size : (bytesOfNat 4 r.revision ++ middle).length = 188 := by
    simp [middle, headBytes_length, totalBytes_length, resultBytes_length]
  refine ⟨by rw [split, List.length_append, size, bytesOfNat_length], ?_, ?_⟩
  · rw [split, List.append_assoc]
    exact List.take_left' (bytesOfNat_length ..)
  · rw [split]
    exact List.drop_left' size

theorem batch_bytes (b : Batch) :
    b.bytes = [BitVec.ofNat 8 b.number, if b.isClosed then 1#8 else 0#8, b.save.code, BitVec.ofNat 8 b.foundingRun]
      ++ bytesOfInt 2 b.reference.l ++ bytesOfInt 2 b.reference.a ++ bytesOfInt 2 b.reference.b
      ++ bytesOfNat 2 b.rolls ++ bytesOfNat 4 b.foundingRoll ++ bytesOfNat 4 b.lastRoll := by
  cases hb : b.isClosed <;> simp [Batch.bytes, hb, lowByte, bitOf]

theorem cut_bytes (x : CutRecord) :
    x.bytes = bytesOfNat 4 x.number ++ [x.state.code, codeOr 255#8 (fun i => BitVec.ofNat 8 i.val) x.ending,
        x.kindEnding.code, codeOr 255#8 SegmentKind.code x.kindNext, x.cause.code, 0#8]
      ++ bytesOfInt 4 x.cut ++ bytesOfInt 4 x.strobe := by
  unfold CutRecord.bytes
  cases x.ending <;> cases x.kindNext <;> simp [codeOr, lowByte]

/-- LABEL_FETCH with a head in the queue. -/
theorem labelFetch_head (p : Port) (s : State) {e : LabelEntry} {rest : List LabelEntry} (he : s.label.entries = e :: rest) :
    labelFetchBody p s = if !(s.port p).toStation then answer .labelFetch p .fifoDir s
      else sendRecords p Req.labelFetch.role.code
        (labelBytes (s.line.order.getD 0) e.record (s.record e.record)) (bytesOfNat 4 e.roll) s := by
  have head : labelHead s = some e := by rw [labelHead, he]; rfl
  rw [labelFetchBody, head]

theorem labelFetch_empty (p : Port) (s : State) (he : s.label.entries = []) :
    labelFetchBody p s = if !(s.port p).toStation then answer .labelFetch p .fifoDir s
      else answer .labelFetch p .notFound s := by
  have head : labelHead s = none := by rw [labelHead, he]; rfl
  rw [labelFetchBody, head]

/-- A request that is refused or answered in one of two ways by the direction of the FIFO. -/
theorem request_refused_by {i : Instr} {r : Req} {p : Port} {args : List Byte} {s : State} {body : State → State}
    {status : Status} (hexec : exec i s = .next (takeRequest r p args body s)) (h : Admitted r p args s)
    (hbody : ∀ P, Found r p args s P → body { s with ports := P } =
      if !(P.get p).toStation then answer r p .fifoDir { s with ports := P } else answer r p status { s with ports := P }) :
    ∃ t, exec i s = .next t ∧ SameButPorts s t ∧
      ((s.port p).toStation = false → Answered r p args .fifoDir [] quiet s t) ∧
      ((s.port p).toStation = true → Answered r p args status [] quiet s t) := by
  cases dir : (s.port p).toStation with
  | false =>
    obtain ⟨t, ht, same, answered⟩ := request_refused hexec h (status := .fifoDir) (result := []) fun P hP => by
      rw [hbody P hP, hP.toStation, dir]
      rfl
    exact ⟨t, ht, same, fun _ => answered, fun hn => absurd hn (by decide)⟩
  | true =>
    obtain ⟨t, ht, same, answered⟩ := request_refused hexec h (status := status) (result := []) fun P hP => by
      rw [hbody P hP, hP.toStation, dir]
      rfl
    exact ⟨t, ht, same, fun hn => absurd hn (by decide), fun _ => answered⟩

/-- Settles O32: the image's layout, and each read by what it copies. -/
theorem recordsRead : Obligations.RecordsRead := by
  refine ⟨image_layout, fun p s h => ?_, fun p s h => ?_, fun p n s h => ?_, fun p k s h => ?_⟩
  · obtain ⟨t, ht, same, refused, fetching⟩ := request_fetch (i := .cutFetch p [])
      (bytes := (s.roll.cuts.map CutRecord.bytes).flatten) (result := [lowByte s.roll.cuts.length]) rfl h fun _ _ => rfl
    refine ⟨t, ht, same, refused, fun dir => ?_⟩
    have copied := fetching dir
    rw [← List.flatMap_def, List.flatMap_congr fun x _ => cut_bytes x] at copied
    exact copied
  · cases he : s.label.entries with
    | nil =>
      obtain ⟨t, ht, same, refused, none⟩ := request_refused_by (i := .labelFetch p []) (status := .notFound) rfl h
        fun P _ => labelFetch_empty p { s with ports := P } he
      exact ⟨t, ht, same, refused, fun dir _ => none dir, fun e rest order _ hn => absurd hn (by simp)⟩
    | cons e rest =>
      obtain ⟨t, ht, same, refused, fetching⟩ := request_fetch (i := .labelFetch p [])
        (bytes := labelBytes (s.line.order.getD 0) e.record (s.record e.record)) (result := bytesOfNat 4 e.roll) rfl h
        fun P _ => labelFetch_head p { s with ports := P } he
      refine ⟨t, ht, same, refused, fun _ hn => absurd hn (by simp), fun e' rest' order dir hn ho => ?_⟩
      obtain ⟨rfl, rfl⟩ := List.cons.inj hn
      have copied := fetching dir
      rw [ho] at copied
      simpa [labelBytes, lowByte] using copied
  · by_cases hn : 23 < n.toNat
    · obtain ⟨t, ht, same, answered⟩ := request_refused (i := .readRoll p [n]) (status := .range) (result := []) rfl h
        fun P _ => by rw [readRollBody, argNat_byte, recordOfNumber_none hn]; rfl
      exact ⟨t, ht, same, fun _ => answered, fun hle => absurd hle (Nat.not_le.2 hn),
        fun i hi => absurd i.isLt (by omega)⟩
    · obtain ⟨i, hi⟩ : ∃ i : Fin 24, n.toNat = i.val := ⟨⟨n.toNat, by omega⟩, rfl⟩
      obtain ⟨t, ht, same, refused, fetching⟩ := request_fetch (i := .readRoll p [n])
        (bytes := (s.record i).image) (result := []) rfl h
        fun P _ => by rw [readRollBody, argNat_byte, hi, recordOfNumber_val]; rfl
      refine ⟨t, ht, same, fun hlt => absurd hlt hn, fun _ => refused, fun j hj => ?_⟩
      obtain rfl : i = j := Fin.ext (hi.symm.trans hj)
      exact fetching
  · by_cases range : 1 ≤ k.toNat ∧ k.toNat ≤ 16
    · cases hb : s.batch k.toNat with
      | none =>
        obtain ⟨t, ht, same, answered⟩ := request_refused (i := .readBatch p [k]) (status := .notFound) (result := []) rfl h
          fun P _ => by
            have found : ({ s with ports := P } : State).batch k.toNat = none := hb
            simp only [readBatchBody, argNat_byte, range, not_true_eq_false, if_false, found, and_self]
            rfl
        exact ⟨t, ht, same, fun out => absurd range out, fun _ _ _ => answered, fun b _ _ hn => absurd hn (by simp)⟩
      | some b =>
        obtain ⟨t, ht, same, refused, fetching⟩ := request_fetch (i := .readBatch p [k]) (bytes := b.bytes) (result := []) rfl h
          fun P _ => by
            have found : ({ s with ports := P } : State).batch k.toNat = some b := hb
            simp only [readBatchBody, argNat_byte, range, not_true_eq_false, if_false, found, and_self]
            rfl
        refine ⟨t, ht, same, fun out => absurd range out, fun _ _ hn => absurd hn (by simp), fun b' _ _ hn => ?_⟩
        obtain rfl := Option.some.inj hn
        exact ⟨refused, fun dir => batch_bytes b ▸ fetching dir⟩
    · obtain ⟨t, ht, same, answered⟩ := request_refused (i := .readBatch p [k]) (status := .range) (result := []) rfl h
        fun P _ => by rw [readBatchBody, argNat_byte, if_pos range]; rfl
      exact ⟨t, ht, same, fun _ => answered, fun h1 h2 => absurd ⟨h1, h2⟩ range,
        fun b h1 h2 => absurd ⟨h1, h2⟩ range⟩

/-! ### Shade samples and batches (R135, R136, R147) -/

theorem shadeOfArgs_bytes (l0 l1 a0 a1 b0 b1 : Byte) :
    shadeOfArgs [l0, l1, a0, a1, b0, b1] =
      ⟨(natOfBytes [l0, l1] : Int), intOfBytes [a0, a1], intOfBytes [b0, b1]⟩ := rfl

theorem clampInt_eq {lo hi : Int} (h : lo ≤ hi) (v : Int) : clampInt lo hi v = max lo (min v hi) := by
  unfold clampInt
  split_ifs <;> omega

/-- The codes of the coordinates that the clamp changed (R135). -/
theorem clampShade_codes (x : Shade) (l a b : Int) (hx : 0 ≤ x.l) (hl : l = min x.l 10000)
    (ha : a = max (-12800) (min x.a 12700)) (hb : b = max (-12800) (min x.b 12700)) :
    clampShade x = (⟨l, a, b⟩,
      (if l = x.l then 0 else 1) + (if a = x.a then 0 else 2) + (if b = x.b then 0 else 4)) := by
  have el : clampInt 0 10000 x.l = l := by rw [hl, clampInt_eq (by decide)]; omega
  have ea : clampInt (-12800) 12700 x.a = a := by rw [ha, clampInt_eq (by decide)]
  have eb : clampInt (-12800) 12700 x.b = b := by rw [hb, clampInt_eq (by decide)]
  simp only [clampShade, el, ea, eb, bitsOf, Prod.mk.injEq, true_and]
  clear hl ha hb
  by_cases hl : l = x.l <;> by_cases ha : a = x.a <;> by_cases hb : b = x.b <;> simp [hl, ha, hb, bitOf]

/-- Settles O34: with room the sample joins the queue, and a full queue is marked thin. -/
theorem shadeSample : Obligations.ShadeSample := by
  intro p l0 l1 a0 a1 b0 b1 s l a b codes h hl ha hb hcodes
  have clamped : clampShade (shadeOfArgs [l0, l1, a0, a1, b0, b1]) = (⟨l, a, b⟩, codes) := by
    rw [shadeOfArgs_bytes, hcodes]
    exact clampShade_codes _ l a b (Int.natCast_nonneg _) hl ha hb
  refine ⟨fun room => ?_, fun full => ?_⟩
  · refine request_answered { s with shade := { s.shade with
      queue := s.shade.queue ++ [⟨(s.web.w : Int) - s.geometry.dQ, ⟨l, a, b⟩⟩] } } rfl h fun P _ => ?_
    simp only [shadeSampleBody, clamped]
    rw [if_neg (by simpa [sampleLimit] using room)]
    simp [lowByte]
  · refine request_answered { s with shade := { s.shade with thin := true } } rfl h fun P _ => ?_
    simp only [shadeSampleBody, clamped]
    rw [if_pos (by simpa [sampleLimit] using full)]
    rfl

theorem modifyBatch_batch {k : Nat} {f : Batch → Batch} (hf : ∀ b, (f b).number = b.number) (s : State) (j : Nat) :
    (modifyBatch k f s).batch j = if j = k then (s.batch j).map f else s.batch j := by
  have hfind (bs : List Batch) : (bs.map fun b => if b.number = k then f b else b).find? (fun b => b.number == j) =
      if j = k then (bs.find? fun b => b.number == j).map f else bs.find? fun b => b.number == j := by
    induction bs with
    | nil => simp
    | cons b rest ih =>
      by_cases hk : b.number = k
      · by_cases hj : j = k
        · simp [hk, hj, hf]
        · simp only [List.map_cons, hk, if_true, List.find?_cons, hf, ih, hj, if_false, beq_false_of_ne (Ne.symm hj)]
      · by_cases hj : b.number = j
        · simp [hj, hj ▸ hk]
        · simp only [List.map_cons, hk, if_false, List.find?_cons, beq_false_of_ne hj, ih]
  exact hfind s.shade.batches

/-- The batch number `k` has been given up to be written: it is not SAVED, and no other batch has changed (R149). -/
structure GivenUp (k : Nat) (b : Batch) (s t : State) : Prop where
  rest : t = { s with ports := t.ports, store := t.store, shade := { s.shade with batches := t.shade.batches } }
  found : ∃ save ≠ SaveState.saved, t.batch k = some { b with save := save }
  others : ∀ j, j ≠ k → t.batch j = s.batch j
  notices : Starting.OnlyNotices s t

theorem givenUp_modifyBatch {k : Nat} {b : Batch} {s : State} (hb : s.batch k = some b) {save : SaveState}
    (hs : save ≠ .saved) : GivenUp k b s (modifyBatch k (fun b => { b with save := save }) s) := by
  refine ⟨rfl, ⟨save, hs, ?_⟩, fun j hj => ?_, .refl _⟩
  · rw [modifyBatch_batch (fun _ => by rfl), if_pos rfl, hb]
    rfl
  · rw [modifyBatch_batch (fun _ => by rfl), if_neg hj]

theorem GivenUp.trans {k : Nat} {b c : Batch} {s t u : State} (a : GivenUp k b s t)
    (h : GivenUp k { b with save := c.save } t u) : GivenUp k b s u := by
  obtain ⟨save, hs, found⟩ := h.found
  refine ⟨?_, ⟨save, hs, found⟩, fun j hj => (h.others j hj).trans (a.others j hj), a.notices.trans h.notices⟩
  rw [h.rest, a.rest]

/-- A change of the store's own part leaves the batches given up. -/
theorem GivenUp.after {k : Nat} {b : Batch} {s t u : State} (h : GivenUp k b s t)
    (hu : u = { t with store := u.store, ports := u.ports }) (notices : Starting.OnlyNotices t u) : GivenUp k b s u := by
  have batch (j : Nat) : u.batch j = t.batch j := by rw [hu]; rfl
  refine ⟨?_, ?_, fun j hj => (batch j).trans (h.others j hj), h.notices.trans notices⟩
  · rw [hu, h.rest]
  · rw [batch]
    exact h.found

/-- A BATCH_WRITE queued for a batch that is QUEUED (R149, R150). -/
theorem givenUp_enqueue {n : Fin 4} {k : Nat} {b : Batch} {s : State} (hslot : (s.dir n).state ≠ .degraded)
    (hb : s.batch k = some b) (hq : b.save = .queued) : GivenUp k b s (enqueue (.batchWrite n k) s) := by
  have same : GivenUp k b s s := ⟨rfl, ⟨b.save, by rw [hq]; decide, hb⟩, fun _ _ => rfl, .refl s⟩
  by_cases empty : s.store.queue = []
  · rw [Batching.enqueue_batchWrite_empty hslot empty]
    split
    · have found : (sampleEnable (pushOp (.batchWrite n k) s)).batch k = some b := hb
      have starts : startHead (.batchWrite n k) (sampleEnable (pushOp (.batchWrite n k) s)) =
          { modifyBatch k (fun b => if b.save = .queued then { b with save := .writing } else b) s with
            store := (startHead (.batchWrite n k) (sampleEnable (pushOp (.batchWrite n k) s))).store } := by
        simp only [startHead, found]
        rfl
      have number (b : Batch) : (if b.save = .queued then { b with save := .writing } else b : Batch).number = b.number := by
        split <;> rfl
      have marked : GivenUp k b s (modifyBatch k (fun b => if b.save = .queued then { b with save := .writing } else b) s) := by
        refine ⟨rfl, ⟨.writing, by decide, ?_⟩, fun j hj => ?_, .refl _⟩
        · rw [modifyBatch_batch number, if_pos rfl, hb, Option.map_some, if_pos hq]
        · rw [modifyBatch_batch number, if_neg hj]
      exact marked.after (by rw [starts]) ((consequent_startHead _ _).after_eq rfl rfl).notices
    · have waiting := raiseAll_queued (op := .batchWrite n k) (s := s) (u := { sampleEnable (pushOp (.batchWrite n k) s) with
        store := { (sampleEnable (pushOp (.batchWrite n k) s)).store with head := .waiting } }) rfl rfl
      exact same.after waiting.rest ⟨_, waiting.noticed⟩
  · rw [Limits.enqueue_behind empty]
    exact same.after rfl (.refl _)

theorem saveBatch_givenUp {k : Nat} {b : Batch} {s : State} (hb : s.batch k = some b) : GivenUp k b s (saveBatch k s) := by
  simp only [saveBatch, hb]
  split
  · rename_i hq
    exact ⟨rfl, ⟨.queued, by decide, by rw [hb, ← hq]⟩, fun _ _ => rfl, .refl s⟩
  · have unsaved := givenUp_modifyBatch hb (save := .unsaved) (by decide)
    have found : (modifyBatch k (fun b => { b with save := .unsaved }) s).batch k = some { b with save := .unsaved } := by
      rw [modifyBatch_batch (fun _ => by rfl), if_pos rfl, hb]
      rfl
    split
    · rename_i n hn
      split
      · have queued := givenUp_modifyBatch found (save := .queued) (by decide)
        have both := unsaved.trans (c := { b with save := .unsaved }) queued
        refine both.trans (c := { b with save := .queued }) (givenUp_enqueue ?_ ?_ rfl)
        · exact Batching.writableSlot_not_degraded hn
        · rw [modifyBatch_batch (fun _ => by rfl), if_pos rfl, found]
          rfl
      · exact unsaved
    · exact unsaved

/-- Settles O35: BATCH_CLOSE by what the table holds of the number. -/
theorem batchClose : Obligations.BatchClose := by
  intro p k s h
  refine ⟨fun out => ?_, fun low high none => ?_, fun b low high found => ⟨fun closed => ?_, fun opened => ?_⟩⟩
  · exact request_refused rfl h fun P _ => by rw [batchCloseBody, argNat_byte, if_pos out]; rfl
  · refine request_refused rfl h fun P _ => ?_
    have missing : ({ s with ports := P } : State).batch k.toNat = Option.none := none
    simp only [batchCloseBody, argNat_byte, low, high, and_self, not_true_eq_false, if_false, missing]
    rfl
  · refine request_refused rfl h fun P _ => ?_
    have held : ({ s with ports := P } : State).batch k.toNat = some b := found
    simp only [batchCloseBody, argNat_byte, low, high, and_self, not_true_eq_false, if_false, held, closed, if_true]
    rfl
  · let close : Batch → Batch := fun b => { b with isClosed := true }
    let z (P : Ports) : State := modifyBatch k.toNat close { s with ports := P }
    have closing (P : Ports) : (z P).batch k.toNat = some { b with isClosed := true } := by
      rw [modifyBatch_batch (fun _ => by rfl), if_pos rfl]
      exact congrArg (Option.map close) found
    have others (P : Ports) (j : Nat) (hj : j ≠ k.toNat) : (z P).batch j = s.batch j := by
      rw [modifyBatch_batch (fun _ => by rfl), if_neg hj]
      rfl
    let P := (received .batchClose p [k] s).ports
    have given := saveBatch_givenUp (closing P)
    obtain ⟨raised, noticed⟩ := given.notices
    obtain ⟨save, unsaved, batch⟩ := given.found
    have body (P' : Ports) (hP : Found .batchClose p [k] s P') :
        batchCloseBody p [k] { s with ports := P' } = answerOk .batchClose p (saveBatch k.toNat (z P)) := by
      obtain rfl : P' = P := hP.eq
      have held : ({ s with ports := P } : State).batch k.toNat = some b := found
      simp only [batchCloseBody, argNat_byte, low, high, and_self, not_true_eq_false, if_false, held, opened,
        Bool.false_eq_true]
      rfl
    obtain ⟨t, ht, same, answered⟩ := request_noticed (i := .batchClose p [k]) (saveBatch k.toNat (z P)) rfl h
      fun P' hP => ⟨_, body P' hP, rfl, fun q => by obtain rfl : P' = P := hP.eq; exact noticed q⟩
    have batches (j : Nat) : t.batch j = (saveBatch k.toNat (z P)).batch j := by rw [same]; rfl
    refine ⟨t, raised, save, ht, ?_, (batches _).trans batch, unsaved, fun j hj => ?_, answered⟩
    · rw [same, given.rest]
      rfl
    · rw [batches, given.others j hj, others P j hj]

/-! ### TRIM_HOLD, SAMPLE_FLUSH and the acknowledgements (R66, R68, R70, R84) -/

theorem unitOfNumber_val (k : Fin 7) : unitOfNumber (k.val + 1) = some k := by
  simp [unitOfNumber, Nat.succ_le_of_lt k.isLt]

theorem unitOfNumber_none {n : Nat} (h : ¬ (1 ≤ n ∧ n ≤ 7)) : unitOfNumber n = none := dif_neg h

/-- A channel awaits the report of a sequence while its outstanding trim has it. -/
theorem awaits_iff (c : RegisterChannel) (q : Byte) :
    c.awaits q = true ↔ ∃ o, c.outstanding = some o ∧ o.sequence = q := by
  unfold RegisterChannel.awaits
  cases c.outstanding <;> simp

theorem not_taken {c : RegisterChannel} {q : Byte}
    (h : c.state = .off ∨ ∀ o, c.outstanding = some o → o.sequence ≠ q) : (c.awaits q && c.state != .off) = false := by
  rcases h with off | other
  · simp [off]
  · have : c.awaits q = false := Bool.eq_false_iff.2 fun hn => by
      obtain ⟨o, ho, hq⟩ := (awaits_iff c q).1 hn
      exact other o ho hq
    simp [this]

theorem taken {c : RegisterChannel} {q : Byte} {o : Trim} (ho : c.outstanding = some o) (hq : o.sequence = q)
    (hs : c.state ≠ .off) : (c.awaits q && c.state != .off) = true := by
  simp [(awaits_iff c q).2 ⟨o, ho, hq⟩, hs]

/-- Settles O15: a report by the channel it names and the trim outstanding there. -/
theorem trimsAcknowledged : Obligations.TrimsAcknowledged := by
  refine ⟨fun p u q s h => ⟨fun out => ?_, fun k hk => ⟨fun o ho hq hs => ?_, fun other => ?_⟩⟩,
    fun p q s h => ⟨fun o ho hq hs => ?_, fun other => ?_⟩⟩
  · exact request_refused rfl h fun P _ => by rw [trimAppliedBody, argNat_first, unitOfNumber_none out]; rfl
  · refine request_answered { s with register := { s.register with units := s.register.units.set k { s.unit k with
      outstanding := none, settleBoundary := s.web.w + s.geometry.settle.get k } } } rfl h fun P _ => ?_
    rw [trimAppliedBody, argNat_first, hk, unitOfNumber_val]
    exact if_pos (taken ho hq hs)
  · refine request_refused rfl h fun P _ => ?_
    rw [trimAppliedBody, argNat_first, hk, unitOfNumber_val]
    exact if_neg (by rw [show argByte [u, q] 1 = q from rfl]; exact (not_taken other).symm ▸ Bool.false_ne_true)
  · refine request_answered { s with emboss := { s.emboss with channel := { s.emboss.channel with
      outstanding := none, settleBoundary := s.web.w + s.geometry.settleEmboss } } } rfl h fun P _ => ?_
    exact if_pos (taken ho hq hs)
  · refine request_refused rfl h fun P _ => ?_
    exact if_neg (by rw [show argByte [q] 0 = q from rfl]; exact (not_taken other).symm ▸ Bool.false_ne_true)

theorem both_assoc (x y z : Raised) : both (both x y) z = both x (both y z) := funext fun _ => BitVec.or_assoc ..

theorem quiet_both (x : Raised) : both quiet x = x := funext fun _ => BitVec.zero_or

theorem both_onIf (a b : Bool) (p : Port) (n : Notice) : both (onIf a p n) (onIf b p n) = onIf (a || b) p n := by
  funext q
  cases a <;> cases b <;> simp [both, onIf, quiet]

/-- Two notices raised twice over are two notices. -/
theorem both_onIf_twice (a b c d : Bool) (p : Port) (n m : Notice) :
    both (both (onIf a p n) (onIf b p m)) (both (onIf c p n) (onIf d p m)) = both (onIf (a || c) p n) (onIf (b || d) p m) :=
  calc both (both (onIf a p n) (onIf b p m)) (both (onIf c p n) (onIf d p m))
      = both (onIf a p n) (both (both (onIf c p n) (onIf b p m)) (onIf d p m)) := by
        rw [both_assoc, ← both_assoc (onIf b p m), Starting.both_comm (onIf b p m)]
    _ = both (onIf (a || c) p n) (onIf (b || d) p m) := by
        rw [both_assoc, both_onIf, ← both_assoc, both_onIf]

theorem raise_noticed (p : Port) (n : Notice) (s : State) : Noticed (on p n) s (s.raise p n) := fun q => by
  by_cases hq : q = p
  · simp [hq, on]
  · simp [hq, on]

theorem raise_noticed_if (b : Bool) (p : Port) (n : Notice) (s : State) :
    Noticed (onIf b p n) s (if b then s.raise p n else s) := by
  cases b
  · exact noticed_refl s s rfl
  · exact raise_noticed p n s

theorem putUnit_noticed (k : Fin 7) (x : ChannelStep) (s : State) :
    Noticed (both (onIf x.2.posted .press .trim) (onIf (x.2.changed || x.2.timedOut) .press .register)) s
      (putUnit k x s) := by
  unfold putUnit
  exact Starting.noticed_both
    (raise_noticed_if x.2.posted .press .trim { s with register := { s.register with units := s.register.units.set k x.1 } })
    (raise_noticed_if _ .press .register _)

theorem any_of_mem {u v : State} {ks : List (Fin 7)} (b : ChannelStep → Bool) (f : Fin 7 → RegisterChannel → ChannelStep)
    (h : ∀ k ∈ ks, u.unit k = v.unit k) : (ks.any fun k => b (f k (u.unit k))) = ks.any fun k => b (f k (v.unit k)) := by
  rw [Bool.eq_iff_iff]
  simp only [List.any_eq_true]
  exact exists_congr fun k => and_congr_right fun hk => by rw [h k hk]

/-- The notices of the channels of a list that take their new values one after another. -/
theorem foldUnits_noticed (f : Fin 7 → RegisterChannel → ChannelStep) (ks : List (Fin 7)) (hks : ks.Nodup) (s : State) :
    Noticed (both (onIf (ks.any fun k => (f k (s.unit k)).2.posted) .press .trim)
      (onIf (ks.any fun k => (f k (s.unit k)).2.changed || (f k (s.unit k)).2.timedOut) .press .register)) s
      (ks.foldl (fun s k => putUnit k (f k (s.unit k)) s) s) := by
  induction ks generalizing s with
  | nil => exact Starting.noticed_both (noticed_refl s s rfl) (noticed_refl s s rfl)
  | cons k ks ih =>
    obtain ⟨hk, hks⟩ := List.nodup_cons.1 hks
    have kept (j : Fin 7) (hj : j ∈ ks) : (putUnit k (f k (s.unit k)) s).unit j = s.unit j := by
      rw [Starting.putUnit_unit, if_neg (fun e : k = j => hk (e ▸ hj))]
    have rest := ih hks (putUnit k (f k (s.unit k)) s)
    rw [any_of_mem (fun c => c.2.posted) f kept, any_of_mem (fun c => c.2.changed || c.2.timedOut) f kept] at rest
    rw [List.foldl_cons, List.any_cons, List.any_cons, ← both_onIf_twice]
    exact Starting.noticed_both (putUnit_noticed k _ s) rest

/-- The notices of unit channels that take their new values one after another. -/
theorem eachUnit_noticed (f : Fin 7 → RegisterChannel → ChannelStep) (s : State) :
    Noticed (both (onIf (decide (∃ k, (f k (s.unit k)).2.posted = true)) .press .trim)
      (onIf (decide (∃ k, ((f k (s.unit k)).2.changed || (f k (s.unit k)).2.timedOut) = true)) .press .register)) s
      (eachUnit f s) := by
  have rows (b : Fin 7 → Bool) : (allRows 7).any b = decide (∃ k, b k = true) := by
    rw [Bool.eq_iff_iff]
    simp [Starting.mem_allRows_seven]
  rw [← rows, ← rows]
  exact foldUnits_noticed f (allRows 7) Starting.allRows_seven_nodup s

/-- What SAMPLE_FLUSH makes of a channel (R70). -/
theorem reacquire_fst (c : RegisterChannel) :
    (reacquire c).1 = match c.state with
      | .off => c
      | .acquire => { c with samples := [], lockCount := 0, sinceEvaluation := 0 }
      | .locked | .hold | .limit =>
        { c with state := .acquire, samples := [], sinceEvaluation := 0, misses := 0, lockCount := 0 } := by
  unfold reacquire
  cases hs : c.state <;> simp [enterState, RegisterChannel.restart, hs]

theorem reacquire_posted (c : RegisterChannel) : (reacquire c).2.posted = false ∧ (reacquire c).2.timedOut = false := by
  unfold reacquire
  cases hs : c.state <;> simp [enterState, RegisterChannel.restart, hs, ChannelEvents.none]

theorem reacquire_changed (c : RegisterChannel) :
    (reacquire c).2.changed = true ↔ (reacquire c).1 ≠ c ∧ c.state ≠ .acquire := by
  unfold reacquire
  cases hs : c.state <;> simp [enterState, RegisterChannel.restart, hs, ChannelEvents.none]
  all_goals exact fun h => absurd (congrArg RegisterChannel.state h) (by simp [hs])

/-- Settles O16: TRIM_HOLD and SAMPLE_FLUSH by their argument, and a flush turned on channel by channel. -/
theorem holdAndFlush : Obligations.HoldAndFlush := by
  refine ⟨fun p v s h => ⟨fun low => ?_, fun high => ?_⟩, fun p v s h => ⟨fun high => ?_, fun still => ?_, fun one off => ?_⟩⟩
  · refine request_answered { s with register := { s.register with trimHold := v.toNat == 1 } } rfl h fun P _ => ?_
    rw [trimHoldBody, argNat_byte, if_neg (Nat.not_lt.2 low)]
    rfl
  · exact request_refused rfl h fun P _ => by rw [trimHoldBody, argNat_byte, if_pos high]; rfl
  · exact request_refused rfl h fun P _ => by rw [sampleFlushBody, argNat_byte, if_pos high]; rfl
  · refine request_answered { s with register := { s.register with sampleFlush := v.toNat == 1 } } rfl h fun P _ => ?_
    have low : ¬ 1 < v.toNat := by omega
    rw [sampleFlushBody, argNat_byte, if_neg low]
    refine congrArg (answerOk .sampleFlush p) ?_
    unfold setFlush
    rcases still with zero | ⟨one, on⟩
    · simp [zero]
    · simp [one, on]
  · let f : Fin 7 → RegisterChannel → ChannelStep := fun _ c => reacquire c
    let flushed (P : Ports) : State := { s with ports := P, register := { s.register with sampleFlush := true } }
    have unit (P : Ports) (k : Fin 7) : (eachUnit f (flushed P)).unit k = (reacquire (s.unit k)).1 :=
      Starting.eachUnit_unit f (flushed P) k
    have body (P : Ports) : sampleFlushBody p [v] { s with ports := P } = answerOk .sampleFlush p (eachUnit f (flushed P)) := by
      rw [sampleFlushBody, argNat_byte, one, if_neg (by decide)]
      refine congrArg (answerOk .sampleFlush p) ?_
      simp only [setFlush, off]
      rfl
    have units (P : Ports) : (eachUnit f (flushed P)).register.units = (eachUnit f s).register.units :=
      table_ext _ _ fun k => (unit P k).trans (Starting.eachUnit_unit f s k).symm
    have noticed (P : Ports) : Noticed (onIf (decide (∃ k, (reacquire (s.unit k)).2.changed = true)) .press .register)
        (flushed P) (eachUnit f (flushed P)) := by
      have raised := eachUnit_noticed f (flushed P)
      have silent (k : Fin 7) : (f k ((flushed P).unit k)).2.posted = false := (reacquire_posted (s.unit k)).1
      have changed (k : Fin 7) : ((f k ((flushed P).unit k)).2.changed || (f k ((flushed P).unit k)).2.timedOut) =
          (reacquire (s.unit k)).2.changed := by
        rw [show (f k ((flushed P).unit k)).2.timedOut = false from (reacquire_posted (s.unit k)).2, Bool.or_false]
        rfl
      simp only [silent, changed, Bool.false_eq_true, exists_false, decide_false] at raised
      rwa [show onIf false Port.press Notice.trim = quiet from rfl, quiet_both] at raised
    obtain ⟨t, ht, same, answered⟩ := request_noticed (i := .sampleFlush p [v])
      (raised := onIf (decide (∃ k, (reacquire (s.unit k)).2.changed = true)) .press .register)
      { s with register := { s.register with sampleFlush := true, units := (eachUnit f s).register.units } } rfl h
      fun P _ => ⟨_, body P, by rw [Starting.eachUnit_eq, units], noticed P⟩
    have stored : t.register.units = (eachUnit f s).register.units := by rw [same]
    have unitAfter (k : Fin 7) : t.unit k = (reacquire (s.unit k)).1 :=
      (congrArg (fun x => Table.get x k) stored).trans (Starting.eachUnit_unit f s k)
    refine ⟨t, ht, ?_, fun k => (unitAfter k).trans (reacquire_fst _), ?_⟩
    · rw [stored]
      exact same
    · simp only [unitAfter, ← reacquire_changed]
      exact answered

/-! ### Trims that time out (R67, R85) -/

theorem timeoutDue_iff (frame : Nat) {c : RegisterChannel} {o : Trim} (h : c.outstanding = some o) :
    timeoutDue frame c = true ↔ o.timedOut = false ∧ o.postedAt + 16 ≤ frame := by
  simp only [timeoutDue, h]
  cases o.timedOut <;> simp

/-- A timeout that is due marks the trim and, but for a channel that stays where it is, enters HOLD. -/
theorem timeOut_due {k : ChannelSettings} {frame : Nat} {c : RegisterChannel} {o : Trim} (ho : c.outstanding = some o)
    (fresh : o.timedOut = false) (due : o.postedAt + 16 ≤ frame) :
    (timeOut k frame (c, .none)).1.outstanding = some { o with timedOut := true } ∧
    (timeOut k frame (c, .none)).1.trim = c.trim ∧ (timeOut k frame (c, .none)).1.samples = c.samples ∧
    (timeOut k frame (c, .none)).1.state = (match c.state with
      | .off => .off
      | .acquire => if k.flush then .acquire else .hold
      | .locked | .limit | .hold => .hold) ∧
    (timeOut k frame (c, .none)).2.posted = false ∧ (timeOut k frame (c, .none)).2.timedOut = true := by
  have hdue := (timeoutDue_iff frame ho).2 ⟨fresh, due⟩
  unfold timeOut
  rw [if_pos hdue]
  cases hs : c.state <;> cases hf : k.flush <;> simp [enterState, ho, hs, ChannelEvents.none]

theorem timeOut_notDue {k : ChannelSettings} {frame : Nat} {c : RegisterChannel} {o : Trim} (ho : c.outstanding = some o)
    (h : o.timedOut = true ∨ frame < o.postedAt + 16) : timeOut k frame (c, .none) = (c, .none) := by
  have : ¬ timeoutDue frame c = true := fun hn => by
    obtain ⟨fresh, due⟩ := (timeoutDue_iff frame ho).1 hn
    rcases h with h | h
    · simp [fresh] at h
    · omega
  exact if_neg this

theorem putUnit_same (k : Fin 7) (s : State) : putUnit k (s.unit k, .none) s = s := by
  simp only [putUnit, ChannelEvents.none, Bool.or_self, Bool.false_eq_true, if_false, State.unit, Whole.set_get_self]

theorem judgeChange_eq (before : NipState) (s : State) :
    judgeChange before s = { s with map := (judgeChange before s).map } := by
  unfold judgeChange
  split
  · rfl
  · exact Starting.judgeEmboss_eq s

theorem judgeChange_onlyNotices (before : NipState) (s : State) : Starting.OnlyNotices s (judgeChange before s) := by
  rw [judgeChange_eq]
  exact ⟨quiet, noticed_refl s _ rfl⟩

theorem withdrawPermit_eq (s : State) :
    withdrawPermit s = { s with
      emboss := { s.emboss with nip := (withdrawPermit s).emboss.nip }, ports := (withdrawPermit s).ports } := by
  unfold withdrawPermit
  split
  · rw [Starting.enterNip_eq]
  · rfl

theorem withdrawPermit_onlyNotices (s : State) : Starting.OnlyNotices s (withdrawPermit s) := by
  unfold withdrawPermit
  split
  · exact Starting.enterNip_onlyNotices .opened s
  · exact .refl s

theorem putEmboss_noticed (x : ChannelStep) (s : State) :
    Noticed (onIf (x.2.posted || x.2.changed || x.2.timedOut) .emboss .emb) s (putEmboss x s) :=
  raise_noticed_if _ .emboss .emb { s with emboss := { s.emboss with channel := x.1 } }

/-- Settles O14: a unit's trim and the emboss cylinder's by the sixteenth frame. -/
theorem trimsTimeOut : Obligations.TrimsTimeOut := by
  refine ⟨fun k s o ho => ⟨fun fresh due => ?_, fun notDue => ?_⟩, fun s o ho => ⟨fun notDue permit => ?_, fun fresh due => ?_⟩⟩
  · obtain ⟨marked, trim, samples, state, silent, announced⟩ :=
      timeOut_due (k := unitSettings s) (frame := s.register.frameIndex) ho fresh due
    have unit := Starting.putUnit_unit k
    refine ⟨_, rfl, ?_, ?_, fun j hj => ?_, ?_⟩
    · rw [trimTimeout, Starting.putUnit_eq]
    · have raised := putUnit_noticed k (timeOut (unitSettings s) s.register.frameIndex (s.unit k, .none)) s
      rw [silent, announced, Bool.or_true, show onIf false Port.press Notice.trim = quiet from rfl, quiet_both] at raised
      exact raised
    · rw [trimTimeout, unit, if_neg (Ne.symm hj)]
    · rw [trimTimeout, unit, if_pos rfl]
      exact ⟨marked, trim, samples, state⟩
  · refine congrArg Host.Outcome.next ?_
    rw [trimTimeout, timeOut_notDue ho notDue, putUnit_same]
  · refine congrArg Host.Outcome.next ?_
    have kept : putEmboss (s.emboss.channel, .none) s = s := rfl
    have permitted : withdrawPermit s = s := if_neg fun ⟨ready, unlocked⟩ => unlocked (permit ready)
    rw [embTimeout, timeOut_notDue ho notDue, kept, permitted]
    exact if_pos rfl
  · obtain ⟨marked, trim, samples, state, -, announced⟩ :=
      timeOut_due (k := embossSettings s) (frame := s.emboss.frameIndex) ho fresh due
    let x := timeOut (embossSettings s) s.emboss.frameIndex (s.emboss.channel, .none)
    have rest : embTimeout s = { s with
        emboss := { s.emboss with channel := x.1, nip := (embTimeout s).emboss.nip }
        map := (embTimeout s).map, ports := (embTimeout s).ports } := by
      unfold embTimeout
      rw [judgeChange_eq, withdrawPermit_eq, Starting.putEmboss_eq]
    have channel : (embTimeout s).emboss.channel = x.1 := by rw [rest]
    refine ⟨_, rfl, ?_, ?_, ?_, ?_, ?_, ?_⟩
    · rw [channel]; exact marked
    · rw [channel]; exact trim
    · rw [channel]; exact samples
    · rw [channel]
      refine state.trans ?_
      cases s.emboss.channel.state <;> rfl
    · have raised : Pending .emboss .emb (putEmboss x s) := by
        have timedOut : x.2.timedOut = true := announced
        unfold putEmboss
        rw [timedOut, Bool.or_true]
        exact Batching.pending_raise ..
      exact Batching.pending_of_onlyNotices
        ((withdrawPermit_onlyNotices _).trans (judgeChange_onlyNotices _ _)) raised
    · conv_lhs => rw [rest]
      rw [channel]

end Sys2Proof.Answering

/-! ## Reports to the web map (R100, R101) -/

namespace Sys2Proof.Mapping

open Sys2Proof.Machine Sys2Proof.Safety Sys2Proof.Reporting Sys2Proof.Porting Sys2Proof.Answering

theorem classOfNumber_val (cls : Fin 16) : classOfNumber cls.val = some cls := dif_pos cls.isLt

theorem classOfNumber_none {n : Nat} (h : 15 < n) : classOfNumber n = none := dif_neg (by omega)

theorem argNat_rest {args : List Byte} {k n : Nat} (h : args.length = k + n) : argNat args k n = natOfBytes (args.drop k) := by
  rw [argNat, List.take_of_length_le (by simp; omega)]

/-- The length of a DEFECT as it is clamped (R101). -/
theorem clampDefect_eq {g : Geometry} {n : Nat} {len : Int}
    (h : len = max 1 (min (n : Int) ((g.dK : Int) - g.dQ - 1))) : clampDefect g n = (len, decide (len ≠ n)) := by
  have clamped : (if (g.dK : Int) - g.dQ - 1 < 1 then 1 else clampInt 1 ((g.dK : Int) - g.dQ - 1) n) = len := by
    split
    · omega
    · rw [clampInt_eq (by omega)]
      omega
  simp only [clampDefect, clamped]

/-- Settles O20: a defect report by the entry it extends, and otherwise by the room of the map. -/
theorem defectReported : Obligations.DefectReported := by
  intro p args s h
  have first : argNat args 0 1 = natOfBytes (args.take 1) := rfl
  have rest : argNat args 1 4 = natOfBytes (args.drop 1) := argNat_rest h.length
  refine ⟨fun big => ?_, fun cls given len e hcls hgiven hlen he => ?_⟩
  · exact request_refused rfl h fun P _ => by rw [defectBody, first, classOfNumber_none big]; rfl
  rw [hgiven] at hlen
  have length : clampDefect s.geometry (argNat args 1 4) = (len, decide (len ≠ given)) := by
    rw [rest, clampDefect_eq hlen, hgiven]
  have clampByte (d : Disposition) : reportResult d (decide (len ≠ given)) = [d.code, if len = given then 0#8 else 1#8] := by
    by_cases hl : len = given <;> simp [reportResult, hl]
  have start : e.start = (s.web.w : Int) - s.geometry.dQ - len := by rw [he]; rfl
  have clamp : e.clamped = decide (len ≠ given) := by rw [he]
  have entry : newEntry .defect e.start (some ((s.web.w : Int) - s.geometry.dQ)) (.defectClass cls) e.clamped = e := by
    rw [start, clamp, he]
    rfl
  have kind : e.kind = .defect := by rw [he]; rfl
  have reported {m : WebMap} {d : Disposition}
      (hr : reportDefect e.start ((s.web.w : Int) - s.geometry.dQ) cls e.clamped s.map = some (m, d)) :
      ∃ t, exec (.defect p args) s = .next t ∧ t = { s with map := m, ports := t.ports } ∧
        Answered .defect p args .ok [d.code, if len = given then 0#8 else 1#8] quiet s t := by
    rw [start, clamp] at hr
    refine request_answered { s with map := m } rfl h fun P _ => ?_
    simp only [defectBody, first, hcls, classOfNumber_val, length, hr, clampByte]
  have added {m : WebMap} {d : Disposition} (none : ExtendsNone .defect (.defectClass cls) e.start s.map.entries)
      (hadd : addEntry e s.map = some (m, d)) :
      reportDefect e.start ((s.web.w : Int) - s.geometry.dQ) cls e.clamped s.map = some (m, d) := by
    obtain ⟨miss, -⟩ | ⟨b, x, a, z, ext, -⟩ := mergeTarget_spec .defect (.defectClass cls) e.start s.map
    · rw [reportDefect, miss, entry]
      exact hadd
    · exact absurd ext (none b x a z)
  refine ⟨fun before x after b ext => ?_, fun none => ⟨fun room => ?_, fun full two => ?_, fun full one => ?_, fun full zero => ?_⟩⟩
  · obtain ⟨-, miss⟩ | ⟨b', x', a', z, found, target, modified⟩ :=
      mergeTarget_spec .defect (.defectClass cls) e.start s.map
    · exact absurd ext (miss _ _ _ _)
    · obtain ⟨rfl, rfl, rfl, rfl⟩ := ext.unique found
      let f : MapEntry → MapEntry := fun y =>
        { y with stop := laterOf y.stop (some ((s.web.w : Int) - s.geometry.dQ)), clamped := y.clamped || e.clamped }
      obtain ⟨t, ht, same, answered⟩ := reported (m := modifyEntry before.length f s.map) (d := .extended)
        (by rw [reportDefect, target])
      refine ⟨t, ht, ?_, answered⟩
      have entries : modifyEntry before.length f s.map = { s.map with entries := before ++ f x :: after } := by
        rw [← modified f]
        rfl
      have later : laterOf x.stop (some ((s.web.w : Int) - s.geometry.dQ)) =
          some (max b ((s.web.w : Int) - s.geometry.dQ)) := by rw [ext.stop]; rfl
      rw [entries] at same
      simp only [f, later] at same
      exact same
  · obtain ⟨m, hadd, joined⟩ := (addEntry_spec e s.map).1 room
    obtain ⟨t, ht, same, answered⟩ := reported (added none hadd)
    exact ⟨t, ht, by rw [same], by rw [same]; exact joined, answered⟩
  · obtain ⟨m, hadd, joined⟩ := (addEntry_spec e s.map).2.1 full two
    obtain ⟨t, ht, same, answered⟩ := reported (added none hadd)
    exact ⟨t, ht, by rw [same], by rw [same]; exact joined, answered⟩
  · obtain ⟨m, hadd, joined⟩ := (addEntry_spec e s.map).2.2.1 full one (by rw [kind]; decide)
    obtain ⟨t, ht, same, answered⟩ := reported (added none hadd)
    exact ⟨t, ht, by rw [same], by rw [same]; exact joined, answered⟩
  · have refused : reportDefect e.start ((s.web.w : Int) - s.geometry.dQ) cls e.clamped s.map = Option.none := by
      obtain ⟨miss, -⟩ | ⟨b, x, a, z, ext, -⟩ := mergeTarget_spec .defect (.defectClass cls) e.start s.map
      · rw [reportDefect, miss, entry]
        exact (addEntry_spec e s.map).2.2.2.2 full zero
      · exact absurd ext (none b x a z)
    rw [start, clamp] at refused
    refine request_refused rfl h fun P _ => ?_
    simp only [defectBody, first, hcls, classOfNumber_val, length, refused]
    rfl

end Sys2Proof.Mapping

/-! ## The web counter, the repeat clock and the trim limit -/

namespace Sys2Proof.Running

open Sys2Proof.Machine Sys2Proof.Safety Sys2Proof.Reporting Sys2Proof.Porting Sys2Proof.Answering

/-! ### The cumulative trim (R61, R62) -/

/-- The channel's cumulative trim is within the trim limit. -/
def TrimFits (k : ChannelSettings) (x : ChannelStep) : Prop := mag x.1.trim ≤ k.trimLimit

theorem mag_le_iff {v limit : Int} (h : 0 ≤ limit) : mag v ≤ limit ↔ -limit ≤ v ∧ v ≤ limit := by
  unfold mag
  split <;> omega

theorem clampInt_fits {limit : Int} (h : 0 ≤ limit) (v : Int) : mag (clampInt (-limit) limit v) ≤ limit := by
  rw [clampInt_eq (by omega), mag_le_iff h]
  omega

variable {k : ChannelSettings} {x : ChannelStep} {c : RegisterChannel}

theorem enterState_fits (st : RegisterState) (h : TrimFits k x) : TrimFits k (enterState st x) := by
  rw [TrimFits, enterState_trim]
  exact h

theorem postWithLimit_fits (limit : 0 ≤ k.trimLimit) (frame : Nat) (correction : Int) (h : TrimFits k x) :
    TrimFits k (postWithLimit k frame correction x) := by
  have posted : TrimFits k (if cutToLimit k.trimLimit x.1.trim correction = 0 then withhold x
      else postTrim frame (cutToLimit k.trimLimit x.1.trim correction) x) := by
    split
    · exact h
    · have sum : (postTrim frame (cutToLimit k.trimLimit x.1.trim correction) x).1.trim =
          clampInt (-k.trimLimit) k.trimLimit (x.1.trim + correction) := by
        simp only [postTrim, cutToLimit]
        omega
      rw [TrimFits, sum]
      exact clampInt_fits limit _
  unfold postWithLimit
  dsimp only
  split
  · exact enterState_fits .limit posted
  · exact posted

theorem postInLimit_fits (frame : Nat) (correction : Int) (h : TrimFits k x) : TrimFits k (postInLimit frame correction x) := by
  unfold postInLimit
  split
  · exact h
  · rename_i smaller
    have sum : mag (x.1.trim + correction) ≤ k.trimLimit := le_trans (not_lt.1 smaller) h
    exact enterState_fits .locked sum

theorem evaluate_fits (limit : 0 ≤ k.trimLimit) (frame : Nat) (h : TrimFits k x) : TrimFits k (evaluate k frame x) := by
  unfold evaluate
  split
  · have posted : TrimFits k (if evaluationCorrection k x.1.samples = 0 then x
        else if x.1.state = .limit then postInLimit frame (evaluationCorrection k x.1.samples) x
        else postWithLimit k frame (evaluationCorrection k x.1.samples) x) := by
      split
      · exact h
      · split
        · exact postInLimit_fits frame _ h
        · exact postWithLimit_fits limit frame _ h
    exact posted
  · exact h

theorem holdOnMiss_fits (second : Bool) (h : TrimFits k x) : TrimFits k (holdOnMiss second x) := by
  rw [TrimFits, (holdOnMiss_trim second x).1]
  exact h

theorem lockedFrame_fits (limit : 0 ≤ k.trimLimit) (frame : Nat) (usable : Option Int) (second : Bool)
    (h : TrimFits k x) : TrimFits k (lockedFrame k frame usable second x) := by
  unfold lockedFrame
  dsimp only
  have gathered : TrimFits k (match usable with
      | some e => ({ x.1 with
          sinceEvaluation := bump max16 x.1.sinceEvaluation, samples := lastN k.depth (x.1.samples ++ [e]) }, x.2)
      | none => ({ x.1 with sinceEvaluation := bump max16 x.1.sinceEvaluation }, x.2)) := by
    cases usable <;> exact h
  split
  · exact holdOnMiss_fits second (evaluate_fits limit frame gathered)
  · exact evaluate_fits limit frame (holdOnMiss_fits second gathered)

theorem acquireUsable_fits (limit : 0 ≤ k.trimLimit) (frame : Nat) (e : Int) (h : TrimFits k x) :
    TrimFits k (acquireUsable k frame e x) := by
  have trim : (lockSample k e x).1.trim = x.1.trim := by
    unfold lockSample
    dsimp only
    generalize (if mag e ≤ k.lockWindow then bump 3 x.1.lockCount else 0) = n
    split
    · rw [enterState_trim]
      rfl
    · rfl
  have locked : TrimFits k (lockSample k e x) := by
    rw [TrimFits, trim]
    exact h
  unfold acquireUsable acquireCorrection
  dsimp only
  split
  · exact postWithLimit_fits limit frame _ locked
  · exact locked

theorem takeSample_fits (limit : 0 ≤ k.trimLimit) (frame : Nat) (reference : Pos) (e : Int)
    (h : mag c.trim ≤ k.trimLimit) : TrimFits k (takeSample k frame reference e c) := by
  unfold takeSample
  dsimp only
  split
  · cases c.state with
    | locked | limit => exact lockedFrame_fits limit frame none false h
    | off | acquire | hold => exact h
  · cases c.state with
    | acquire => exact acquireUsable_fits limit frame e h
    | locked | limit => exact lockedFrame_fits limit frame (some e) false h
    | hold =>
      show TrimFits k (holdUsable ..)
      unfold holdUsable
      split
      · exact enterState_fits .locked h
      · exact h
    | off => exact h

theorem takeMiss_fits (limit : 0 ≤ k.trimLimit) (frame : Nat) (h : mag c.trim ≤ k.trimLimit) :
    TrimFits k (takeMiss k frame c) := by
  unfold takeMiss
  dsimp only
  cases c.state with
  | locked | limit => exact lockedFrame_fits limit frame none _ h
  | hold =>
    show TrimFits k (holdMiss _)
    unfold holdMiss
    split
    · exact enterState_fits .acquire h
    · exact h
  | off | acquire => exact h

/-- Settles O18: a posted correction is cut to the limit, or lowers the trim's magnitude. -/
theorem trimWithinLimit : Obligations.TrimWithinLimit := by
  intro k frame reference result c limit h
  unfold channelFrame
  split
  · exact h
  · rw [(timeOut_record k frame _).2.2.1]
    cases result with
    | some e => exact takeSample_fits limit frame reference e h
    | none => exact takeMiss_fits limit frame h

/-! ### Encoder steps (R20 to R23) -/

theorem next_inj {s t : State} {i : Instr} (h : exec i s = .next s) (ht : exec i s = .next t) : t = s :=
  Host.Outcome.next.inj (ht.symm.trans h)

/-- With nothing due, a step takes no event of the web position. -/
theorem settleEvents_nothing {s : State} (h : NothingDue s) : settleEvents s = s := by
  have watch (p : Port) : reachWatch p s = s := next_inj (h.watches p) rfl
  have opening (ch : Channel) : openWindow ch s = s := next_inj (h.windows ch).1 rfl
  have ending (ch : Channel) : endWindow ch s = s := next_inj (h.windows ch).2 rfl
  have event {i : Instr} {t : State} (hi : i ∈ webEvents) (ht : exec i s = .next t) : t = s := next_inj (h.events i hi) ht
  have fold (f : Channel → State → State) (hf : ∀ ch, f ch s = s) : allChannels.foldl (fun s ch => f ch s) s = s :=
    List.foldlRecOn (motive := fun t => t = s) allChannels _ rfl fun t ht ch _ => by rw [ht]; exact hf ch
  have watches : reachWatches s = s :=
    List.foldlRecOn (motive := fun t => t = s) allPorts _ rfl fun t ht p _ => by rw [ht]; exact watch p
  have coasting : coastingBoundary s = s := event (i := .coastingBoundary) (by decide) rfl
  have frame : closeFrame s = s := event (i := .frameClose) (by decide) rfl
  have pulse : endPulse s = s := event (i := .rpoPulseEnd) (by decide) rfl
  have confirm : confirmTimeout s = s := event (i := .confirmTimeout) (by decide) rfl
  have due : cutDue s = s := event (i := .cutDue) (by decide) rfl
  have strobing : strobe s = s := event (i := .cutStrobe) (by decide) rfl
  have deassert : strobeDeassert s = s := event (i := .cutStrobeDeassert) (by decide) rfl
  have forced : forceWasteEnd s = s := event (i := .wasteEndForced) (by decide) rfl
  simp only [settleEvents, watches, fold openWindow opening, coasting, fold endWindow ending, frame, pulse, confirm, due,
    strobing, deassert, forced]

theorem advanceWeb_held {s : State} (h : s.web.w < 4294967295) :
    (advanceWeb s).web = { s.web with w := s.web.w + 1 } ∧ HoldsStand (advanceWeb s) := by
  rw [advanceWeb, if_pos (show s.web.w < max32 from h)]
  exact ⟨evalHolds_web _, evalHolds_stand _⟩

/-- Settles O5: each kind of step by the line state, the debt and the bounds of the counters. -/
theorem encoderSteps : Obligations.EncoderSteps := by
  refine ⟨fun s => ?_, fun s pair hpair => ?_, fun s pair hpair => ?_⟩
  · have flipped : s.web.pair.flipped = (match s.web.pair with
        | .bothLow => .bothHigh | .bothHigh => .bothLow | .aHigh => .bHigh | .bHigh => .aHigh) := by
      cases s.web.pair <;> rfl
    exact congrArg (fun pair => Host.Outcome.next { s with
      web := { s.web with pair := pair, faults := bump 65535 s.web.faults } }) flipped
  · obtain rfl : pair = s.web.pair.backward := hpair.trans (by cases s.web.pair <;> rfl)
    refine ⟨fun no => congrArg Host.Outcome.next (if_pos no), fun order room => ?_, fun order full => ?_⟩
    · refine congrArg Host.Outcome.next ((if_neg order).trans ?_)
      have added : addDebt { s.web with pair := s.web.pair.backward } = _ := if_pos (show s.web.debt < max16 from room)
      exact congrArg (fun web => { s with web := web }) added
    · refine congrArg Host.Outcome.next ((if_neg order).trans ?_)
      have added : addDebt { s.web with pair := s.web.pair.backward } = _ := if_neg (show ¬ s.web.debt < max16 from Nat.not_lt.2 full)
      exact congrArg (fun web => { s with web := web }) added
  · obtain rfl : pair = s.web.pair.forward := hpair.trans (by cases s.web.pair <;> rfl)
    let s1 : State := { s with web := { s.web with pair := s.web.pair.forward } }
    have advances (order : s.line.state ≠ .noOrder) (paid : s.web.debt = 0) :
        exec .forwardStep s = .next (advanceWeb (settleEvents s1)) :=
      congrArg Host.Outcome.next ((if_neg order).trans (if_neg (by rw [paid]; decide)))
    refine ⟨fun no => congrArg Host.Outcome.next (if_pos no), fun order owed => ?_, fun order paid room => ?_,
      fun order paid room idle => ?_, fun order paid full => ?_⟩
    · refine congrArg Host.Outcome.next ((if_neg order).trans ((if_pos owed).trans ?_))
      have limit : (s.web.reverseLimit && decide (s.web.debt ≠ 1)) = if s.web.debt = 1 then false else s.web.reverseLimit := by
        by_cases one : s.web.debt = 1 <;> simp [one]
      rw [← limit]
      rfl
    · have room1 : (settleEvents s1).web.w < 4294967295 := by rw [settleEvents_web]; exact room
      obtain ⟨web, holds⟩ := advanceWeb_held room1
      exact ⟨_, advances order paid, by rw [web, settleEvents_web], holds⟩
    · have step := advances order paid
      rw [settleEvents_nothing idle] at step
      rw [advanceWeb, if_pos (show s1.web.w < max32 from room)] at step
      obtain ⟨rest, noticed⟩ := evalHolds_noticed
        { s1 with web := { s1.web with w := s1.web.w + 1 }, clock := s1.clock.advance s1.recipe }
      have clock : s1.clock.advance s1.recipe = { s.clock with
          phase := if s.clock.state = .running then
              (if (s.clock.phase : Int) + 1 < s.recipe.repeatLength then s.clock.phase + 1 else 0)
            else s.clock.phase } := by
        by_cases running : s.clock.state = .running
        · simp [s1, RepeatClock.advance, running]
        · simp [s1, RepeatClock.advance, running]
      refine ⟨_, step, ?_, evalHolds_stand _, noticed⟩
      rw [← clock]
      exact rest
    · refine ⟨_, advances order paid, ?_⟩
      have full1 : ¬ (settleEvents s1).web.w < max32 := by rw [settleEvents_web]; exact Nat.not_lt.2 full
      rw [advanceWeb, if_neg full1]
      show { (settleEvents s1).web with lengthLimit := true } = _
      rw [settleEvents_web]

/-! ### Coasting boundaries (R28 to R32) -/

/-- A phased channel's window is the one thing that its following of k0 changes (R49). -/
theorem phasedFollow_put (before : Option Pos) (ch : Channel) (s : State) :
    ∃ c, phasedFollow before ch s = putChannel ch c s ∨ phasedFollow before ch s = s := by
  have armed (limit : Pos) : ∃ c, armPhased ch limit s = putChannel ch c s ∨ armPhased ch limit s = s := by
    unfold armPhased
    cases s.clock.k0 with
    | some k0 => exact ⟨_, .inl rfl⟩
    | none => exact ⟨_, .inl rfl⟩
  unfold phasedFollow
  dsimp only
  split
  · exact ⟨s.channel ch, .inr rfl⟩
  · split
    · exact armed _
    · cases (s.channel ch).window with
      | armed => exact armed _
      | opened | closed => exact ⟨s.channel ch, .inr rfl⟩

theorem phasedFollow_mke (before : Option Pos) (s : State) :
    phasedFollow before .mke s = { s with capture := { s.capture with mke := (phasedFollow before .mke s).capture.mke } } := by
  obtain ⟨c, h | h⟩ := phasedFollow_put before .mke s
  · rw [h]; rfl
  · rw [h]

theorem phasedFollow_mkw (before : Option Pos) (s : State) :
    phasedFollow before .mkw s = { s with capture := { s.capture with mkw := (phasedFollow before .mkw s).capture.mkw } } := by
  obtain ⟨c, h | h⟩ := phasedFollow_put before .mkw s
  · rw [h]; rfl
  · rw [h]

/-- Following k0 changes the windows of the phased channels alone. -/
theorem phasedFollowAll_eq (before : Option Pos) (s : State) :
    phasedFollowAll before s = { s with capture := { s.capture with
      mke := (phasedFollowAll before s).capture.mke, mkw := (phasedFollowAll before s).capture.mkw } } := by
  unfold phasedFollowAll
  split
  · rfl
  · rw [phasedFollow_mkw, phasedFollow_mke]

/-- What a boundary's staged tune changes (R13, R14). -/
theorem applyStaged_eq (s : State) :
    applyStaged s = { s with
      line := { s.line with stagedTune := none }, recipe := (applyStaged s).recipe
      register := { s.register with units := (applyStaged s).register.units }
      emboss := { s.emboss with channel := (applyStaged s).emboss.channel } } := by
  unfold applyStaged
  cases hs : s.line.stagedTune with
  | some t => rfl
  | none =>
    simp only
    rw [← hs]

theorem applyStaged_none {s : State} (h : s.line.stagedTune = none) : applyStaged s = s := by
  rw [applyStaged, h]

theorem applyStaged_some {s : State} {tune : Tune} (h : s.line.stagedTune = some tune) :
    (applyStaged s).recipe = s.recipe.tuned tune ∧
    (∀ k, (applyStaged s).unit k = (s.unit k).shorten (s.recipe.tuned tune).filterDepth) ∧
    (applyStaged s).emboss.channel = s.emboss.channel.shorten (s.recipe.tuned tune).embossFilterDepth := by
  rw [applyStaged, h]
  exact ⟨rfl, fun k => by simp [State.unit, applyTune], rfl⟩

theorem shorten_eq (depth : Int) (c : RegisterChannel) :
    c.shorten depth = { c with samples := c.samples.drop (c.samples.length - depth.toNat) } := rfl

/-- Settles O7: the boundary, then the staged tune, then the windows that follow k0. -/
theorem coastingBoundary : Obligations.CoastingBoundary := by
  intro s
  refine ⟨fun running reached => ?_, fun idle => ?_⟩
  · let x : RepeatClock := { s.clock with
      phase := 0
      origin := s.clock.origin + s.recipe.repeatLength
      index := bump max32 s.clock.index
      k0 := s.clock.k0.map (· + s.recipe.repeatLength)
      lastCoast := some (s.clock.origin + s.recipe.repeatLength)
      rpoEnd := some (s.clock.origin + s.recipe.repeatLength + s.recipe.pulseWidth) }
    let u : State := { s with clock := x }
    have due : coastDue s = true := Bool.and_eq_true_iff.2 ⟨beq_iff_eq.2 running, decide_eq_true reached⟩
    have made : exec .coastingBoundary s = .next (phasedFollowAll s.clock.k0 (applyStaged u)) :=
      congrArg Host.Outcome.next (if_pos due)
    have rest := phasedFollowAll_eq s.clock.k0 (applyStaged u)
    have staged := applyStaged_eq u
    refine ⟨_, made, ?_, ?_, fun none => ?_, fun tune some => ?_⟩
    · rw [rest, staged]
      rfl
    · clear made
      generalize phasedFollowAll s.clock.k0 (applyStaged u) = t at rest ⊢
      generalize applyStaged u = v at rest staged
      conv_lhs => rw [rest, staged]
      rw [rest, staged]
    · have same : applyStaged u = u := applyStaged_none none
      rw [rest, same]
      exact ⟨rfl, rfl, rfl⟩
    · obtain ⟨recipe, units, emboss⟩ := applyStaged_some (s := u) some
      have after : (phasedFollowAll s.clock.k0 (applyStaged u)).recipe = s.recipe.tuned tune := by
        rw [rest]
        exact recipe
      rw [after]
      refine ⟨rfl, fun k => ?_, ?_⟩
      · rw [← shorten_eq, rest]
        exact units k
      · rw [← shorten_eq, rest]
        exact emboss
  · refine congrArg Host.Outcome.next (if_neg ?_)
    rintro due
    obtain ⟨running, reached⟩ := Bool.and_eq_true_iff.1 due
    rcases idle with halted | early
    · exact halted (beq_iff_eq.1 running)
    · exact not_le.2 early (of_decide_eq_true reached)

end Sys2Proof.Running

/-! ## Cuts that are finished (R121 to R131) and CLOSING (R16) -/

namespace Sys2Proof.Cutting

open Sys2Proof.Machine Sys2Proof.Safety Sys2Proof.Reporting Sys2Proof.Porting Sys2Proof.Answering

/-! ### Grading and freeing (R130, R131) -/

theorem saveBatch_roll (k : Nat) (s : State) : (saveBatch k s).roll = s.roll := by
  cases hb : s.batch k with
  | none => simp only [saveBatch, hb]
  | some b => rw [(saveBatch_givenUp hb).rest]

/-- The roll block but for its records. -/
def RecordsOnly (s t : State) : Prop := t.roll = { s.roll with records := t.roll.records }

theorem RecordsOnly.trans {s t u : State} (a : RecordsOnly s t) (b : RecordsOnly t u) : RecordsOnly s u := by
  unfold RecordsOnly at *
  rw [b, a]

theorem recordsOnly_of_eq {s t : State} (h : t.roll = s.roll) : RecordsOnly s t := by
  unfold RecordsOnly
  rw [h]

theorem recordsOnly_modifyRecord (i : Fin 24) (f : RollRecord → RollRecord) (s : State) :
    RecordsOnly s (modifyRecord i f s) := by
  unfold RecordsOnly
  rw [modifyRecord_eq]

theorem recordsOnly_evalHolds (s : State) : RecordsOnly s (evalHolds s) := recordsOnly_of_eq (by rw [evalHolds_eq])

theorem recordsOnly_foundOrUnclassed (i : Fin 24) (mean : Shade) (spread : Int) (d : Option Int) (low : Bool) (s : State) :
    RecordsOnly s (foundOrUnclassed i mean spread d low s) := by
  unfold foundOrUnclassed
  split
  · exact (recordsOnly_modifyRecord i _ s).trans (recordsOnly_of_eq (saveBatch_roll _ _))
  · exact recordsOnly_modifyRecord i _ s

theorem recordsOnly_classify (i : Fin 24) (s : State) : RecordsOnly s (classify i s) := by
  unfold classify matchBatches
  dsimp only
  split
  · exact recordsOnly_modifyRecord i _ s
  · split
    · exact recordsOnly_modifyRecord i _ s
    · split
      · split
        · exact (recordsOnly_modifyRecord i _ s).trans (recordsOnly_of_eq (saveBatch_roll _ _))
        · exact recordsOnly_foundOrUnclassed ..
      · exact recordsOnly_foundOrUnclassed ..

theorem recordsOnly_joinLabel (i : Fin 24) (s : State) : RecordsOnly s (joinLabel i s) := by
  refine RecordsOnly.trans ?_ (recordsOnly_evalHolds _)
  split
  · unfold pushLabel
    dsimp only
    split
    · exact recordsOnly_modifyRecord i _ s
    · exact recordsOnly_modifyRecord i _ s
  · exact recordsOnly_of_eq rfl

/-- Grading numbers the record from the counter, which it leaves one higher (R130). -/
theorem grade_roll (i : Fin 24) (b : Bool) (s : State) :
    (gradeRecord i b s).roll = { s.roll with
      records := (gradeRecord i b s).roll.records, saleCounter := min 4294967295 (s.roll.saleCounter + 1) } := by
  have counted : RecordsOnly { s with roll := { s.roll with saleCounter := bump max32 s.roll.saleCounter } }
      (gradeRecord i b s) := by
    unfold gradeRecord
    exact (recordsOnly_modifyRecord i _ _).trans ((recordsOnly_classify i _).trans
      ((recordsOnly_modifyRecord i _ _).trans (recordsOnly_joinLabel i _)))
  rw [← bump_max32]
  exact counted

theorem grade_number (i : Fin 24) (b : Bool) (s : State) :
    ((gradeRecord i b s).record i).saleNumber = some (min 4294967295 (s.roll.saleCounter + 1)) := by
  have numbered : ((numberRoll i s).record i).saleNumber = some (bump max32 s.roll.saleCounter) := by
    unfold numberRoll
    dsimp only
    rw [modifyRecord_parts i (fun r => { r with saleNumber := some (bump max32 s.roll.saleCounter) }) _ (fun _ _ => rfl)]
  have classified := (keptBy_classify i (numberRoll i s)).1.trans numbered
  unfold gradeRecord
  generalize classify i (numberRoll i s) = c at classified ⊢
  obtain ⟨st, n, joined, -⟩ := joinLabel_record i (modifyRecord i (fun r => { r with
    state := .graded, grade := some (gradeOf c.recipe r), unconfirmedCut := r.unconfirmedCut || b }) c)
  dsimp only
  rw [joined, modifyRecord_parts i (fun r => { r with
    state := .graded, grade := some (gradeOf c.recipe r), unconfirmedCut := r.unconfirmedCut || b }) c (fun _ _ => rfl),
    ← bump_max32]
  exact classified

/-- What a graded record is (R130). -/
structure Graded (i : Fin 24) (unconfirmed : Bool) (s t : State) : Prop where
  number : (t.record i).saleNumber = some (min 4294967295 (s.roll.saleCounter + 1))
  counter : t.roll.saleCounter = min 4294967295 (s.roll.saleCounter + 1)
  grade : (t.record i).grade.isSome = true
  unconfirmed : (t.record i).unconfirmedCut = ((s.record i).unconfirmedCut || unconfirmed)
  queued : (t.record i).state = .graded ∨ (t.record i).state = .labelPending
  wasted : t.roll.wasteTotal = s.roll.wasteTotal

theorem gradeRecord_graded (i : Fin 24) (b : Bool) (s : State) : Graded i b s (gradeRecord i b s) := by
  obtain ⟨grade, -, unconfirmed, queued⟩ := grade_record i b s
  exact ⟨grade_number i b s, by rw [grade_roll], grade, unconfirmed, queued, by rw [grade_roll]⟩

/-- What a freed WASTE record is (R131). -/
structure Wasted (i : Fin 24) (s t : State) : Prop where
  free : (t.record i).state = .free
  total : t.roll.wasteTotal = min 4294967295 (s.roll.wasteTotal + (s.record i).length.toNat)
  held : t.line.holds ≠ s.line.holds → ∀ q, Pending q .hold t

theorem evalHolds_pending {s : State} (h : (evalHolds s).line.holds ≠ s.line.holds) (q : Port) :
    Pending q .hold (evalHolds s) := by
  rw [Pending, (evalHolds_noticed s).2 q, decide_eq_true h]
  ext i
  simp [everywhereIf, everywhere]
  tauto

theorem freeWaste_wasted (i : Fin 24) (s : State) : Wasted i s (freeWaste i s) := by
  refine ⟨?_, ?_, fun changed q => ?_⟩
  · unfold freeWaste freeRecord
    rw [evalHolds_record, modifyRecord_parts i (fun r => RollRecord.freed r.revision) _ (fun _ _ => rfl)]
    rfl
  · rw [(finishing_freeWaste i s).rest]
    rfl
  · unfold freeWaste freeRecord at changed ⊢
    refine evalHolds_pending ?_ q
    rwa [show (modifyRecord i (fun r => RollRecord.freed r.revision) (addWaste (s.record i).length s)).line = s.line by
      rw [modifyRecord_eq]; rfl]

theorem finishRecord_sale {i : Fin 24} {b : Bool} {s : State} (h : (s.record i).kind = .sale) :
    finishRecord i b s = gradeRecord i b s := by
  unfold finishRecord
  rw [h]

theorem finishRecord_waste {i : Fin 24} {b : Bool} {s : State} (h : (s.record i).kind = .waste) :
    finishRecord i b s = freeWaste i s := by
  unfold finishRecord
  rw [h]

/-- The hold causes stand after a record is finished. -/
theorem finishRecord_holds (i : Fin 24) (b : Bool) (s : State) : HoldsStand (finishRecord i b s) := by
  cases kind : (s.record i).kind with
  | sale =>
    rw [finishRecord_sale kind, gradeRecord, joinLabel]
    exact evalHolds_stand _
  | waste =>
    rw [finishRecord_waste kind, freeWaste, freeRecord]
    exact evalHolds_stand _

theorem holdsStand_of_eq {s t : State} (h : HoldsStand s) (line : t.line = s.line) (roll : t.roll = s.roll)
    (web : t.web = s.web) : HoldsStand t := by
  have order : OrderStands t ↔ OrderStands s := by unfold OrderStands; rw [line]
  refine ⟨fun ho => ?_, fun ho => ?_, fun ho => ?_, fun ho => ?_⟩
  · rw [line]; exact h.none (mt order.2 ho)
  · rw [line, roll]; exact h.rolls (order.1 ho)
  · have record (i : Fin 24) : t.record i = s.record i := by unfold State.record; rw [roll]
    simp only [line, record]
    exact h.labels (order.1 ho)
  · rw [line, web]; exact h.length (order.1 ho)

/-! ### The AWAITING cut at its confirm point (R127) -/

/-- Settles O25: before the confirm point nothing, and at it the AWAITING cut ends unconfirmed. -/
theorem confirmTimesOut : Obligations.ConfirmTimesOut := by
  intro s x y hx hy
  have confirm : (cutIn .awaiting s).bind CutRecord.confirm = some y := by rw [cutIn, hx]; exact hy
  refine ⟨fun early => ?_, fun reached => ?_⟩
  · refine congrArg Host.Outcome.next ?_
    rw [confirmTimeout, confirm]
    exact if_neg (not_le.2 early)
  · have made : exec .confirmTimeout s = .next (raiseCut (endAwaiting s)) := by
      refine congrArg Host.Outcome.next ?_
      rw [confirmTimeout, confirm]
      exact if_pos reached
    let u : State := { s with roll := { s.roll with
      cuts := s.roll.cuts.map (fun y => if y.state = .awaiting then { y with state := .unconfirmed } else y)
      lastUnconfirmed := some x.number } }
    have ended : endAwaiting s = finishCut x true u := by
      rw [endAwaiting, cutIn, hx]
      rfl
    have rest := (endAwaiting_ended s).rest
    have awaiting : awaitingCutOf s = some x := hx
    rw [awaiting] at rest
    refine ⟨_, made, ?_, ?_, ?_, Batching.pending_raise .., fun i hi => ?_, ?_, ?_, fun i hi waste => ?_, fun i hi sale => ?_⟩
    · exact endAwaiting_web s
    · show (endAwaiting s).map = _
      rw [rest]
    · show (endAwaiting s).roll.plan = _
      rw [rest]
    · rw [ended, finishCut, hi]
      exact holdsStand_of_eq (finishRecord_holds i true u) rfl rfl rfl
    · show (endAwaiting s).roll.cuts = _
      rw [rest]
    · show (endAwaiting s).roll.lastUnconfirmed = _
      rw [rest]
    · have finished : endAwaiting s = freeWaste i u := by
        rw [ended, finishCut, hi]
        exact finishRecord_waste waste
      have wasted := freeWaste_wasted i u
      rw [finished]
      generalize freeWaste i u = v at wasted ⊢
      exact ⟨wasted.free, wasted.total, fun changed q =>
        Batching.pending_of_onlyNotices (Starting.onlyNotices_raise ..) (wasted.held changed q)⟩
    · have finished : endAwaiting s = gradeRecord i true u := by
        rw [ended, finishCut, hi]
        exact finishRecord_sale sale
      have graded := gradeRecord_graded i true u
      rw [finished]
      generalize gradeRecord i true u = v at graded ⊢
      exact ⟨graded.number, graded.counter, graded.grade, graded.unconfirmed.trans (Bool.or_true _), graded.queued,
        graded.wasted⟩

/-! ### CLOSING goes on (R16) -/

/-- The line, the store and the ports apart, a state is as it was. -/
def ClosingSide (s t : State) : Prop := t = { s with line := t.line, store := t.store, ports := t.ports }

theorem ClosingSide.trans {s t u : State} (a : ClosingSide s t) (b : ClosingSide t u) : ClosingSide s u := by
  unfold ClosingSide at *
  rw [b, a]

theorem closingSide_of_storePorts {s t : State} (h : StorePorts s t) : ClosingSide s t := by
  unfold StorePorts at h
  unfold ClosingSide
  rw [h]

theorem enterNoOrder_closed (s : State) (h : s.line.state ≠ .noOrder) :
    ClosingSide s (enterNoOrder s) ∧ (enterNoOrder s).store = s.store ∧
      (enterNoOrder s).line = { s.line with
        state := .noOrder, order := none, run := none, slot := none, closing := .notClosing
        holds := (enterNoOrder s).line.holds } := by
  have line : enterNoOrder s = evalHolds ({ s with line := { s.line with
      order := none, run := none, slot := none, closing := .notClosing, state := .noOrder } }.raiseAll .line) := if_neg h
  rw [line, evalHolds_eq]
  exact ⟨rfl, rfl, rfl⟩

/-- Without an open order no place of the store queue is taken. -/
theorem takePlaces_noSlot {s : State} (h : s.line.slot = none) (fuel : Nat) : takePlaces fuel s = s := by
  have writable : writableSlot s = none := by rw [writableSlot, h]
  have journal : journalSlot s = none := by rw [journalSlot, writable]
  cases fuel with
  | zero => rfl
  | succ fuel =>
    rw [takePlaces]
    split
    · rfl
    · rw [writable, journal]
      cases lowestUnsaved s <;> rfl

theorem allFree_iff (s : State) : allFree s = true ↔ ∀ i, (s.record i).state = .free := by
  unfold allFree State.record Table.get
  simp only [List.all_eq_true, beq_iff_eq, List.forall_mem_iff_forall_getElem]
  have size := s.roll.records.size
  exact ⟨fun h i => h i.val (by omega), fun h k hk => h ⟨k, by omega⟩⟩

/-- CLOSING waits while a record is not FREE or the store works. -/
theorem advanceClosing_waits {s : State} (h : (∃ i, (s.record i).state ≠ .free) ∨ s.store.queue ≠ []) :
    advanceClosing s = s := by
  refine if_neg fun ⟨_, _, free, empty⟩ => ?_
  rcases h with ⟨i, hi⟩ | busy
  · exact hi ((allFree_iff s).1 free i)
  · exact busy (List.isEmpty_iff.1 empty)

/-- CLOSING goes on in a part with no record in use and no store operation. -/
structure Drained (s : State) : Prop where
  closing : s.line.state = .closing
  drain : s.line.closing = .drain
  free : allFree s = true
  empty : s.store.queue = []

theorem advanceClosing_drained {s : State} (h : Drained s) :
    advanceClosing s =
      match s.line.slot with
      | some n => enqueue (.headerWrite n .closed)
          (headerContent n (fun d => { d with state := .closed })
            { s with line := { s.line with closing := .header } })
      | none => enterNoOrder s := by
  refine if_pos ⟨h.closing, h.drain, h.free, by simp [h.empty]⟩

theorem advanceClosing_notDrained {s : State} (h : ¬ Drained s) : advanceClosing s = s :=
  if_neg fun ⟨closing, drain, free, empty⟩ => h ⟨closing, drain, free, List.isEmpty_iff.1 empty⟩

/-- A write or erase at the head that names a DEGRADED slot ends failed without starting (R171). -/
theorem dealHead_degraded {op : StoreOp} {later : List StoreOp} {s : State} (fuel : Nat)
    (queue : s.store.queue = op :: later) (write : op.isRead = false) (degraded : targetDegraded op s = true) :
    dealHead (fuel + 1) s = dealHead fuel (takePlaces 24 (releaseHead (failUnstarted op s))) := by
  rw [dealHead, queue]
  simp only [write, degraded, Bool.false_eq_true, if_false, if_true]

theorem enqueue_degraded {op : StoreOp} {s : State} (queue : s.store.queue = []) (write : op.isRead = false)
    (degraded : targetDegraded op s = true) :
    enqueue op s = dealHead 63 (takePlaces 24 (releaseHead (failUnstarted op (pushOp op s)))) := by
  have pushed : (pushOp op s).store.queue = op :: [] := by simp [pushOp, queue]
  rw [enqueue, queue, List.isEmpty_nil, if_pos rfl]
  exact dealHead_degraded 63 pushed write degraded

/-- The CLOSED header of a DEGRADED slot ends failed without starting, and the order with it (R171, R16). -/
theorem advanceClosing_degraded {s : State} (h : Drained s) {n : Fin 4} (slot : s.line.slot = some n)
    (degraded : (s.dir n).state = .degraded) :
    ClosingSide s (advanceClosing s) ∧ (advanceClosing s).store.queue = [] ∧
      (advanceClosing s).line = { s.line with
        state := .noOrder, order := none, run := none, slot := none, closing := .notClosing
        holds := (advanceClosing s).line.holds } := by
  let waits : State := { s with line := { s.line with closing := .header } }
  let failed : State := recordFailure (.headerWrite n .closed) (some n) .degradedTarget (pushOp (.headerWrite n .closed) waits)
  have ended : failUnstarted (.headerWrite n .closed) (pushOp (.headerWrite n .closed) waits) = enterNoOrder failed :=
    if_pos ⟨h.closing, rfl, rfl⟩
  obtain ⟨side, store, line⟩ := enterNoOrder_closed failed (by show s.line.state ≠ .noOrder; rw [h.closing]; decide)
  have queue : (enterNoOrder failed).store.queue = [.headerWrite n .closed] := by
    rw [store]
    show s.store.queue ++ _ = _
    rw [h.empty]
    rfl
  have made : advanceClosing s =
      dealHead 63 (takePlaces 24 (releaseHead (enterNoOrder failed))) := by
    rw [advanceClosing_drained h, slot]
    show enqueue _ (headerContent n _ waits) = _
    rw [headerContent, if_pos (show (waits.dir n).state = .degraded from degraded),
      enqueue_degraded (op := .headerWrite n .closed) (s := waits) h.empty rfl (beq_iff_eq.2 degraded), ended]
  have empty : (releaseHead (enterNoOrder failed)).store.queue = [] := by
    show (enterNoOrder failed).store.queue.tail = []
    rw [queue]
    rfl
  rw [made, takePlaces_noSlot (by show (enterNoOrder failed).line.slot = none; rw [line]), dealHead, empty]
  refine ⟨?_, empty, ?_⟩
  · have first : ClosingSide s failed := rfl
    exact (first.trans side).trans rfl
  · show (enterNoOrder failed).line = _
    rw [line]
    rfl

/-- The CLOSED header of a slot is queued (R16). -/
theorem advanceClosing_queues {s : State} (h : Drained s) {n : Fin 4} (slot : s.line.slot = some n)
    (sound : (s.dir n).state ≠ .degraded) :
    ClosingSide s (advanceClosing s) ∧ (advanceClosing s).store.queue = [.headerWrite n .closed] ∧
      (advanceClosing s).dir n = { s.dir n with state := .closed } ∧
      (advanceClosing s).line = { s.line with closing := .header } := by
  let waits : State := modifyDir n (fun d => { d with state := .closed })
    { s with line := { s.line with closing := .header } }
  have entry : waits.dir n = { s.dir n with state := .closed } := by
    simp [waits, State.dir, modifyDir, table_get_modify]
  obtain ⟨raised, queued⟩ := enqueue_plain (op := .headerWrite n .closed) (s := waits) rfl
    (.inl (by simp [targetDegraded, StoreOp.slot?, entry]))
  have made : advanceClosing s = enqueue (.headerWrite n .closed) waits := by
    rw [advanceClosing_drained h, slot]
    exact congrArg (enqueue (.headerWrite n .closed)) (if_neg sound)
  rw [made]
  have first : ClosingSide s waits := rfl
  refine ⟨first.trans (closingSide_of_storePorts queued.rest), ?_, ?_, ?_⟩
  · rw [queued.store]
    show s.store.queue ++ _ = _
    rw [h.empty]
    rfl
  · rw [← entry, State.dir, queued.store]
    rfl
  · rw [queued.rest]
    rfl

theorem advanceClosing_side (s : State) : ClosingSide s (advanceClosing s) := by
  by_cases h : Drained s
  · cases slot : s.line.slot with
    | none =>
      rw [advanceClosing_drained h, slot]
      exact (enterNoOrder_closed s (by rw [h.closing]; decide)).1
    | some n =>
      by_cases sound : (s.dir n).state = .degraded
      · exact (advanceClosing_degraded h slot sound).1
      · exact (advanceClosing_queues h slot sound).1
  · rw [advanceClosing_notDrained h]
    rfl

/-! ### A report that is taken (R124 to R126) -/

/-- What the closing cut's report does beyond the cut: CLOSING goes on, and the strobe is deasserted. -/
def ReportSide (s t : State) : Prop :=
  t = { s with
    line := t.line, map := t.map, shade := t.shade, store := t.store, ports := t.ports
    roll := { s.roll with strobeOff := t.roll.strobeOff } }

theorem afterReport_side (x : CutRecord) (s : State) : ReportSide s (afterReport x s) := by
  unfold afterReport
  dsimp only
  split
  · split
    · have side := advanceClosing_side (enterDrain { s with roll := { s.roll with strobeOff := none } })
      unfold ClosingSide at side
      unfold ReportSide
      rw [side]
      rfl
    · rfl
  · rfl

theorem judgeReport_found {n : Nat} {s : State} {x : CutRecord}
    (h : s.roll.cuts.find? (fun y => y.number == n && y.state == .awaiting) = some x) : judgeReport n s = .inr x := by
  rw [judgeReport, h]

/-- A report that is taken acts on the part as the ports have shifted its frame in, and is answered with the notices that
this raises. -/
theorem report_taken {i : Instr} {r : Req} {p : Port} {args : List Byte} {s : State} {take : CutRecord → State → State}
    {x : CutRecord} (hexec : exec i s = .next (takeRequest r p args (reportBody r p args take) s))
    (hr : r = .cutDone ∨ r = .cutFailed) (h : Admitted r p args s)
    (hx : s.roll.cuts.find? (fun y => y.number == natOfBytes args && y.state == .awaiting) = some x) :
    ∃ t u : State, exec i s = .next t ∧ u = { s with ports := u.ports } ∧ t = { take x u with ports := t.ports } ∧
      ∀ raised, Noticed raised u (take x u) → Answered r p args .ok [] raised s t := by
  have judged : judgeReport (argNat args 0 4) s = .inr x := by rw [argNat_report hr h]; exact judgeReport_found hx
  have made : takeRequest r p args (reportBody r p args take) s =
      takeInput r p (respond p r.role.code .ok [] (take x (received r p args s))) := by
    rw [takeRequest_admitted _ h, reportBody, judgeReport_received, judged]
    rfl
  refine ⟨_, received r p args s, hexec.trans (congrArg _ made), ?_, ?_, fun raised noticed => answered_of h noticed⟩
  · rw [received_eq]
  · exact answered_sameButPorts r p r.role.code .ok [] _

/-! ### CUT_DONE (R125) -/

/-- What a finished cut leaves of its record and of the waste total (R130, R131). -/
structure CutFinished (x : CutRecord) (unconfirmed : Bool) (s t : State) : Prop where
  rest : t = { s with
    line := { s.line with holds := t.line.holds }
    roll := { s.roll with
      records := t.roll.records, saleCounter := t.roll.saleCounter, wasteTotal := t.roll.wasteTotal }
    shade := { s.shade with batches := t.shade.batches }
    label := t.label, store := t.store, ports := t.ports }
  others : ∀ j, x.ending ≠ some j → t.record j = s.record j
  waste : ∀ i, x.ending = some i → (s.record i).kind = .waste → Wasted i s t
  sale : ∀ i, x.ending = some i → (s.record i).kind = .sale → Graded i unconfirmed s t
  untracked : x.ending = none → t.roll.records = s.roll.records ∧ t.roll.wasteTotal =
    if x.kindEnding = .waste then min 4294967295 (s.roll.wasteTotal + (x.cut - x.segmentStart).toNat)
    else s.roll.wasteTotal

theorem cutFinished_graded {x : CutRecord} {i : Fin 24} {unconfirmed : Bool} {s t : State} (ending : x.ending = some i)
    (kind : (s.record i).kind = .sale) (left : Finishing i s t) (graded : Graded i unconfirmed s t) :
    CutFinished x unconfirmed s t := by
  have same {j : Fin 24} (hj : x.ending = some j) : i = j := Option.some.inj (ending.symm.trans hj)
  refine ⟨?_, fun j hj => left.others j fun h => hj (h ▸ ending), fun j hj waste => ?_, fun j hj _ => same hj ▸ graded,
    fun none => nomatch ending.symm.trans none⟩
  · rw [graded.wasted]
    exact left.rest
  · rw [← same hj, kind] at waste
    exact absurd waste (by decide)

theorem cutFinished_wasted {x : CutRecord} {i : Fin 24} {unconfirmed : Bool} {s t : State} (ending : x.ending = some i)
    (kind : (s.record i).kind = .waste) (left : Finishing i (addWaste (s.record i).length s) t) (wasted : Wasted i s t) :
    CutFinished x unconfirmed s t := by
  have same {j : Fin 24} (hj : x.ending = some j) : i = j := Option.some.inj (ending.symm.trans hj)
  refine ⟨?_, fun j hj => left.others j fun h => hj (h ▸ ending), fun j hj _ => same hj ▸ wasted, fun j hj sale => ?_,
    fun none => nomatch ending.symm.trans none⟩
  · rw [wasted.total]
    exact left.rest
  · rw [← same hj, kind] at sale
    exact absurd sale (by decide)

theorem cutFinished_untracked {x : CutRecord} {unconfirmed : Bool} {s t : State} (ending : x.ending = none)
    (rest : t = { s with roll := { s.roll with wasteTotal := t.roll.wasteTotal } })
    (waste : t.roll.wasteTotal = if x.kindEnding = .waste then min 4294967295 (s.roll.wasteTotal + (x.cut - x.segmentStart).toNat)
      else s.roll.wasteTotal) : CutFinished x unconfirmed s t := by
  refine ⟨?_, fun j _ => ?_, fun _ h => (nomatch ending.symm.trans h), fun _ h => (nomatch ending.symm.trans h),
    fun _ => ⟨?_, waste⟩⟩
  · rw [rest]
  · rw [State.record, rest]; rfl
  · rw [rest]

theorem finishCut_finished (x : CutRecord) (unconfirmed : Bool) (s : State) :
    CutFinished x unconfirmed s (finishCut x unconfirmed s) := by
  unfold finishCut
  split
  · rename_i i ending
    cases kind : (s.record i).kind with
    | sale =>
      rw [finishRecord_sale kind]
      exact cutFinished_graded ending kind (finishing_grade ..) (gradeRecord_graded ..)
    | waste =>
      rw [finishRecord_waste kind]
      exact cutFinished_wasted ending kind (finishing_freeWaste ..) (freeWaste_wasted ..)
  · rename_i ending
    split
    · rename_i kind
      exact cutFinished_untracked ending rfl (by rw [kind]; rfl)
    · rename_i kind
      exact cutFinished_untracked ending rfl (by rw [kind]; rfl)

/-- Settles O28: the cut is DONE, its segment is finished, and the closing cut lets CLOSING go on. -/
theorem cutDoneTaken : Obligations.CutDoneTaken := by
  intro p args s x h hx
  obtain ⟨t, u, made, hu, ht, -⟩ := report_taken (i := .cutDone p args) (take := takeCutDone)
    (by rw [← cutDoneBody_eq]; rfl) (.inl rfl) h hx
  let done : State := modifyCuts .awaiting (fun x => { x with state := .done }) u
  have finished : CutFinished x false done (finishCut x false done) := finishCut_finished x false done
  have side : ReportSide (raiseCut (finishCut x false done)) (takeCutDone x u) := afterReport_side ..
  generalize takeCutDone x u = v at ht side
  generalize finishCut x false done = w at finished side
  have roll : t.roll = { w.roll with strobeOff := t.roll.strobeOff } := by
    rw [ht]
    unfold ReportSide at side
    rw [side]
    rfl
  have record (i : Fin 24) : t.record i = w.record i := by rw [State.record, roll]; rfl
  have cuts : w.roll.cuts = s.roll.cuts.map (fun y => if y.state = .awaiting then { y with state := .done } else y) := by
    rw [finished.rest]
    show u.roll.cuts.map _ = _
    rw [hu]
  have roll0 : done.roll = { s.roll with cuts := done.roll.cuts } := by
    show ({ u.roll with cuts := done.roll.cuts } : RollFormer) = _
    rw [hu]
  have before (i : Fin 24) : done.record i = s.record i := by rw [State.record, roll0]; rfl
  have total : done.roll.wasteTotal = s.roll.wasteTotal := by rw [roll0]
  have counter : done.roll.saleCounter = s.roll.saleCounter := by rw [roll0]
  have outside : t.web = s.web ∧ t.recipe = s.recipe := by
    rw [ht]
    unfold ReportSide at side
    rw [side, finished.rest]
    show u.web = s.web ∧ u.recipe = s.recipe
    rw [hu]
    exact ⟨rfl, rfl⟩
  refine ⟨t, made, outside.1, outside.2, ?_, ?_, ?_, fun i hi waste => ?_, fun i hi sale => ?_, fun none => ?_⟩
  · rw [roll, finished.rest, roll0]
  · rw [roll]
    exact cuts
  · rw [roll, finished.rest, roll0]
  · have wasted := finished.waste i hi (by rw [before]; exact waste)
    rw [record, roll]
    exact ⟨wasted.free, by rw [wasted.total, before, total]⟩
  · have graded := finished.sale i hi (by rw [before]; exact sale)
    rw [record, roll]
    exact ⟨by rw [graded.number, counter], by rw [graded.counter, counter], graded.grade,
      by rw [graded.unconfirmed, before, Bool.or_false], graded.queued⟩
  · obtain ⟨records, waste⟩ := finished.untracked none
    rw [roll]
    exact ⟨by rw [records, roll0], by rw [waste, total]⟩

/-! ### CUT_FAILED (R126) -/

/-- What a change of a record leaves it, whatever the change. -/
theorem modifyRecord_written (i : Fin 24) (f : RollRecord → RollRecord) (s : State) :
    ∃ n, (modifyRecord i f s).record i = { f (s.record i) with revision := n } := by
  rw [modifyRecord_same]
  split
  · rename_i h
    exact ⟨(s.record i).revision, by rw [h]⟩
  · exact ⟨_, rfl⟩

theorem addItems_eq (items : List DefectItem) (r : RollRecord) :
    items.foldl RollRecord.addItem r = { r with
      defects := (items.foldl RollRecord.addItem r).defects
      defectOverflow := (items.foldl RollRecord.addItem r).defectOverflow } := by
  induction items generalizing r with
  | nil => rfl
  | cons x items ih =>
    rw [List.foldl_cons, ih (r.addItem x)]
    unfold RollRecord.addItem
    split <;> rfl

theorem addItems_defects (items : List DefectItem) (r : RollRecord) (h : r.defects.length ≤ 8) :
    (items.foldl RollRecord.addItem r).defects = (r.defects ++ items).take 8 := by
  induction items generalizing r with
  | nil => simp [List.take_of_length_le h]
  | cons x items ih =>
    rw [List.foldl_cons]
    by_cases room : r.defects.length < 8
    · have joined : r.addItem x = { r with defects := r.defects ++ [x] } := if_pos room
      rw [joined, ih _ (by simpa using room)]
      simp
    · have full : r.addItem x = { r with defectOverflow := bump max16 r.defectOverflow } := if_neg room
      rw [full, ih { r with defectOverflow := bump max16 r.defectOverflow } h]
      simp [List.take_append_of_le_length (by omega : 8 ≤ r.defects.length)]

/-- The plan as its old record has taken it over from a part `m` in which the plan's record is merged (R126). -/
structure TookOver (i : Fin 24) (p : Plan) (m t : State) : Prop where
  rest : t = { m with roll := { m.roll with
    plan := some { p with record := some i }, records := t.roll.records, cuts := t.roll.cuts } }
  record : ∃ n, t.record i = { m.record i with
    state := p.phase.recordState, stop := p.stop, endCause := some .cutFail
    unmatched := (m.record i).unmatched || p.unmatched, revision := n }
  others : ∀ k, k ≠ i → t.record k = m.record k
  cuts : t.roll.cuts = m.roll.cuts.map (fun y =>
    if y.state = .issued then { y with ending := some i, kindEnding := (m.record i).kind } else y)

theorem takeOver_tookOver (i : Fin 24) (p : Plan) (s : State) : TookOver i p (mergePlan i p s) (takeOver i p s) := by
  generalize hm : mergePlan i p s = m
  let taken : RollRecord → RollRecord := fun r => { r with
    state := p.phase.recordState, stop := p.stop, endCause := some .cutFail, unmatched := r.unmatched || p.unmatched }
  let u : State := modifyRecord i taken (putPlan (some { p with record := some i }) m)
  have made : takeOver i p s = modifyCuts .issued (fun x => { x with ending := some i, kindEnding := (u.record i).kind }) u := by
    rw [takeOver, hm]
  obtain ⟨n, written⟩ := modifyRecord_written i taken (putPlan (some { p with record := some i }) m)
  have rest : u = { m with roll := { m.roll with plan := some { p with record := some i }, records := u.roll.records } } := by
    rw [show u = modifyRecord i taken (putPlan (some { p with record := some i }) m) from rfl, modifyRecord_eq]
    rfl
  have kind : (u.record i).kind = (m.record i).kind := by rw [written]; rfl
  rw [made]
  refine ⟨?_, ⟨n, written⟩, fun k hk => modifyRecord_other i k taken _ (Ne.symm hk), ?_⟩
  · clear_value u
    rw [modifyCuts, rest]
  · show u.roll.cuts.map _ = _
    rw [kind, rest]

/-- A failed cut that ended a tracked record before a tracked plan: what the merge leaves (R126, R140). -/
structure PlanMerged (i j : Fin 24) (s m : State) : Prop where
  rest : m = { s with
    line := { s.line with holds := m.line.holds }
    roll := { s.roll with records := m.roll.records }
    shade := { s.shade with wasteSamples := m.shade.wasteSamples }, ports := m.ports }
  freed : (m.record j).state = .free
  others : ∀ k, k ≠ i → k ≠ j → m.record k = s.record k
  record : ∃ n, m.record i = { mergeRecord (s.record i) (s.record j) with revision := n }

theorem mergePlan_planMerged {i j : Fin 24} {p : Plan} (s : State) (hij : i ≠ j) (hp : p.record = some j) :
    PlanMerged i j s (mergePlan i p s) := by
  have freed := (Batching.mergePlan_merged s hij hp).freed
  have made : mergePlan i p s = freeRecord j (wasteSamples ((s.record i).shade.combine (s.record j).shade).2
      (modifyRecord i (fun r => mergeRecord r (s.record j)) s)) := by
    rw [mergePlan, hp]
  obtain ⟨n, written⟩ := modifyRecord_written i (fun r => mergeRecord r (s.record j)) s
  refine ⟨?_, freed, fun k hki hkj => ?_, n, ?_⟩
  · rw [made, freeRecord, evalHolds_eq, modifyRecord_eq, wasteSamples, modifyRecord_eq]
  · rw [made, Batching.freeRecord_other hkj]
    exact modifyRecord_other i k _ s (Ne.symm hki)
  · rw [made, Batching.freeRecord_other hij]
    exact written

theorem failTracked_plan {i : Fin 24} {p : Plan} {s : State} (h : s.roll.plan = some p) :
    failTracked i s = takeOver i p s := by
  unfold failTracked
  rw [h]

theorem failTracked_closing {i : Fin 24} {s : State} (h : s.roll.plan = none) :
    failTracked i s = finishRecord i false (modifyRecord i (fun r => { r with endCause := some .cutFail }) s) := by
  unfold failTracked
  rw [h]

theorem afterReport_open {x : CutRecord} (h : x.kindNext ≠ none) (s : State) : afterReport x s = s := by
  refine if_neg fun closing => h ?_
  simpa [CutRecord.isClosing] using closing

/-- The cut records after a failed cut whose record takes over the plan. -/
theorem takenCuts_eq (i : Fin 24) (kind : SegmentKind) (cuts : List CutRecord) :
    (cuts.map (fun y => if y.state = .awaiting then { y with state := .failed } else y)).map
        (fun y => if y.state = .issued then { y with ending := some i, kindEnding := kind } else y) =
      cuts.map (fun y =>
        match y.state with
        | .awaiting => { y with state := .failed }
        | .issued => { y with ending := some i, kindEnding := kind }
        | .done | .failed | .unconfirmed | .withdrawn => y) := by
  rw [List.map_map]
  refine List.map_congr_left fun y _ => ?_
  cases hy : y.state <;> simp [hy]

/-- The part as a failed cut is marked in it. -/
structure CutMarked (s f : State) : Prop where
  rest : f = { s with ports := f.ports, roll := { s.roll with cuts := f.roll.cuts } }
  cuts : f.roll.cuts = s.roll.cuts.map (fun y => if y.state = .awaiting then { y with state := .failed } else y)

theorem CutMarked.record {s f : State} (h : CutMarked s f) (i : Fin 24) : f.record i = s.record i := by
  rw [State.record, h.rest]
  rfl

theorem CutMarked.plan {s f : State} (h : CutMarked s f) : f.roll.plan = s.roll.plan := by rw [h.rest]

theorem cutMarked_modify {s u : State} (h : u = { s with ports := u.ports }) :
    CutMarked s (modifyCuts .awaiting (fun x => { x with state := .failed }) u) := by
  have roll : u.roll = s.roll := by rw [h]
  refine ⟨?_, by rw [← roll]; rfl⟩
  rw [modifyCuts, h]

/-- What is done for a failed cut in the part in which it is marked. -/
def failMarked (x : CutRecord) (f : State) : State :=
  afterReport x (raiseCut (match x.ending with
    | some i => failTracked i f
    | none => failUntracked x f))

theorem takeCutFailed_eq (x : CutRecord) (s : State) :
    takeCutFailed x s = failMarked x (modifyCuts .awaiting (fun x => { x with state := .failed }) s) := rfl

/-- A CUT_FAILED that is taken marks its cut, and does the rest to the part so marked. -/
theorem cutFailed_taken {p : Port} {args : List Byte} {s : State} {x : CutRecord} (h : Admitted .cutFailed p args s)
    (hx : s.roll.cuts.find? (fun y => y.number == natOfBytes args && y.state == .awaiting) = some x) :
    ∃ t f : State, exec (.cutFailed p args) s = .next t ∧ CutMarked s f ∧
      t = { failMarked x f with ports := t.ports } ∧
      (∀ raised, Noticed raised f (failMarked x f) → Answered .cutFailed p args .ok [] raised s t) ∧
      ∃ raised, Noticed raised f (failMarked x f) ∧ Has raised .winder .cut := by
  obtain ⟨t, u, made, hu, ht, answered⟩ := report_taken (i := .cutFailed p args) (take := takeCutFailed)
    (by rw [← cutFailedBody_eq]; rfl) (.inr rfl) h hx
  exact ⟨t, _, made, cutMarked_modify hu, ht, answered, (takeCutFailed_reported x u).notices⟩

theorem recordState_eq (phase : PlanPhase) :
    phase.recordState = (match phase with
      | .winding => .winding
      | .closing => .closing) := by
  cases phase <;> rfl

theorem failMarked_tracked {x : CutRecord} {q : Plan} {i : Fin 24} {f : State} (ending : x.ending = some i)
    (next : x.kindNext ≠ none) (plan : f.roll.plan = some q) : failMarked x f = raiseCut (takeOver i q f) := by
  rw [failMarked, afterReport_open next, ending]
  exact congrArg _ (failTracked_plan plan)

theorem failMarked_untracked {x : CutRecord} {f : State} (ending : x.ending = none) (next : x.kindNext ≠ none) :
    failMarked x f = raiseCut (failUntracked x f) := by
  rw [failMarked, afterReport_open next, ending]

theorem raiseCut_noticed (s : State) : Noticed (on .winder .cut) s (raiseCut s) := fun q => raise_noticed .winder .cut s q

theorem takeOver_untracked {i : Fin 24} {q : Plan} {s : State} (h : q.record = none) : mergePlan i q s = s := by
  rw [mergePlan, h]

/-- What a graded record keeps. -/
def SaleKept (r r' : RollRecord) : Prop :=
  r' = { r with
    state := r'.state, saleNumber := r'.saleNumber, result := r'.result, batch := r'.batch, grade := r'.grade
    lowConfidence := r'.lowConfidence, unconfirmedCut := r'.unconfirmedCut, revision := r'.revision }

theorem SaleKept.trans {r r' r'' : RollRecord} (a : SaleKept r r') (b : SaleKept r' r'') : SaleKept r r'' := by
  unfold SaleKept at *
  rw [b, a]

theorem saleKept_modify {i : Fin 24} {f : RollRecord → RollRecord} (s : State) (hf : SaleKept (s.record i) (f (s.record i))) :
    SaleKept (s.record i) ((modifyRecord i f s).record i) := by
  obtain ⟨n, written⟩ := modifyRecord_written i f s
  rw [written]
  generalize f (s.record i) = r at hf
  unfold SaleKept at *
  rw [hf]

theorem saleKept_of {s t : State} {i : Fin 24} (h : t.record i = s.record i) : SaleKept (s.record i) (t.record i) := by
  rw [h]
  rfl

theorem saleKept_write (i : Fin 24) (x : ShadeResult) (b : Option Nat) (low : Bool) (s : State) :
    SaleKept (s.record i) ((writeResult i x b low s).record i) := saleKept_modify s rfl

theorem saleKept_foundOrUnclassed (i : Fin 24) (mean : Shade) (spread : Int) (d : Option Int) (low : Bool) (s : State) :
    SaleKept (s.record i) ((foundOrUnclassed i mean spread d low s).record i) := by
  unfold foundOrUnclassed
  split
  · refine (saleKept_write i ⟨some mean, some spread, .founded, d⟩ (some (s.shade.batches.length + 1)) low s).trans
      (saleKept_of ?_)
    unfold foundBatch
    dsimp only
    rw [saveBatch_record]
    rfl
  · exact saleKept_write ..

theorem saleKept_assign (i : Fin 24) (b : Batch) (s : State) : SaleKept (s.record i) ((assignBatch i b s).record i) :=
  saleKept_of (by unfold assignBatch; rw [saveBatch_record]; rfl)

theorem saleKept_classify (i : Fin 24) (s : State) : SaleKept (s.record i) ((classify i s).record i) := by
  unfold classify matchBatches
  dsimp only
  split
  · exact saleKept_write ..
  · split
    · exact saleKept_write ..
    · split
      · split
        · refine SaleKept.trans ?_ (saleKept_assign ..)
          exact saleKept_write ..
        · exact saleKept_foundOrUnclassed ..
      · exact saleKept_foundOrUnclassed ..

/-- A break or a failed cut rejects the roll it ends (R130). -/
theorem gradeOf_rejected {r : RollRecord} (h : r.endCause = some .brk ∨ r.endCause = some .cutFail) (k : Recipe) :
    ∃ cause, gradeOf k r = .reject cause := by
  rw [Whole.gradeOrder k r]
  by_cases splice : r.splice = true
  · exact ⟨_, if_pos splice⟩
  · rw [if_neg splice]
    rcases h with brk | failed
    · exact ⟨_, if_pos brk⟩
    · exact ⟨_, by rw [if_neg (by rw [failed]; decide), if_pos failed]⟩

/-- What grading keeps of a record, and that it rejects one that a break or a failed cut ends. -/
theorem grade_kept (i : Fin 24) (b : Bool) (s : State) :
    SaleKept (s.record i) ((gradeRecord i b s).record i) ∧
      ((s.record i).endCause = some .brk ∨ (s.record i).endCause = some .cutFail →
        ∃ cause, ((gradeRecord i b s).record i).grade = some (.reject cause)) := by
  have numbered : SaleKept (s.record i) ((numberRoll i s).record i) :=
    saleKept_modify (f := fun r => { r with saleNumber := some (bump max32 s.roll.saleCounter) })
      { s with roll := { s.roll with saleCounter := bump max32 s.roll.saleCounter } } rfl
  have classified := numbered.trans (saleKept_classify i (numberRoll i s))
  unfold gradeRecord
  generalize classify i (numberRoll i s) = c at classified ⊢
  dsimp only
  let graded : RollRecord → RollRecord := fun r => { r with
    state := .graded, grade := some (gradeOf c.recipe r), unconfirmedCut := r.unconfirmedCut || b }
  obtain ⟨n, written⟩ := modifyRecord_written i graded c
  obtain ⟨st, m, joined, -⟩ := joinLabel_record i (modifyRecord i graded c)
  rw [joined]
  refine ⟨(classified.trans (saleKept_modify c (f := graded) rfl)).trans rfl, fun ended => ?_⟩
  have cause : (c.record i).endCause = (s.record i).endCause := by
    unfold SaleKept at classified
    rw [classified]
  rw [← cause] at ended
  obtain ⟨x, hx⟩ := gradeOf_rejected ended c.recipe
  refine ⟨x, ?_⟩
  rw [written]
  exact congrArg some hx

/-- What the closing cut's report does beyond the cut (R16, R132). -/
structure ClosingReported (s t : State) : Prop where
  side : ReportSide s t
  strobe : t.cutStrobe = false
  emptied : s.line.closing = .cutReport → t.map.entries = [] ∧ t.shade.queue = []
  kept : s.line.closing ≠ .cutReport → t = { s with roll := { s.roll with strobeOff := none } }

theorem afterReport_closing {x : CutRecord} (h : x.kindNext = none) (s : State) : ClosingReported s (afterReport x s) := by
  have made : afterReport x s = if s.line.closing = .cutReport then
      advanceClosing (enterDrain { s with roll := { s.roll with strobeOff := none } })
      else { s with roll := { s.roll with strobeOff := none } } :=
    if_pos (by simp [CutRecord.isClosing, h])
  refine ⟨afterReport_side x s, ?_, fun report => ?_, fun report => made.trans (if_neg report)⟩
  · rw [made]
    split
    · have side := advanceClosing_side (enterDrain { s with roll := { s.roll with strobeOff := none } })
      unfold ClosingSide at side
      rw [side]
      rfl
    · rfl
  · rw [made, if_pos report]
    have side := advanceClosing_side (enterDrain { s with roll := { s.roll with strobeOff := none } })
    unfold ClosingSide at side
    rw [side]
    exact ⟨rfl, rfl⟩

/-- A failed cut that ended the tracked record `i` before the plan `q`: the record takes over the plan (R126). -/
theorem cutFailed_tracked {p : Port} {args : List Byte} {s : State} {x : CutRecord} {q : Plan} {i : Fin 24}
    (h : Admitted .cutFailed p args s)
    (hx : s.roll.cuts.find? (fun y => y.number == natOfBytes args && y.state == .awaiting) = some x)
    (ending : x.ending = some i) (next : x.kindNext ≠ none) (plan : s.roll.plan = some q) :
    ∃ t f v : State, exec (.cutFailed p args) s = .next t ∧ CutMarked s f ∧ TookOver i q (mergePlan i q f) v ∧
      t = { v with ports := t.ports } ∧
      (v.ports = f.ports → Answered .cutFailed p args .ok [] (on .winder .cut) s t) := by
  obtain ⟨t, f, made, marked, ht, answered, -⟩ := cutFailed_taken h hx
  have failed := failMarked_tracked ending next (marked.plan.trans plan)
  rw [failed] at ht answered
  refine ⟨t, f, takeOver i q f, made, marked, takeOver_tookOver i q f, ht, fun ports => answered _ fun r => ?_⟩
  rw [raiseCut_noticed (takeOver i q f) r]
  have port : (takeOver i q f).port r = f.port r := by rw [State.port, ports]; rfl
  rw [port]

/-- The record that takes over the plan and, merged into it, the plan's record (R126, R140). -/
theorem tookOver_merged {i j : Fin 24} {q : Plan} {f v : State} (hij : i ≠ j) (tracked : q.record = some j)
    (taken : TookOver i q (mergePlan i q f) v) :
    ∃ n, v.record i = { mergeRecord (f.record i) (f.record j) with
      state := q.phase.recordState, stop := q.stop, endCause := some .cutFail
      unmatched := (mergeRecord (f.record i) (f.record j)).unmatched || q.unmatched, revision := n } := by
  obtain ⟨n, merged⟩ := (mergePlan_planMerged f hij tracked).record
  obtain ⟨m, record⟩ := taken.record
  exact ⟨m, by rw [record, merged]⟩

/-- The fields that a merge leaves (R126, R140). -/
structure MergedRecord (old plan r : RollRecord) : Prop where
  kind : r.kind = old.kind
  start : r.start = old.start
  splice : r.splice = (old.splice || plan.splice)
  flags : r.flags = old.flags ||| plan.flags
  register : r.registerOff = min 4294967295 (old.registerOff + plan.registerOff)
  emboss : r.embossOff = min 4294967295 (old.embossOff + plan.embossOff)
  defect : r.defectTotal = min 4294967295 (old.defectTotal + plan.defectTotal)
  items : old.defects.length ≤ 8 → r.defects = (old.defects ++ plan.defects).take 8

theorem mergeRecord_merged (old plan : RollRecord) : MergedRecord old plan (mergeRecord old plan) := by
  have items := addItems_eq plan.defects old
  unfold mergeRecord
  dsimp only
  refine ⟨?_, ?_, rfl, rfl, rfl, rfl, rfl, fun fits => addItems_defects plan.defects old fits⟩
  · rw [items]
  · rw [items]

theorem TookOver.kind {i : Fin 24} {q : Plan} {m v : State} (h : TookOver i q m v) :
    (v.record i).kind = (m.record i).kind := by
  obtain ⟨n, record⟩ := h.record
  rw [record]

/-- Two composed changes of the cut records of which the first was the marking of the failed cut. -/
theorem tookOver_cuts {s f m v : State} {i : Fin 24} {q : Plan} (marked : CutMarked s f) (taken : TookOver i q m v)
    (cuts : m.roll.cuts = f.roll.cuts) (kind : (m.record i).kind = (s.record i).kind) :
    v.roll.cuts = s.roll.cuts.map (fun y =>
      match y.state with
      | .awaiting => { y with state := .failed }
      | .issued => { y with ending := some i, kindEnding := (s.record i).kind }
      | .done | .failed | .unconfirmed | .withdrawn => y) := by
  rw [taken.cuts, cuts, marked.cuts, kind]
  exact takenCuts_eq i (s.record i).kind s.roll.cuts

theorem cutFailed_merges {p : Port} {args : List Byte} {s : State} {x : CutRecord} {q : Plan} {i j : Fin 24}
    (h : Admitted .cutFailed p args s)
    (hx : s.roll.cuts.find? (fun y => y.number == natOfBytes args && y.state == .awaiting) = some x)
    (ending : x.ending = some i) (next : x.kindNext ≠ none) (plan : s.roll.plan = some q) (tracked : q.record = some j)
    (hij : i ≠ j) :
    ∃ (t : State) (n : Nat), exec (.cutFailed p args) s = .next t ∧
      t = { s with
        line := { s.line with holds := t.line.holds }, roll := t.roll
        shade := { s.shade with wasteSamples := t.shade.wasteSamples }, ports := t.ports } ∧
      t.roll.plan = some { q with record := some i } ∧
      t.roll.cuts = s.roll.cuts.map (fun y =>
        match y.state with
        | .awaiting => { y with state := .failed }
        | .issued => { y with ending := some i, kindEnding := (s.record i).kind }
        | .done | .failed | .unconfirmed | .withdrawn => y) ∧
      (t.record j).state = .free ∧ (∀ k, k ≠ i → k ≠ j → t.record k = s.record k) ∧
      t.record i = { mergeRecord (s.record i) (s.record j) with
        state := q.phase.recordState, stop := q.stop, endCause := some .cutFail
        unmatched := (mergeRecord (s.record i) (s.record j)).unmatched || q.unmatched, revision := n } := by
  obtain ⟨t, f, v, made, marked, taken, ht, -⟩ := cutFailed_tracked h hx ending next plan
  obtain ⟨n, record⟩ := tookOver_merged hij tracked taken
  have merged := mergePlan_planMerged f hij tracked
  generalize mergePlan i q f = m at taken merged
  have kind : (m.record i).kind = (s.record i).kind := by
    obtain ⟨k, written⟩ := merged.record
    rw [written, ← marked.record i]
    exact (mergeRecord_merged ..).kind
  have cuts := tookOver_cuts marked taken (by rw [merged.rest]) kind
  have kept (k : Fin 24) : t.record k = v.record k := by rw [ht]; rfl
  refine ⟨t, n, made, ?_, ?_, ?_, ?_, fun k hi hj => ?_, ?_⟩
  · have rolled : ∃ R, v = { m with roll := R } := ⟨_, taken.rest⟩
    have held : ∃ h R w P, m = { f with
        line := { f.line with holds := h }, roll := R, shade := { f.shade with wasteSamples := w }, ports := P } :=
      ⟨_, _, _, _, merged.rest⟩
    have first : ∃ P R, f = { s with ports := P, roll := R } := ⟨_, _, marked.rest⟩
    rw [ht]
    clear * - rolled held first
    obtain ⟨_, rfl⟩ := rolled
    obtain ⟨_, _, _, _, rfl⟩ := held
    obtain ⟨_, _, rfl⟩ := first
    rfl
  · rw [ht, taken.rest]
  · rw [ht]
    exact cuts
  · rw [kept, taken.others j (Ne.symm hij)]
    exact merged.freed
  · rw [kept, taken.others k hi, merged.others k hi hj, marked.record]
  · rw [kept, record, marked.record, marked.record]

/-- A failed cut before an untracked plan merges and frees nothing. -/
theorem cutFailed_untrackedPlan {p : Port} {args : List Byte} {s : State} {x : CutRecord} {q : Plan} {i : Fin 24}
    (h : Admitted .cutFailed p args s)
    (hx : s.roll.cuts.find? (fun y => y.number == natOfBytes args && y.state == .awaiting) = some x)
    (ending : x.ending = some i) (next : x.kindNext ≠ none) (plan : s.roll.plan = some q) (untracked : q.record = none) :
    ∃ (t : State) (n : Nat), exec (.cutFailed p args) s = .next t ∧
      t = { s with
        roll := { s.roll with
          plan := some { q with record := some i }, records := t.roll.records, cuts := t.roll.cuts }
        ports := t.ports } ∧
      Answered .cutFailed p args .ok [] (on .winder .cut) s t ∧
      t.roll.cuts = s.roll.cuts.map (fun y =>
        match y.state with
        | .awaiting => { y with state := .failed }
        | .issued => { y with ending := some i, kindEnding := (s.record i).kind }
        | .done | .failed | .unconfirmed | .withdrawn => y) ∧
      t.record i = { s.record i with
        state := q.phase.recordState, stop := q.stop, endCause := some .cutFail
        unmatched := (s.record i).unmatched || q.unmatched, revision := n } ∧
      ∀ k, k ≠ i → t.record k = s.record k := by
  obtain ⟨t, f, v, made, marked, taken, ht, answered⟩ := cutFailed_tracked h hx ending next plan
  rw [takeOver_untracked untracked] at taken
  have cuts := tookOver_cuts marked taken rfl (by rw [marked.record])
  obtain ⟨n, record⟩ := taken.record
  have kept (k : Fin 24) : t.record k = v.record k := by rw [ht]; rfl
  refine ⟨t, n, made, ?_, answered (by rw [taken.rest]), ?_, ?_, fun k hi => ?_⟩
  · have rolled : ∃ R C, v = { f with roll := { f.roll with plan := some { q with record := some i }, records := R, cuts := C } } :=
      ⟨_, _, taken.rest⟩
    have first : ∃ P C, f = { s with ports := P, roll := { s.roll with cuts := C } } := ⟨_, _, marked.rest⟩
    rw [ht]
    clear * - rolled first
    obtain ⟨_, _, rfl⟩ := rolled
    obtain ⟨_, _, rfl⟩ := first
    rfl
  · rw [ht]
    exact cuts
  · rw [kept, record, marked.record]
  · rw [kept, taken.others k hi, marked.record]

theorem failUntracked_plan {x : CutRecord} {q : Plan} {f : State} (plan : f.roll.plan = some q) :
    failUntracked x f = modifyTracked q (fun r => { r with endCause := some .cutFail }) (finishCut x false f) := by
  have kept : (finishCut x false f).roll.plan = some q := by rw [(finishCut_finished x false f).rest, plan]
  unfold failUntracked
  dsimp only
  rw [kept]

theorem failUntracked_noPlan {x : CutRecord} {f : State} (plan : f.roll.plan = none) :
    failUntracked x f = finishCut x false f := by
  have kept : (finishCut x false f).roll.plan = none := by rw [(finishCut_finished x false f).rest, plan]
  unfold failUntracked
  dsimp only
  rw [kept]

/-- An untracked segment that a cut ended, finished: only the waste total can change (R131). -/
theorem finishCut_untracked {x : CutRecord} (ending : x.ending = none) (unconfirmed : Bool) (s : State) :
    finishCut x unconfirmed s = { s with roll := { s.roll with
      wasteTotal := (if x.kindEnding = .waste then min 4294967295 (s.roll.wasteTotal + (x.cut - x.segmentStart).toNat)
        else s.roll.wasteTotal) } } := by
  unfold finishCut
  rw [ending]
  cases kind : x.kindEnding with
  | sale => rfl
  | waste => rfl

/-- A failed cut of an untracked segment before a plan gives the plan's record end cause CUT_FAIL (R126). -/
theorem cutFailed_untracked {p : Port} {args : List Byte} {s : State} {x : CutRecord} {q : Plan}
    (h : Admitted .cutFailed p args s)
    (hx : s.roll.cuts.find? (fun y => y.number == natOfBytes args && y.state == .awaiting) = some x)
    (ending : x.ending = none) (next : x.kindNext ≠ none) (plan : s.roll.plan = some q) :
    ∃ t, exec (.cutFailed p args) s = .next t ∧
      t = { s with
        roll := { s.roll with records := t.roll.records, cuts := t.roll.cuts, wasteTotal := t.roll.wasteTotal }
        ports := t.ports } ∧
      Answered .cutFailed p args .ok [] (on .winder .cut) s t ∧
      t.roll.cuts = s.roll.cuts.map (fun y => if y.state = .awaiting then { y with state := .failed } else y) ∧
      t.roll.wasteTotal =
        (if x.kindEnding = .waste then
          min 4294967295 (s.roll.wasteTotal + (x.cut - x.segmentStart).toNat)
        else s.roll.wasteTotal) ∧
      (∀ j, q.record = some j → (t.record j).endCause = some .cutFail ∧
        t.record j = { s.record j with endCause := some .cutFail, revision := (t.record j).revision }) ∧
      ∀ k, q.record ≠ some k → t.record k = s.record k := by
  obtain ⟨t, f, made, marked, ht, answered, -⟩ := cutFailed_taken h hx
  have failed := (failMarked_untracked ending next).trans
    (congrArg raiseCut (failUntracked_plan (x := x) (marked.plan.trans plan)))
  rw [finishCut_untracked ending] at failed
  generalize hw : (if x.kindEnding = .waste then min 4294967295 (f.roll.wasteTotal + (x.cut - x.segmentStart).toNat)
      else f.roll.wasteTotal) = w at failed
  have total : f.roll.wasteTotal = s.roll.wasteTotal := by rw [marked.rest]
  rw [total] at hw
  let wasted : State := { f with roll := { f.roll with wasteTotal := w } }
  let cause : RollRecord → RollRecord := fun r => { r with endCause := some .cutFail }
  have failed : failMarked x f = raiseCut (modifyTracked q cause wasted) := failed
  have rest : ∃ R, modifyTracked q cause wasted = { f with roll := { f.roll with records := R, wasteTotal := w } } := by
    unfold modifyTracked
    split
    · exact ⟨_, modifyRecord_eq ..⟩
    · exact ⟨_, rfl⟩
  have before (k : Fin 24) : wasted.record k = s.record k := marked.record k
  have tracked (j : Fin 24) (hj : q.record = some j) : ∃ n, (modifyTracked q cause wasted).record j =
      { s.record j with endCause := some .cutFail, revision := n } := by
    obtain ⟨n, written⟩ := modifyRecord_written j cause wasted
    rw [before] at written
    exact ⟨n, by rw [modifyTracked, hj]; exact written⟩
  have others (k : Fin 24) (hk : q.record ≠ some k) : (modifyTracked q cause wasted).record k = s.record k := by
    rw [← before]
    unfold modifyTracked
    split
    · rename_i i hi
      exact modifyRecord_other i k cause wasted fun h => hk (h ▸ hi)
    · rfl
  generalize modifyTracked q cause wasted = v at failed rest tracked others
  rw [failed] at ht answered
  have record (k : Fin 24) : t.record k = v.record k := by rw [ht]; rfl
  have roll : t.roll = v.roll := by rw [ht]; rfl
  have first : ∃ P C, f = { s with ports := P, roll := { s.roll with cuts := C } } := ⟨_, _, marked.rest⟩
  refine ⟨t, made, ?_, answered _ ?_, ?_, ?_, fun j hj => ?_, fun k hk => (record k).trans (others k hk)⟩
  · rw [ht]
    clear * - rest first
    obtain ⟨_, rfl⟩ := rest
    obtain ⟨_, _, rfl⟩ := first
    rfl
  · obtain ⟨_, rfl⟩ := rest
    exact fun r => raiseCut_noticed _ r
  · obtain ⟨_, rest⟩ := rest
    rw [roll, rest, ← marked.cuts]
  · obtain ⟨_, rest⟩ := rest
    rw [roll, rest, ← hw]
  · obtain ⟨n, written⟩ := tracked j hj
    rw [record, written]
    exact ⟨rfl, rfl⟩

/-- A failed closing cut of the tracked record `i` (R126, R132). -/
theorem failMarked_closing {x : CutRecord} {f : State} (next : x.kindNext = none) (plan : f.roll.plan = none) :
    ∃ g w v : State, failMarked x f = v ∧ CutFinished x false g w ∧ ClosingReported (raiseCut w) v ∧
      (x.ending = none → g = f ∧ w = finishCut x false f) ∧
      ∀ i, x.ending = some i → g = modifyRecord i (fun r => { r with endCause := some .cutFail }) f ∧
        w = finishRecord i false g := by
  have closed := afterReport_closing next
  cases ending : x.ending with
  | none =>
    refine ⟨f, finishCut x false f, _, rfl, finishCut_finished x false f, ?_, fun _ => ⟨rfl, rfl⟩, fun _ h => (nomatch h)⟩
    have := closed (raiseCut (finishCut x false f))
    rw [failMarked, ending]
    dsimp only
    rw [failUntracked_noPlan plan]
    exact this
  | some i =>
    let g : State := modifyRecord i (fun r => { r with endCause := some .cutFail }) f
    have finish : finishCut x false g = finishRecord i false g := by unfold finishCut; rw [ending]
    refine ⟨g, finishCut x false g, _, rfl, finishCut_finished x false g, ?_, fun h => (nomatch h), fun j h => ?_⟩
    · have := closed (raiseCut (finishCut x false g))
      rw [failMarked, ending]
      dsimp only
      rw [failTracked_closing plan]
      rw [finish] at this ⊢
      exact this
    · obtain rfl := Option.some.inj h
      exact ⟨rfl, finish⟩

/-- What the failed closing cut leaves, whatever it ended (R126, R132). -/
structure ClosingFailed (x : CutRecord) (s g w t : State) : Prop where
  strobe : t.cutStrobe = false
  web : t.web = s.web
  plan : t.roll.plan = none
  cuts : t.roll.cuts = s.roll.cuts.map (fun y => if y.state = .awaiting then { y with state := .failed } else y)
  emptied : s.line.closing = .cutReport → t.map.entries = [] ∧ t.shade.queue = []
  kept : s.line.closing ≠ .cutReport → t.map = w.map ∧ t.shade = w.shade
  finished : CutFinished x false g w
  roll : t.roll = { w.roll with strobeOff := t.roll.strobeOff }
  counters : g.roll.saleCounter = s.roll.saleCounter ∧ g.roll.wasteTotal = s.roll.wasteTotal
  untracked : x.ending = none → g.roll.records = s.roll.records ∧ w.map = s.map ∧ w.shade = s.shade
  tracked : ∀ i, x.ending = some i → w = finishRecord i false g ∧
    ∃ n, g.record i = { s.record i with endCause := some .cutFail, revision := n }

theorem cutFailed_closing {p : Port} {args : List Byte} {s : State} {x : CutRecord}
    (h : Admitted .cutFailed p args s)
    (hx : s.roll.cuts.find? (fun y => y.number == natOfBytes args && y.state == .awaiting) = some x)
    (next : x.kindNext = none) (plan : s.roll.plan = none) :
    ∃ (t : State) (raised : Raised) (g w : State), exec (.cutFailed p args) s = .next t ∧
      Answered .cutFailed p args .ok [] raised s t ∧ Has raised .winder .cut ∧ ClosingFailed x s g w t := by
  obtain ⟨t, f, made, marked, ht, answered, raised, noticed, cut⟩ := cutFailed_taken h hx
  obtain ⟨g, w, v, failed, finished, closed, untracked, tracked⟩ := failMarked_closing next (marked.plan.trans plan)
  have changed : ∃ R, g = { f with roll := { f.roll with records := R } } := by
    cases ending : x.ending with
    | none => exact ⟨_, (untracked ending).1⟩
    | some i =>
      obtain ⟨rfl, -⟩ := tracked i ending
      exact ⟨_, modifyRecord_eq ..⟩
  have side := closed.side
  unfold ReportSide at side
  have gRoll : g.roll = { s.roll with records := g.roll.records, cuts := f.roll.cuts } := by
    obtain ⟨_, rfl⟩ := changed
    show ({ f.roll with records := _ } : RollFormer) = _
    rw [marked.rest]
  have wRoll : w.roll = { g.roll with
      records := w.roll.records, saleCounter := w.roll.saleCounter, wasteTotal := w.roll.wasteTotal } := by
    rw [finished.rest]
  have vRoll : v.roll = { w.roll with strobeOff := v.roll.strobeOff } := by
    rw [side]
    rfl
  have tv : t = { v with ports := t.ports } := by rw [← failed]; exact ht
  have tRoll : t.roll = v.roll := by rw [tv]
  have closing : (raiseCut w).line.closing = s.line.closing := by
    show w.line.closing = _
    rw [finished.rest]
    obtain ⟨_, rfl⟩ := changed
    show f.line.closing = _
    rw [marked.rest]
  refine ⟨t, raised, g, w, made, answered _ noticed, cut, ?_, ?_, ?_, ?_, fun report => ?_, fun report => ?_, finished, ?_,
    ?_, fun ending => ?_, fun i ending => ?_⟩
  · rw [State.cutStrobe, tRoll]
    exact closed.strobe
  · rw [tv, side]
    show w.web = s.web
    rw [finished.rest]
    obtain ⟨_, rfl⟩ := changed
    show f.web = s.web
    rw [marked.rest]
  · rw [tRoll, vRoll, wRoll, gRoll]
    exact plan
  · rw [tRoll, vRoll, wRoll, gRoll]
    exact marked.cuts
  · rw [tv]
    exact closed.emptied (closing.trans report)
  · rw [tv, closed.kept (by rw [closing]; exact report)]
    exact ⟨rfl, rfl⟩
  · rw [tRoll]
    exact vRoll
  · rw [gRoll]
    exact ⟨rfl, rfl⟩
  · obtain ⟨rfl, rfl⟩ := untracked ending
    rw [finishCut_untracked ending]
    show g.roll.records = _ ∧ g.map = _ ∧ g.shade = _
    rw [marked.rest]
    exact ⟨rfl, rfl, rfl⟩
  · obtain ⟨hg, hw⟩ := tracked i ending
    obtain ⟨n, written⟩ := modifyRecord_written i (fun r => { r with endCause := some .cutFail }) f
    exact ⟨hw, n, by rw [hg, written, marked.record]⟩

/-- Settles O29: before a plan the failed cut's record takes it over, and the closing cut's is finished. -/
theorem cutFailedMerges : Obligations.CutFailedMerges := by
  refine ⟨?_, ?_, ?_, ?_, ?_⟩
  · intro p args s x q i j h hx ending next plan tracked hij
    obtain ⟨t, n, made, rest, took, cuts, freed, others, record⟩ :=
      cutFailed_merges h hx ending next plan tracked hij
    have merged := mergeRecord_merged (s.record i) (s.record j)
    refine ⟨t, made, rest, took, cuts, freed, others, ?_⟩
    rw [record]
    exact ⟨recordState_eq q.phase, merged.kind, merged.start, rfl, rfl, merged.splice, merged.flags, merged.register, merged.emboss,
      merged.defect, merged.items⟩
  · intro p args s x q i h hx ending next plan untracked
    obtain ⟨t, n, made, rest, answered, cuts, record, others⟩ :=
      cutFailed_untrackedPlan h hx ending next plan untracked
    refine ⟨t, made, rest, answered, cuts, ?_, others⟩
    rw [recordState_eq] at record
    rw [record] <;> rfl
  · intro p args s x h hx ending next plan
    obtain ⟨t, raised, g, w, made, answered, cut, closed⟩ := cutFailed_closing h hx next plan
    obtain ⟨records, waste⟩ := closed.finished.untracked ending
    obtain ⟨before, map, shade⟩ := closed.untracked ending
    refine ⟨t, raised, made, answered, cut, closed.strobe, closed.web, closed.plan, closed.cuts, ?_,
      fun _ report => closed.emptied report, fun report => ⟨?_, (closed.kept report).1.trans map, (closed.kept report).2.trans shade⟩⟩
    · rw [closed.roll, ← closed.counters.2]
      exact waste
    · rw [closed.roll]
      exact records.trans before
  · intro p args s x q h hx ending next plan
    exact cutFailed_untracked h hx ending next plan
  · intro p args s x i h hx ending next plan
    obtain ⟨t, raised, g, w, made, answered, cut, closed⟩ := cutFailed_closing h hx next plan
    obtain ⟨finish, n, before⟩ := closed.tracked i ending
    have record (k : Fin 24) : t.record k = w.record k := by rw [State.record, closed.roll]; rfl
    refine ⟨t, raised, made, answered, cut, closed.strobe, closed.web, closed.plan, closed.cuts, fun sale => ?_,
      fun waste => ?_, fun _ report => closed.emptied report⟩
    · have kind : (g.record i).kind = .sale := by rw [before]; exact sale
      have graded := closed.finished.sale i ending kind
      obtain ⟨kept, rejected⟩ := grade_kept i false g
      rw [finishRecord_sale kind] at finish
      rw [record, graded.number, closed.counters.1]
      rw [← finish] at kept rejected
      have cause : (w.record i).endCause = some .cutFail := by
        unfold SaleKept at kept
        rw [kept, before]
      exact ⟨rfl, cause, rejected (.inr (by rw [before])), graded.queued⟩
    · have wasted := closed.finished.waste i ending (by rw [before]; exact waste)
      rw [record, closed.roll]
      refine ⟨wasted.free, ?_⟩
      rw [wasted.total, closed.counters.2, before]
      rfl

end Sys2Proof.Cutting

/-! ## Orders that close and webs that break (R11, R15, R16, R129, R132) -/

namespace Sys2Proof.Closing

open Sys2Proof.Machine Sys2Proof.Safety Sys2Proof.Starting Sys2Proof.Reporting Sys2Proof.Porting Sys2Proof.Answering
  Sys2Proof.Cutting

/-- A request answered before its rule raises notices. -/
theorem answered_then_noticed {r : Req} {p : Port} {args : List Byte} {s z : State} {raised : Raised}
    (h : Admitted r p args s) (hz : Noticed raised (answerOk r p (received r p args s)) z) :
    Answered r p args .ok [] raised s (takeInput r p z) := by
  have idle : (s.port p).request = none := h.slots.1
  have held := (((received_changed r p args s).hold.respond r.role.code .ok []).notices hz).takeInput r
  have silent : both quiet raised = raised := quiet_both raised
  rw [silent, answered_none (by exact idle)] at held
  refine fun q => (held q).trans ?_
  by_cases hq : q = p
  · subst hq
    rw [if_pos rfl, if_pos rfl]
    clear held
    simp [portReceived, portAfter, BitVec.or_assoc]
    exact idle
  · rw [if_neg hq, if_neg hq]

/-! ### The cut that closes an order (R132) -/

/-- What the closing cut of the plan `p` leaves (R132). -/
structure ClosingCutMade (p : Plan) (s t : State) : Prop where
  rest : t = { s with
    line := { s.line with holds := t.line.holds }, map := t.map, roll := t.roll, shade := t.shade, label := t.label
    store := t.store, ports := t.ports }
  plan : t.roll.plan = none
  strobe : t.cutStrobe = true
  cut : ∃ x, t.roll.cuts.getLast? = some x ∧ (∀ y ∈ t.roll.cuts, y.state = .awaiting → y = x) ∧
    x.number = min 4294967295 (s.roll.cutCount + 1) ∧ x.state = .awaiting ∧ x.ending = p.record ∧ x.kindNext = none ∧
    x.cause = .orderEnd ∧ x.cut = max ((s.web.w : Int) - s.geometry.dK) p.start ∧ x.strobe = s.web.w ∧ x.confirm = none
  record : ∀ i, p.record = some i → (t.record i).state = .cutWait ∧ (t.record i).endCause = some .orderEnd ∧
    (t.record i).stop = some (max ((s.web.w : Int) - s.geometry.dK) p.start)
  raised : ∃ raised, Noticed raised s t ∧ Has raised .winder .cut

/-- What a consumption leaves outside the map, the records and the samples. -/
theorem consumeSegment_rest (p : Plan) (c : Pos) (s : State) : ∃ M R S, consumeSegment p c s =
    { s with map := M, roll := { s.roll with records := R }, shade := S } := by
  cases tracked : p.record with
  | none => exact ⟨_, _, _, (consumeSegment_untracked p c s tracked).1⟩
  | some i => exact ⟨_, _, _, (consumeSegment_tracked i p c s tracked).rest⟩

/-- A cut joined to a list of no AWAITING cut is the one AWAITING cut, at the newest end. -/
theorem lastN_joined {cuts : List CutRecord} {x : CutRecord} (h : ∀ y ∈ cuts, y.state ≠ .awaiting) :
    (lastN 2 (cuts ++ [x])).getLast? = some x ∧ ∀ y ∈ lastN 2 (cuts ++ [x]), y.state = .awaiting → y = x := by
  refine ⟨?_, fun y hy awaiting => ?_⟩
  · rw [lastN, List.getLast?_drop, if_neg (by simp), List.getLast?_concat]
  · rcases List.mem_append.1 (List.mem_of_mem_drop hy) with old | new
    · exact absurd awaiting (h y old)
    · exact List.mem_singleton.1 new

theorem endAwaiting_onlyNotices (s : State) : OnlyNotices s (endAwaiting s) := by
  unfold endAwaiting
  split
  · rename_i x _
    let u : State := modifyCuts .awaiting (fun x => { x with state := .unconfirmed }) s
    let v : State := { u with roll := { u.roll with lastUnconfirmed := some x.number } }
    have same : OnlyNotices s v := ⟨quiet, noticed_refl s v rfl⟩
    exact same.trans (consequent_finishCut x true v).notices
  · exact .refl s

/-- The cut records as the closing cut and a break leave the earlier ones (R129, R132). -/
def endedCut (y : CutRecord) : CutRecord :=
  match y.state with
  | .awaiting => { y with state := .unconfirmed }
  | .issued => { y with state := .withdrawn }
  | .done | .failed | .unconfirmed | .withdrawn => y

theorem endedCut_state (y : CutRecord) : (endedCut y).state ≠ .awaiting := by
  cases hy : y.state <;> simp [endedCut, hy]

/-- What ending the AWAITING cut and withdrawing the ISSUED one leave. -/
structure CutsEnded (s t : State) : Prop where
  rest : ∃ h R B L S P, t = { s with
    line := { s.line with holds := h }, roll := R, shade := { s.shade with batches := B }, label := L, store := S, ports := P }
  roll : ∃ R W C U, t.roll = { s.roll with
    records := R, wasteTotal := W, saleCounter := C, lastUnconfirmed := U, cuts := s.roll.cuts.map endedCut }
  record : ∀ i, t.record i = (endAwaiting s).record i
  notices : OnlyNotices s t

theorem withdrawCut_ended (s : State) : CutsEnded s (withdrawCut (endAwaiting s)) := by
  have ended := endAwaiting_ended s
  have cuts : (withdrawCut (endAwaiting s)).roll.cuts = s.roll.cuts.map endedCut := by
    show (endAwaiting s).roll.cuts.map _ = _
    rw [ended.rest, List.map_map]
    refine List.map_congr_left fun y _ => ?_
    unfold endedCut
    cases hy : y.state <;> simp [hy]
  have rest := ended.rest
  have notices := endAwaiting_onlyNotices s
  refine ⟨?_, ⟨(endAwaiting s).roll.records, (endAwaiting s).roll.wasteTotal, (endAwaiting s).roll.saleCounter,
    (endAwaiting s).roll.lastUnconfirmed, ?_⟩, fun _ => rfl, notices⟩
  · have kept : ∃ h R B L S P, endAwaiting s = { s with
        line := { s.line with holds := h }, roll := R, shade := { s.shade with batches := B }, label := L, store := S, ports := P } :=
      ⟨_, _, _, _, _, _, rest⟩
    obtain ⟨h, R, B, L, S, P, kept⟩ := kept
    rw [kept]
    exact ⟨_, _, _, _, _, _, rfl⟩
  · rw [← cuts]
    show ({ (endAwaiting s).roll with cuts := (withdrawCut (endAwaiting s)).roll.cuts } : RollFormer) = _
    have roll : ∃ R W C U Q, (endAwaiting s).roll = { s.roll with
        records := R, wasteTotal := W, saleCounter := C, lastUnconfirmed := U, cuts := Q } := by
      rw [rest]
      exact ⟨_, _, _, _, _, rfl⟩
    obtain ⟨R, W, C, U, Q, roll⟩ := roll
    rw [roll]

theorem closingCutOf_made (p : Plan) (s : State) : ClosingCutMade p s (closingCutOf p s) := by
  let c : Pos := max ((s.web.w : Int) - s.geometry.dK) p.start
  obtain ⟨⟨h, R, B, L, S, P, rest⟩, ⟨R', W, C, U, roll⟩, -, raised, noticed⟩ := withdrawCut_ended s
  generalize hs1 : withdrawCut (endAwaiting s) = s1 at rest roll noticed
  let x : CutRecord := closingRecord p c s1
  let s2 : State := assertStrobe s.web.w (pushCut x s1)
  let ended : RollRecord → RollRecord := fun r => { r with
    state := .cutWait, stop := some c, endCause := some .orderEnd, unmatched := true }
  have made : closingCutOf p s = raiseCut (putPlan none (consumeSegment p c (modifyTracked p ended s2))) := by
    unfold closingCutOf
    rw [hs1]
    rfl
  have tracked : ∃ R, modifyTracked p ended s2 = { s2 with roll := { s2.roll with records := R } } := by
    unfold modifyTracked
    split
    · exact ⟨_, modifyRecord_eq ..⟩
    · exact ⟨_, rfl⟩
  have written (i : Fin 24) (hi : p.record = some i) : ((modifyTracked p ended s2).record i).state = .cutWait ∧
      ((modifyTracked p ended s2).record i).endCause = some .orderEnd ∧
      ((modifyTracked p ended s2).record i).stop = some c := by
    obtain ⟨n, written⟩ := modifyRecord_written i ended s2
    rw [modifyTracked, hi]
    dsimp only
    rw [written]
    exact ⟨rfl, rfl, rfl⟩
  generalize modifyTracked p ended s2 = s3 at made tracked written
  obtain ⟨M, R4, S4, consumed⟩ := consumeSegment_rest p c s3
  have record (i : Fin 24) (hi : p.record = some i) : ((consumeSegment p c s3).record i).state = .cutWait ∧
      ((consumeSegment p c s3).record i).endCause = some .orderEnd ∧ ((consumeSegment p c s3).record i).stop = some c := by
    rw [(consumeSegment_tracked i p c s3 hi).record]
    exact written i hi
  generalize consumeSegment p c s3 = s4 at made consumed record
  have roll4 : s4.roll = { s1.roll with
      records := s4.roll.records, cuts := lastN 2 (s1.roll.cuts ++ [x]), cutCount := x.number
      strobeOff := some (s.web.w + s1.recipe.pulseWidth) } := by
    obtain ⟨_, tracked⟩ := tracked
    rw [consumed, tracked]
    rfl
  have cuts4 : s4.roll.cuts = lastN 2 (s.roll.cuts.map endedCut ++ [x]) := by rw [roll4, roll]
  have count : s1.roll.cutCount = s.roll.cutCount := by rw [roll]
  obtain ⟨newest, only⟩ := lastN_joined (cuts := s.roll.cuts.map endedCut) (x := x) (by
    intro y hy
    obtain ⟨z, -, rfl⟩ := List.mem_map.1 hy
    exact endedCut_state z)
  have ports4 : s4.ports = s1.ports := by
    obtain ⟨_, tracked⟩ := tracked
    rw [consumed, tracked]
    rfl
  have web : s1.web = s.web := by rw [rest]
  rw [made]
  refine ⟨?_, rfl, ?_, ⟨x, ?_, ?_, ?_, rfl, rfl, rfl, rfl, rfl, ?_, rfl⟩, record, both raised (on .winder .cut), ?_, ?_⟩
  · obtain ⟨_, tracked⟩ := tracked
    rw [consumed, tracked]
    have pushed : ∃ R, s2 = { s1 with roll := R } := ⟨_, rfl⟩
    obtain ⟨_, pushed⟩ := pushed
    rw [pushed, rest]
    rfl
  · show s4.roll.strobeOff.isSome = true
    rw [roll4]
    rfl
  · show s4.roll.cuts.getLast? = _
    rw [cuts4]
    exact newest
  · show ∀ y ∈ s4.roll.cuts, _
    rw [cuts4]
    exact only
  · show bump max32 s1.roll.cutCount = _
    rw [count, bump_max32]
  · show (s1.web.w : Int) = _
    rw [web]
  · refine noticed_both noticed fun q => ?_
    rw [raiseCut_noticed _ q]
    have port : (putPlan none s4).port q = s1.port q := by
      show s4.ports.get q = s1.ports.get q
      rw [ports4]
    rw [port]
  · rw [both_comm]
    exact has_both_left (by exact BitVec.and_self) raised

/-! ### ORDER_CLOSE (R15, R16) -/

/-- The line as it enters CLOSING, with nothing of the map, the rolls or the store changed yet. -/
def closed (s : State) : State :=
  haltClock (parkEmboss (eachUnit (fun _ c => switchOff c) (disableChannels (enterLineState .closing
    { s with line := { s.line with breakFlag := false, stagedTune := none } }))))

theorem enterClosing_eq (s : State) : enterClosing s = closingCut (closed s) := rfl

/-- What the first part of ORDER_CLOSE leaves (R15). -/
structure LineClosed (s t : State) : Prop where
  rest : t = { s with
    line := { s.line with state := .closing, breakFlag := false, stagedTune := none, holds := t.line.holds }
    capture := t.capture, register := t.register, emboss := t.emboss, clock := t.clock, ports := t.ports }
  clock : t.clock.state = .halted ∧ t.clock.rpoEnd = none
  frame : t.capture.frame = none
  channels : ∀ ch, (t.channel ch).enabled = false ∧ (t.channel ch).window = .closed
  units : ∀ k, (t.unit k).state = .off ∧ (t.unit k).outstanding = none
  emboss : t.emboss.channel.state = .off ∧ t.emboss.channel.outstanding = none ∧ t.emboss.nip.state = .parked
  noticed : LineNoticed s t

theorem switchOff_state (c : RegisterChannel) : (switchOff c).1.state = .off ∧ (switchOff c).1.outstanding = none := by
  unfold switchOff enterState
  split <;> simp_all

theorem disableChannels_channel (s : State) (ch : Channel) :
    ((disableChannels s).channel ch).enabled = false ∧ ((disableChannels s).channel ch).window = .closed := by
  cases ch with
  | unit k =>
    show ((s.capture.units.map ChannelRecord.disable).get k).enabled = false ∧ _
    rw [table_get_map]
    exact ⟨rfl, by show ((s.capture.units.map ChannelRecord.disable).get k).window = _; rw [table_get_map]; rfl⟩
  | mk0 | mke | idx | mkw => exact ⟨rfl, rfl⟩

theorem closed_lineClosed {s : State} (h : s.line.state ≠ .closing) : LineClosed s (closed s) := by
  let s0 : State := { s with line := { s.line with breakFlag := false, stagedTune := none } }
  have entered := enterLineState_eq .closing s0
  have line : LineNoticed s0 (enterLineState .closing s0) := enterLineState_lineNoticed h
  unfold closed
  generalize enterLineState .closing s0 = a at entered line
  have units := eachUnit_eq (fun _ c => switchOff c) (disableChannels a)
  have unitNotices := eachUnit_onlyNotices (fun _ c => switchOff c) (disableChannels a)
  have unit (k : Fin 7) := eachUnit_unit (fun _ c => switchOff c) (disableChannels a) k
  generalize eachUnit (fun _ c => switchOff c) (disableChannels a) = b at units unitNotices unit
  have emboss := putEmboss_eq (switchOff b.emboss.channel) b
  have embossNotices := putEmboss_onlyNotices (switchOff b.emboss.channel) b
  generalize hc : putEmboss (switchOff b.emboss.channel) b = c at emboss embossNotices
  have nip := enterNip_eq .parked c
  have nipNotices := enterNip_onlyNotices .parked c
  have park : parkEmboss b = enterNip .parked c := by rw [parkEmboss, hc]
  rw [park]
  generalize enterNip .parked c = d at nip nipNotices
  have entered : ∃ h P, a = { s0 with line := { s0.line with state := .closing, holds := h }, ports := P } :=
    ⟨_, _, entered⟩
  have units : ∃ U P, b = { disableChannels a with
      register := { (disableChannels a).register with units := U }, ports := P } := ⟨_, _, units⟩
  have emboss : ∃ P, c = { b with
      emboss := { b.emboss with channel := (switchOff b.emboss.channel).1 }, ports := P } := ⟨_, emboss⟩
  have nip : ∃ P, d = { c with emboss := { c.emboss with nip := { c.emboss.nip with state := .parked } }, ports := P } :=
    ⟨_, nip⟩
  have noticed : LineNoticed s (haltClock d) :=
    let ⟨raised, later, has⟩ := line.trans_onlyNotices (((show OnlyNotices a (disableChannels a) from
      ⟨quiet, noticed_refl _ _ rfl⟩).trans unitNotices).trans (embossNotices.trans nipNotices))
    ⟨raised, later, has⟩
  have unit (k : Fin 7) : (haltClock d).unit k = (switchOff ((disableChannels a).unit k)).1 := by
    rw [← unit k]
    obtain ⟨_, rfl⟩ := nip
    obtain ⟨_, rfl⟩ := emboss
    rfl
  have off := switchOff_state b.emboss.channel
  refine ⟨?_, ⟨rfl, rfl⟩, ?_, fun ch => ?_, fun k => ?_, ?_, noticed⟩
  · clear * - entered units emboss nip
    obtain ⟨_, rfl⟩ := nip
    obtain ⟨_, rfl⟩ := emboss
    obtain ⟨_, _, rfl⟩ := units
    obtain ⟨_, _, rfl⟩ := entered
    rfl
  · obtain ⟨_, rfl⟩ := nip
    obtain ⟨_, rfl⟩ := emboss
    obtain ⟨_, _, rfl⟩ := units
    rfl
  · have channel : (haltClock d).channel ch = (disableChannels a).channel ch := by
      obtain ⟨_, rfl⟩ := nip
      obtain ⟨_, rfl⟩ := emboss
      obtain ⟨_, _, rfl⟩ := units
      rfl
    rw [channel]
    exact disableChannels_channel a ch
  · rw [unit]
    exact switchOff_state _
  · obtain ⟨_, rfl⟩ := nip
    obtain ⟨_, rfl⟩ := emboss
    exact ⟨off.1, off.2, rfl⟩

/-- CLOSING going on does not bear on the break flag and the staged tune. -/
theorem advanceClosing_line (s : State) : (advanceClosing s).line.breakFlag = s.line.breakFlag ∧
    (advanceClosing s).line.stagedTune = s.line.stagedTune := by
  by_cases h : Drained s
  · cases slot : s.line.slot with
    | none =>
      have made : advanceClosing s = enterNoOrder s := by rw [advanceClosing_drained h, slot]
      rw [made, (enterNoOrder_closed s (by rw [h.closing]; decide)).2.2]
      exact ⟨rfl, rfl⟩
    | some n =>
      by_cases sound : (s.dir n).state = .degraded
      · rw [(advanceClosing_degraded h slot sound).2.2]
        exact ⟨rfl, rfl⟩
      · rw [(advanceClosing_queues h slot sound).2.2.2]
        exact ⟨rfl, rfl⟩
  · rw [advanceClosing_notDrained h]
    exact ⟨rfl, rfl⟩

/-- What ORDER_CLOSE leaves of a part `e` whose line has entered CLOSING. -/
structure CloseStarted (e z : State) : Prop where
  rest : z = { e with
    line := z.line, map := z.map, roll := z.roll, shade := z.shade, label := z.label, store := z.store, ports := z.ports }
  flag : z.line.breakFlag = e.line.breakFlag
  tune : z.line.stagedTune = e.line.stagedTune
  plan : z.roll.plan = none
  noticed : ∃ raised, Noticed raised e z ∧ (e.roll.plan ≠ none → Has raised .winder .cut)

/-- ORDER_CLOSE with a segment winding: the closing cut, whose report CLOSING waits for (R15, R132). -/
theorem closeStarted_cut {e : State} {q : Plan} (h : e.roll.plan = some q) :
    ∃ t, ClosingCutMade q e t ∧ advanceClosing (closingCut e) = { t with line := { t.line with closing := .cutReport } } ∧
      CloseStarted e (advanceClosing (closingCut e)) := by
  have cut := closingCutOf_made q e
  have made : closingCut e = { closingCutOf q e with line := { (closingCutOf q e).line with closing := .cutReport } } := by
    unfold closingCut
    rw [h]
  generalize closingCutOf q e = t at cut made
  have waits : advanceClosing (closingCut e) = { t with line := { t.line with closing := .cutReport } } := by
    rw [made]
    refine advanceClosing_notDrained fun drained => ?_
    exact absurd (show ClosingStep.cutReport = .drain from drained.drain) (by decide)
  refine ⟨t, cut, waits, ?_⟩
  rw [waits]
  have rest : ∃ h M R S L O P, t = { e with
      line := { e.line with holds := h }, map := M, roll := R, shade := S, label := L, store := O, ports := P } :=
    ⟨_, _, _, _, _, _, _, cut.rest⟩
  have plan := cut.plan
  obtain ⟨raised, noticed, has⟩ := cut.raised
  clear * - rest plan noticed has
  obtain ⟨h, M, R, S, L, O, P, rfl⟩ := rest
  exact ⟨rfl, rfl, rfl, plan, raised, noticed, fun _ => has⟩

/-- ORDER_CLOSE with no segment: the map and the samples are emptied, and CLOSING goes on (R15, R16). -/
theorem closeStarted_drain {e : State} (h : e.roll.plan = none) :
    closingCut e = enterDrain e ∧ CloseStarted e (advanceClosing (enterDrain e)) := by
  have side := advanceClosing_side (enterDrain e)
  obtain ⟨flag, tune⟩ := advanceClosing_line (enterDrain e)
  have noticed := (consequent_advanceClosing (enterDrain e)).notices
  generalize advanceClosing (enterDrain e) = z at side flag tune noticed
  unfold ClosingSide at side
  refine ⟨by unfold closingCut; rw [h], ?_, flag, tune, ?_, ?_⟩
  · rw [side]
    rfl
  · rw [side]
    exact h
  · have same : OnlyNotices e (enterDrain e) := ⟨quiet, noticed_refl _ _ rfl⟩
    obtain ⟨raised, noticed⟩ := same.trans noticed
    exact ⟨raised, noticed, fun plan => absurd h plan⟩

/-- With an AWAITING cut of no confirm point there is no confirm timeout. -/
theorem confirmTimeout_closing {s : State} {x : CutRecord} (only : ∀ y ∈ s.roll.cuts, y.state = .awaiting → y = x)
    (confirm : x.confirm = none) : confirmTimeout s = s := by
  have none : (cutIn .awaiting s).bind CutRecord.confirm = none := by
    cases found : cutIn .awaiting s with
    | none => rfl
    | some y =>
      have state := List.find?_some found
      rw [beq_iff_eq] at state
      rw [only y (List.mem_of_find?_eq_some found) state]
      exact confirm
  rw [confirmTimeout, none]

/-- An admitted ORDER_CLOSE is answered, the line enters CLOSING, and CLOSING goes on. -/
theorem orderClose_made {p : Port} {s : State} (h : Admitted .orderClose p [] s) :
    ∃ e z t : State, exec (.orderClose p []) s = .next t ∧ z = advanceClosing (closingCut e) ∧
      t = { z with ports := t.ports } ∧ (∃ a, a = { s with ports := a.ports } ∧ LineClosed a e) ∧
      ∀ raised, Noticed raised e z →
        ∃ both, Answered .orderClose p [] .ok [] both s t ∧ (∀ q, Has both q .line) ∧
          ∀ q n, Has raised q n → Has both q n := by
  let a : State := answerOk .orderClose p (received .orderClose p [] s)
  have same : a = { s with ports := a.ports } := by
    show answerOk .orderClose p (received .orderClose p [] s) = _
    rw [answerOk, answer, respond_eq, received_eq]
    rfl
  have line : a.line.state ≠ .closing := by
    rw [same]
    intro closing
    have admitted : s.line.state ∈ [LineState.setup, .stopped] := h.state
    rw [show s.line.state = .closing from closing] at admitted
    exact absurd admitted (by decide)
  have first := closed_lineClosed line
  have run : takeRequest .orderClose p [] (orderCloseBody p) s =
      takeInput .orderClose p (advanceClosing (closingCut (closed a))) := takeRequest_admitted (orderCloseBody p) h
  refine ⟨closed a, _, _, congrArg Host.Outcome.next run, rfl, ?_, ⟨a, same, first⟩, fun raised noticed => ?_⟩
  · rw [takeInput_eq]
  · obtain ⟨before, noticedFirst, has⟩ := first.noticed
    refine ⟨both before raised, answered_then_noticed h (noticed_both noticedFirst noticed),
      fun q => has_both_left (has q) raised, fun q n hn => ?_⟩
    rw [both_comm]
    exact has_both_left hn before

/-- CLOSING after the map and the samples are emptied, by what is left of the records, the store and the slot (R16). -/
structure DrainGoes (e z : State) : Prop where
  emptied : z.map.entries = [] ∧ z.shade.queue = []
  records : z.roll.records = e.roll.records
  waits : (∃ i, (e.record i).state ≠ .free) ∨ e.store.queue ≠ [] →
    z.line.state = .closing ∧ z.line.order = e.line.order ∧ z.store = e.store
  ends : (∀ i, (e.record i).state = .free) → e.store.queue = [] →
    (e.line.slot = none → z.line.state = .noOrder ∧ z.line.order = none ∧ z.line.run = none ∧ z.store = e.store) ∧
    (∀ n, e.line.slot = some n → (e.dir n).state = .degraded →
      z.line.state = .noOrder ∧ z.line.order = none ∧ z.line.slot = none ∧ z.store.queue = []) ∧
    ∀ n, e.line.slot = some n → (e.dir n).state ≠ .degraded →
      z.line.state = .closing ∧ z.store.queue = [.headerWrite n .closed] ∧ z.dir n = { e.dir n with state := .closed }

theorem advanceClosing_goes {e : State} (closing : e.line.state = .closing) :
    DrainGoes e (advanceClosing (enterDrain e)) := by
  have side := advanceClosing_side (enterDrain e)
  unfold ClosingSide at side
  refine ⟨?_, ?_, fun busy => ?_, fun free empty => ?_⟩
  · rw [side]
    exact ⟨rfl, rfl⟩
  · rw [side]
    rfl
  · rw [advanceClosing_waits (s := enterDrain e) busy]
    exact ⟨closing, rfl, rfl⟩
  · have drained : Drained (enterDrain e) := ⟨closing, rfl, (allFree_iff _).2 free, empty⟩
    refine ⟨fun slot => ?_, fun n slot degraded => ?_, fun n slot sound => ?_⟩
    · have slot : (enterDrain e).line.slot = none := slot
      have made : advanceClosing (enterDrain e) = enterNoOrder (enterDrain e) := by
        rw [advanceClosing_drained drained, slot]
      obtain ⟨-, store, line⟩ := enterNoOrder_closed (enterDrain e) (by rw [drained.closing]; decide)
      rw [made, line, store]
      exact ⟨rfl, rfl, rfl, rfl⟩
    · obtain ⟨-, queue, line⟩ := advanceClosing_degraded drained slot degraded
      rw [line, queue]
      exact ⟨rfl, rfl, rfl, rfl⟩
    · obtain ⟨-, queue, dir, line⟩ := advanceClosing_queues drained slot sound
      rw [line, queue, dir]
      exact ⟨closing, rfl, rfl⟩

/-- Settles O46: with a segment winding the closing cut ends it; with none the map and the samples are emptied and CLOSING
goes as far as the records and the store let it. -/
theorem orderCloses : Obligations.OrderCloses := by
  intro p s h
  obtain ⟨e, z, t, made, hz, ht, ⟨a, same, entered⟩, answer⟩ := orderClose_made h
  have blocks : ∃ H C R E K P, e = { s with
      line := { s.line with state := .closing, breakFlag := false, stagedTune := none, holds := H }
      capture := C, register := R, emboss := E, clock := K, ports := P } := by
    have := entered.rest
    rw [same] at this
    exact ⟨_, _, _, _, _, _, this⟩
  have started : CloseStarted e z := by
    rw [hz]
    cases plan : e.roll.plan with
    | none =>
      obtain ⟨drain, started⟩ := closeStarted_drain plan
      rw [drain]
      exact started
    | some q =>
      obtain ⟨_, _, _, started⟩ := closeStarted_cut plan
      exact started
  obtain ⟨raised, noticed, cutRaised⟩ := started.noticed
  obtain ⟨all, answered, line, also⟩ := answer raised noticed
  have closing : e.line.breakFlag = false ∧ e.line.stagedTune = none := by
    obtain ⟨_, _, _, _, _, _, rfl⟩ := blocks
    exact ⟨rfl, rfl⟩
  have kept : z.web = s.web ∧ z.recipe = s.recipe ∧ z.geometry = s.geometry ∧ z.nv = s.nv := by
    rw [started.rest]
    obtain ⟨_, _, _, _, _, _, rfl⟩ := blocks
    exact ⟨rfl, rfl, rfl, rfl⟩
  have side : z.capture = e.capture ∧ z.register = e.register ∧ z.emboss = e.emboss ∧ z.clock = e.clock := by
    rw [started.rest]
    exact ⟨rfl, rfl, rfl, rfl⟩
  obtain ⟨capture, register, emboss, clock⟩ := side
  have channel (ch : Channel) : t.channel ch = e.channel ch := by
    rw [State.channel, ht, State.channel, ← capture]
  have unit (k : Fin 7) : t.unit k = e.unit k := by rw [State.unit, ht, State.unit, ← register]
  have plans : e.roll.plan = s.roll.plan := by obtain ⟨_, _, _, _, _, _, rfl⟩ := blocks; rfl
  refine ⟨t, all, made, answered, line, ?_, ?_, ?_, ?_, ?_, ?_, ?_, fun ch => ?_, fun k => ?_, ?_, ?_, ?_, ?_, ?_, ?_,
    fun q hq => ?_, fun none => ?_⟩
  · rw [ht]; exact kept.1
  · rw [ht]; exact kept.2.1
  · rw [ht]; exact kept.2.2.1
  · rw [ht]; exact kept.2.2.2
  · rw [ht]; exact started.flag.trans closing.1
  · rw [ht]; exact started.tune.trans closing.2
  · rw [ht, ← entered.frame, ← capture]
  · rw [channel]; exact entered.channels ch
  · rw [unit]; exact entered.units k
  · rw [ht, ← entered.emboss.1, ← emboss]
  · rw [ht, ← entered.emboss.2.1, ← emboss]
  · rw [ht, ← entered.emboss.2.2, ← emboss]
  · rw [ht, ← entered.clock.1, ← clock]
  · have pulse : t.rpo = e.clock.rpoEnd.isSome := by rw [State.rpo, ht, ← clock]
    rw [pulse, entered.clock.2]
    rfl
  · rw [ht]; exact started.plan
  · obtain ⟨u, cut, cutMade, -⟩ := closeStarted_cut (plans.trans hq)
    rw [← hz] at cutMade
    have record (i : Fin 24) : t.record i = u.record i := by rw [State.record, ht, cutMade]; rfl
    have roll : t.roll = u.roll := by rw [ht, cutMade]
    have found : u.line.state = .closing ∧ u.line.order = s.line.order := by
      rw [cut.rest]
      obtain ⟨_, _, _, _, _, _, rfl⟩ := blocks
      exact ⟨rfl, rfl⟩
    have position : e.web = s.web ∧ e.geometry = s.geometry ∧ e.roll = s.roll := by
      obtain ⟨_, _, _, _, _, _, rfl⟩ := blocks
      exact ⟨rfl, rfl, rfl⟩
    obtain ⟨web, geometry, rolls⟩ := position
    obtain ⟨x, newest, only, number, state, ending, next, cause, place, strobe, confirm⟩ := cut.cut
    rw [web, geometry] at place
    rw [web] at strobe
    rw [rolls] at number
    refine ⟨?_, ?_, ?_, also _ _ (cutRaised (by rw [plans, hq]; exact Option.some_ne_none q)), ?_,
      ⟨x, ?_, number, state, ending, next, cause, place, strobe, confirm⟩, fun i hi => ?_⟩
    · rw [ht, cutMade]; exact found.1
    · rw [ht, cutMade]; exact found.2
    · rw [State.cutStrobe, roll]; exact cut.strobe
    · refine congrArg Host.Outcome.next (confirmTimeout_closing ?_ confirm)
      rw [roll]
      exact only
    · rw [roll]; exact newest
    · rw [record, ← web, ← geometry]
      exact cut.record i hi
  · have drained : z = advanceClosing (enterDrain e) := by
      rw [hz, (closeStarted_drain (plans.trans none)).1]
    have closing : e.line.state = .closing := by obtain ⟨_, _, _, _, _, _, rfl⟩ := blocks; rfl
    have goes := advanceClosing_goes closing
    rw [← drained] at goes
    have left : t.line = z.line ∧ t.store = z.store := by rw [ht]; exact ⟨rfl, rfl⟩
    have dir (n : Fin 4) : t.dir n = z.dir n := by rw [State.dir, left.2]; rfl
    rw [left.1, left.2]
    simp only [dir]
    obtain ⟨_, _, _, _, _, _, rfl⟩ := blocks
    refine ⟨?_, ?_, ?_, goes.waits, goes.ends⟩
    · rw [ht]; exact goes.emptied.1
    · rw [ht]; exact goes.emptied.2
    · rw [ht]; exact goes.records

end Sys2Proof.Closing

/-! ## Mark capture (R36 to R50) -/

namespace Sys2Proof.Marking

open Sys2Proof.Machine Sys2Proof.Safety Sys2Proof.Starting Sys2Proof.Porting Sys2Proof.Answering

/-! ### Channel records -/

@[simp] theorem channel_putChannel_same (ch : Channel) (c : ChannelRecord) (s : State) :
    (putChannel ch c s).channel ch = c := by
  cases ch with
  | unit k => exact (table_get_set s.capture.units k k c).trans (if_pos rfl)
  | mk0 | mke | idx | mkw => rfl

theorem channel_putChannel_other {ch d : Channel} (h : d ≠ ch) (c : ChannelRecord) (s : State) :
    (putChannel ch c s).channel d = s.channel d := by
  cases ch with
  | unit k =>
    cases d with
    | unit j =>
      have rows : k ≠ j := fun e => h (congrArg Channel.unit e.symm)
      exact (table_get_set s.capture.units k j c).trans (if_neg rows)
    | mk0 | mke | idx | mkw => rfl
  | mk0 =>
    cases d with
    | mk0 => exact absurd rfl h
    | unit | mke | idx | mkw => rfl
  | mke =>
    cases d with
    | mke => exact absurd rfl h
    | mk0 | unit | idx | mkw => rfl
  | idx =>
    cases d with
    | idx => exact absurd rfl h
    | mk0 | unit | mke | mkw => rfl
  | mkw =>
    cases d with
    | mkw => exact absurd rfl h
    | mk0 | unit | mke | idx => rfl

theorem putChannel_frame (ch : Channel) (c : ChannelRecord) (s : State) :
    (putChannel ch c s).capture.frame = s.capture.frame := by
  cases ch <;> rfl

/-- A window accepts an edge within its bounds that is not at the position last accepted (R39). -/
theorem accepts_iff {w v x : Int} {c : ChannelRecord} (centre : c.centre = some x) :
    c.accepts w v = true ↔ c.window ≠ .closed ∧ x - v ≤ w ∧ w ≤ x + v ∧ c.lastAccepted ≠ some w := by
  unfold ChannelRecord.accepts
  cases hw : c.window <;> simp [centre]

theorem accepts_closed {w v : Int} {c : ChannelRecord} (h : c.window = .closed) : c.accepts w v = false := by
  unfold ChannelRecord.accepts
  rw [h]

theorem accepts_again {w v : Int} {c : ChannelRecord} (h : c.lastAccepted = some w) : c.accepts w v = false := by
  unfold ChannelRecord.accepts
  split <;> simp [h]

theorem stray_eq (c : ChannelRecord) : c.stray = { c with strays := min 65535 (c.strays + 1) } := by
  rw [ChannelRecord.stray, bump_max16]

/-! ### Edges (R38, R46) -/

theorem takesEdge_iff (ch : Channel) (falling : Bool) (s : State) :
    takesEdge ch falling s = true ↔
      (s.channel ch).enabled = true ∧ s.web.debt = 0 ∧ s.geometry.polarity.getLsbD ch.bit = falling := by
  simp only [takesEdge, Bool.and_eq_true, decide_eq_true_eq, beq_iff_eq]
  exact and_assoc

theorem markEdge_taken {ch : Channel} {falling : Bool} {s : State} (enabled : (s.channel ch).enabled = true)
    (debt : s.web.debt = 0) (polarity : s.geometry.polarity.getLsbD ch.bit = falling) :
    exec (.markEdge ch falling) s = .next (takeEdge ch s) :=
  congrArg Host.Outcome.next (if_pos ((takesEdge_iff ch falling s).2 ⟨enabled, debt, polarity⟩))

theorem pend_eq (w : Pos) (c : ChannelRecord) :
    c.pend w = if c.edges.length < 4 then { c with edges := c.edges ++ [w] }
      else { c with edges := c.edges.tail ++ [w], strays := min 65535 (c.strays + 1) } := by
  unfold ChannelRecord.pend
  by_cases room : c.edges.length < 4
  · rw [if_neg (by omega), if_pos room]
  · rw [if_pos (by omega), if_neg room, stray_eq, List.drop_one]

/-- Settles O9: an edge on a unit channel by the frame and the window it finds. -/
theorem unitEdges : Obligations.UnitEdges := by
  refine ⟨fun ch falling s ignored => congrArg Host.Outcome.next (if_neg fun taken => ?_),
    fun k falling s enabled debt polarity => ?_⟩
  · obtain ⟨enabled, debt, polarity⟩ := (takesEdge_iff ch falling s).1 taken
    rcases ignored with disabled | owed | other
    · exact absurd (enabled.symm.trans disabled) (by decide)
    · omega
    · exact other polarity
  · have taken := markEdge_taken (ch := .unit k) enabled debt polarity
    have rest (c : ChannelRecord) (ch : Channel) (h : ch ≠ .unit k) := channel_putChannel_other h c s
    cases frame : s.capture.frame with
    | none =>
      have made : takeEdge (.unit k) s = putChannel (.unit k) ((s.channel (.unit k)).pend s.web.w) s :=
        if_pos (by rw [frame]; rfl)
      rw [made] at taken
      refine ⟨_, taken, rfl, rest _, fun _ => ⟨(putChannel_frame ..).trans frame, ?_⟩, fun f x h => (nomatch h),
        fun f h => (nomatch h)⟩
      rw [channel_putChannel_same, pend_eq]
    | some f =>
      cases accepts : (s.channel (.unit k)).accepts s.web.w s.recipe.window with
      | true =>
        have made : takeEdge (.unit k) s = acceptUnit k s.web.w (s.channel (.unit k)) s := by
          show unitEdge k s = _
          rw [unitEdge, frame]
          exact if_pos accepts
        rw [made] at taken
        refine ⟨_, taken, rfl, rest _, fun h => (nomatch h), fun g x hg _ _ _ _ _ => ?_, fun g _ outside => ?_⟩
        · obtain rfl := Option.some.inj hg
          refine ⟨?_, channel_putChannel_same (.unit k) _ s⟩
          show s.capture.frame.map _ = _
          rw [frame]
          rfl
        · rcases outside with closed | ⟨x, centre, beyond⟩ | again
          · exact absurd (accepts.symm.trans (accepts_closed closed)) (by decide)
          · obtain ⟨_, lower, upper, _⟩ := (accepts_iff centre).1 accepts
            exact absurd beyond (not_or.2 ⟨not_lt.2 lower, not_lt.2 upper⟩)
          · exact absurd (accepts.symm.trans (accepts_again again)) (by decide)
      | false =>
        have made : takeEdge (.unit k) s = putChannel (.unit k) (s.channel (.unit k)).stray s := by
          show unitEdge k s = _
          rw [unitEdge, frame]
          exact if_neg (ne_true_of_eq_false accepts)
        rw [made] at taken
        refine ⟨_, taken, rfl, rest _, fun h => (nomatch h), fun g x _ window centre lower upper last => ?_, fun g hg _ => ?_⟩
        · have inside := (accepts_iff centre).2 ⟨window, lower, upper, last⟩
          exact absurd (inside.symm.trans accepts) (by decide)
        · rw [channel_putChannel_same, stray_eq]
          exact ⟨((putChannel_frame ..).trans frame).trans hg, rfl⟩

/-! ### Phased channels (R49, R50) -/

/-- The least centre at or beyond a starting limit lies the path distance and whole repeats from k0 (R49). -/
theorem leastCentre_spec {r : Recipe} (positive : 0 < r.repeatLength) (distance : Nat) (k0 limit : Pos) :
    (leastCentre r distance k0 limit - distance - k0) % r.repeatLength = 0 ∧ limit ≤ leastCentre r distance k0 limit ∧
      leastCentre r distance k0 limit < limit + r.repeatLength := by
  have low := Int.emod_nonneg ((distance : Int) + k0 - limit) (ne_of_gt positive)
  have high := Int.emod_lt_of_pos ((distance : Int) + k0 - limit) positive
  refine ⟨?_, ?_, ?_⟩
  · have whole := Int.emod_add_mul_ediv ((distance : Int) + k0 - limit) r.repeatLength
    have shape : leastCentre r distance k0 limit - distance - k0 =
        -(r.repeatLength * (((distance : Int) + k0 - limit) / r.repeatLength)) := by
      show limit + ((distance : Int) + k0 - limit) % r.repeatLength - distance - k0 = _
      linarith
    rw [shape]
    exact Int.emod_eq_zero_of_dvd (Dvd.dvd.neg_right (Dvd.intro _ rfl))
  · exact le_add_of_nonneg_right low
  · exact add_lt_add_right high limit

theorem armPhased_eq {ch : Channel} {limit k0 : Pos} {s : State} (h : s.clock.k0 = some k0) :
    armPhased ch limit s = putChannel ch
      { (s.channel ch).arm s.web.w s.recipe.window (leastCentre s.recipe (pathDistance s.geometry ch) k0 limit) with
        limit := limit } s := by
  rw [armPhased, h]

theorem putChannel_twice (ch : Channel) (c d : ChannelRecord) (s : State) :
    putChannel ch c (putChannel ch d s) = putChannel ch c s := by
  cases ch with
  | unit k =>
    simp only [putChannel, Capture.set]
    rw [show (s.capture.units.set k d).set k c = s.capture.units.set k c from table_ext _ _ fun i => by
      simp only [table_get_set]
      split <;> rfl]
  | mk0 | mke | idx | mkw => rfl

/-- A phased channel that accepts an edge inside its window (R49, R50). -/
theorem phasedEdge_accepted {ch : Channel} {hand : State → State} {s : State} {k0 x : Pos} (key : s.clock.k0 = some k0)
    (centre : (s.channel ch).centre = some x) (positive : 0 < s.recipe.repeatLength)
    (accepts : (s.channel ch).accepts s.web.w s.recipe.window = true) :
    ∃ (y : Pos) (c : ChannelRecord), phasedEdge ch hand s = hand (putChannel ch c s) ∧
      c.lastAccepted = some (s.web.w : Int) ∧ c.run = 0 ∧ c.centre = some y ∧
      (y - pathDistance s.geometry ch - k0) % s.recipe.repeatLength = 0 ∧
      x + s.recipe.repeatLength / 2 < y ∧ y ≤ x + s.recipe.repeatLength / 2 + s.recipe.repeatLength := by
  have made : phasedEdge ch hand s =
      hand (phasedNext ch x (putChannel ch ((s.channel ch).accept s.web.w) s)) := by
    rw [phasedEdge, if_pos accepts, acceptPhased, centre]
    rfl
  obtain ⟨whole, low, high⟩ := leastCentre_spec positive (pathDistance s.geometry ch) k0 (x + s.recipe.half + 1)
  rw [made, phasedNext, armPhased_eq (by exact key), putChannel_twice, channel_putChannel_same]
  refine ⟨_, _, rfl, rfl, rfl, rfl, whole, ?_, ?_⟩
  · exact lt_of_lt_of_le (Int.lt_succ _) low
  · refine Int.lt_add_one_iff.1 (lt_of_lt_of_le high (le_of_eq ?_))
    show x + s.recipe.repeatLength / 2 + 1 + s.recipe.repeatLength = _
    ring

theorem phasedEdge_stray {ch : Channel} {hand : State → State} {s : State} {x : Pos}
    (centre : (s.channel ch).centre = some x)
    (outside : (s.web.w : Int) < x - s.recipe.window ∨ x + s.recipe.window < s.web.w) :
    phasedEdge ch hand s = putChannel ch
      { s.channel ch with strays := min 65535 ((s.channel ch).strays + 1) } s := by
  rw [← stray_eq]
  refine if_neg fun accepts => ?_
  obtain ⟨-, lower, upper, -⟩ := (accepts_iff centre).1 accepts
  exact outside.elim (not_lt.2 lower) (not_lt.2 upper)

/-- Settles O11: MKW hands its capture to the roll former and MKE to the emboss tracker. -/
theorem winderEdge : Obligations.WinderEdge := by
  refine ⟨fun falling s k0 x enabled debt polarity key window centre positive => ⟨fun lower upper last => ?_, fun outside => ?_⟩,
    fun falling s k0 x enabled debt polarity key window centre positive => ⟨fun lower upper last => ?_, fun outside => ?_⟩⟩
  · have taken := markEdge_taken (ch := .mkw) enabled debt polarity
    obtain ⟨y, c, made, accepted, run, place, whole, low, high⟩ := phasedEdge_accepted (ch := .mkw)
      (hand := takeTransport s.web.w) key centre positive ((accepts_iff centre).2 ⟨window, lower, upper, last⟩)
    rw [show takeEdge .mkw s = _ from made] at taken
    have handed : takeTransport s.web.w (putChannel .mkw c s) = { putChannel .mkw c s with roll := { s.roll with
        transport := lastN 4 (s.roll.transport ++ [reduceMod s.recipe.repeatLength (s.web.w - s.geometry.dW - k0)]) } } := by
      rw [takeTransport, show (putChannel .mkw c s).clock.k0 = some k0 from key]
      rfl
    rw [handed] at taken
    refine ⟨_, y, taken, ?_, accepted, run, place, whole, low, high, rfl⟩
    show ({ s.roll with transport := lastN 4 _ } : RollFormer) = _
    rw [lastN, List.length_append]
    rfl
  · rw [markEdge_taken (ch := .mkw) enabled debt polarity]
    exact congrArg Host.Outcome.next (phasedEdge_stray (ch := .mkw) centre outside)
  · have taken := markEdge_taken (ch := .mke) enabled debt polarity
    obtain ⟨y, c, made, accepted, run, place, whole, low, high⟩ := phasedEdge_accepted (ch := .mke)
      (hand := holdMke s.web.w) key centre positive ((accepts_iff centre).2 ⟨window, lower, upper, last⟩)
    rw [show takeEdge .mke s = _ from made] at taken
    exact ⟨_, y, taken, accepted, run, place, whole, low, high, rfl⟩
  · rw [markEdge_taken (ch := .mke) enabled debt polarity]
    exact congrArg Host.Outcome.next (phasedEdge_stray (ch := .mke) centre outside)

end Sys2Proof.Marking

/-! ## Returns to SEEK (R41, R43, R44, R71, R81) and windows that end -/

namespace Sys2Proof.Returning

open Sys2Proof.Machine Sys2Proof.Safety Sys2Proof.Starting Sys2Proof.Porting Sys2Proof.Answering Sys2Proof.Marking

/-! ### The key is lost (R43, R71) -/

theorem reacquire_state (c : RegisterChannel) : (reacquire c).2.changed = true ↔ (reacquire c).1.state ≠ c.state := by
  unfold reacquire
  cases h : c.state <;> simp [enterState, RegisterChannel.restart, h, ChannelEvents.none]

/-- What a return of MK0 to SEEK leaves (R43, R49, R71). -/
structure KeyLost (s t : State) : Prop where
  rest : t = { s with
    clock := { s.clock with k0 := none }
    capture := { s.capture with mke := s.capture.mke.shut, mkw := s.capture.mkw.shut }
    register := { s.register with units := t.register.units }
    map := openSpan .register s.web.w .unverified s.map, ports := t.ports }
  unit : ∀ k, t.unit k = (reacquire (s.unit k)).1
  noticed : Noticed (onIf (decide (∃ k, (t.unit k).state ≠ (s.unit k).state)) .press .register) s t

theorem keyReturned_lost (s : State) : KeyLost s (keyReturned s) := by
  let s0 : State := { s with clock := { s.clock with k0 := none } }
  have rest := eachUnit_eq (fun _ c => reacquire c) s0
  have unit (k : Fin 7) := eachUnit_unit (fun _ c => reacquire c) s0 k
  have noticed := eachUnit_noticed (fun _ c => reacquire c) s0
  unfold keyReturned
  generalize eachUnit (fun _ c => reacquire c) s0 = u at rest unit noticed
  have silent (k : Fin 7) : (reacquire (s0.unit k)).2.posted = false ∧ (reacquire (s0.unit k)).2.timedOut = false :=
    reacquire_posted _
  have posted : decide (∃ k, (reacquire (s0.unit k)).2.posted = true) = false :=
    decide_eq_false fun ⟨k, hk⟩ => by rw [(silent k).1] at hk; exact absurd hk (by decide)
  have changed : (∃ k, ((reacquire (s0.unit k)).2.changed || (reacquire (s0.unit k)).2.timedOut) = true) ↔
      ∃ k, (u.unit k).state ≠ (s.unit k).state := by
    refine exists_congr fun k => ?_
    rw [unit, (silent k).2, Bool.or_false]
    exact reacquire_state _
  rw [posted, decide_eq_decide.2 changed] at noticed
  have only : Noticed (onIf (decide (∃ k, (u.unit k).state ≠ (s.unit k).state)) .press .register) s u := by
    have silent : onIf false .press .trim = quiet := rfl
    rw [silent, quiet_both] at noticed
    exact noticed
  have eq : ∃ U P, u = { s0 with register := { s0.register with units := U }, ports := P } := ⟨_, _, rest⟩
  refine ⟨?_, unit, only⟩
  clear * - eq
  obtain ⟨_, _, rfl⟩ := eq
  rfl

/-! ### The emboss index is lost (R81, R87, R89, R92) -/

theorem judgesEmboss_iff (s : State) : judgesEmboss s = true ↔
    s.recipe.embossEnableField = 1 ∧ (s.line.state = .run ∨ s.line.state = .stopped) := by
  simp only [judgesEmboss, Bool.and_eq_true, Bool.or_eq_true, beq_iff_eq, embossEnabled_iff]

theorem embossFaultOf_eq (n : Nip) : embossFaultOf n = if embossFault n then some (embossDetail n) else none := by
  unfold embossFaultOf embossFault embossDetail
  by_cases closed : n.state = .closed
  · by_cases within : n.verdict = .within <;> simp [closed, within]
  · simp [closed]

/-- The tracker's judgment (R92). -/
theorem judgeEmboss_judged (s : State) : EmbossJudged s (judgeEmboss s) := by
  refine ⟨fun enabled state => ?_, fun rests => ?_⟩
  · have judges := (judgesEmboss_iff s).2 ⟨enabled, state⟩
    have judged := spanJudged .emboss (embossEntry s) (embossFaultOf s.emboss.nip) s.map (.inr rfl)
    have made : (judgeEmboss s).map = if embossFault s.emboss.nip then
        openSpan .emboss (embossEntry s) (embossDetail s.emboss.nip) (releaseKind .emboss (embossEntry s) s.map)
        else closeSpan .emboss (embossEntry s) (releaseKind .emboss (embossEntry s) s.map) := by
      rw [judgeEmboss, judges]
      rfl
    have nip : (judgeEmboss s).emboss.nip = s.emboss.nip := by rw [judgeEmboss_eq]
    rw [made, nip]
    rw [embossFaultOf_eq] at judged ⊢
    cases fault : embossFault s.emboss.nip with
    | true =>
      rw [fault] at judged
      exact judged
    | false =>
      rw [fault] at judged
      exact judged
  · have idle : judgesEmboss s ≠ true := fun judges => by
      obtain ⟨enabled, state⟩ := (judgesEmboss_iff s).1 judges
      rcases rests with off | ⟨notRun, notStopped⟩
      · exact off enabled
      · exact state.elim notRun notStopped
    rw [judgeEmboss, if_neg idle]

/-- The judged map depends on the map, the nip, the web position and what the tracker judges by. -/
theorem judgeEmboss_map (s : State) : (judgeEmboss s).map =
    if judgesEmboss s then
      if embossFault s.emboss.nip then
        openSpan .emboss (embossEntry s) (embossDetail s.emboss.nip) (releaseKind .emboss (embossEntry s) s.map)
      else closeSpan .emboss (embossEntry s) (releaseKind .emboss (embossEntry s) s.map)
    else s.map := by
  by_cases active : judgesEmboss s = true
  · simp only [judgeEmboss, active, if_true]
  · simp only [judgeEmboss, active, Bool.false_eq_true, if_false]

/-- What a lost emboss index makes of the nip (R86, R87, R89). -/
def lostNip (acquired : Bool) (n : Nip) : Nip :=
  let m : Nip := if acquired then { n with closeRun := 0 } else n
  match n.state with
  | .ready => { m with state := .opened }
  | .closed => if acquired then { m with state := .opening, orderReason := some .acquire, openCause := none } else m
  | .opened | .opening | .parked => m

theorem lostNip_return (acquired : Bool) (n : Nip) : NipReturn (acquired = true) n (lostNip acquired n) := by
  obtain ⟨state, run, verdict, tolerance, cause, reason, opened⟩ := n
  refine ⟨⟨fun h => ?_, fun h => ?_⟩, fun h => ?_, fun h a => ?_, fun h a => ?_, fun h => ?_⟩
  · subst h
    cases state <;> rfl
  · obtain rfl := Bool.not_eq_true _ ▸ h
    cases state <;> rfl
  · obtain rfl : state = .ready := h
    cases acquired <;> rfl
  · obtain rfl : state = .closed := h
    subst a
    rfl
  · obtain rfl : state = .closed := h
    obtain rfl := Bool.not_eq_true _ ▸ a
    rfl
  · rcases h with h | h | h <;> (obtain rfl : state = _ := h) <;> cases acquired <;> rfl

/-- The nip between the channel's return to ACQUIRE and the judgment. -/
def nipLost (acquired : Bool) (s : State) : State := withdrawPermit (if acquired then embossAcquired s else s)

theorem enterNip_noticed (st : NipState) (s : State) :
    Noticed (onIf (decide (s.emboss.nip.state ≠ st)) .emboss .nip) s (enterNip st s) := by
  unfold enterNip
  by_cases same : s.emboss.nip.state = st
  · rw [if_pos same, decide_eq_false (not_not_intro same)]
    exact noticed_refl s s rfl
  · rw [if_neg same, decide_eq_true same]
    exact fun q => raise_noticed .emboss .nip (modifyNip (fun n => { n with state := st }) s) q

/-- The nip takes the value that the loss gives it, and a change of its state raises NIP. -/
theorem nipLost_eq (acquired : Bool) {s : State} (h : s.emboss.channel.state ≠ .locked) :
    nipLost acquired s =
      if (lostNip acquired s.emboss.nip).state = s.emboss.nip.state then
        modifyNip (fun _ => lostNip acquired s.emboss.nip) s
      else (modifyNip (fun _ => lostNip acquired s.emboss.nip) s).raise .emboss .nip := by
  cases state : s.emboss.nip.state <;> cases acquired <;>
    simp [nipLost, embossAcquired, orderNipOpen, withdrawPermit, enterNip, modifyNip, lostNip, state, h]

theorem nipLost_rest (acquired : Bool) {s : State} (h : s.emboss.channel.state ≠ .locked) :
    ∃ P, nipLost acquired s = { s with
      emboss := { s.emboss with nip := lostNip acquired s.emboss.nip }, ports := P } := by
  rw [nipLost_eq acquired h]
  split
  · exact ⟨_, rfl⟩
  · exact ⟨_, rfl⟩

theorem nipLost_noticed (acquired : Bool) {s : State} (h : s.emboss.channel.state ≠ .locked) :
    Noticed (onIf (decide ((lostNip acquired s.emboss.nip).state ≠ s.emboss.nip.state)) .emboss .nip) s
      (nipLost acquired s) := by
  rw [nipLost_eq acquired h]
  by_cases same : (lostNip acquired s.emboss.nip).state = s.emboss.nip.state
  · rw [if_pos same, decide_eq_false (not_not_intro same)]
    exact noticed_refl _ _ rfl
  · rw [if_neg same, decide_eq_true same]
    exact fun q => raise_noticed .emboss .nip (modifyNip (fun _ => lostNip acquired s.emboss.nip) s) q

theorem reacquire_acquired (c : RegisterChannel) :
    (reacquire c).2.acquired = true ↔ c.state ≠ .off ∧ c.state ≠ .acquire := by
  unfold reacquire
  cases h : c.state <;> simp [enterState, RegisterChannel.restart, h, ChannelEvents.none]

theorem reacquire_notLocked (c : RegisterChannel) : (reacquire c).1.state ≠ .locked := by
  rw [reacquire_fst]
  cases h : c.state <;> simp [h]

/-- What a return of IDX to SEEK leaves (R81, R87, R89, R92). -/
structure IndexLost (s t : State) : Prop where
  rest : t = { s with
    emboss := { s.emboss with
      channel := (reacquire s.emboss.channel).1
      nip := lostNip (reacquire s.emboss.channel).2.acquired s.emboss.nip }
    map := t.map, ports := t.ports }
  judged : t.emboss.nip.state ≠ s.emboss.nip.state → EmbossJudged s t
  map : t.emboss.nip.state ≠ s.emboss.nip.state → t.map = (judgeEmboss { s with emboss := t.emboss }).map
  kept : t.emboss.nip.state = s.emboss.nip.state → t.map = s.map
  noticed : Noticed (both
    (onIf (decide (t.emboss.channel.state ≠ s.emboss.channel.state)) .emboss .emb)
    (onIf (decide (t.emboss.nip.state ≠ s.emboss.nip.state)) .emboss .nip)) s t

theorem idxReturned_lost (s : State) : IndexLost s (idxReturned s) := by
  have first := putEmboss_eq (reacquire s.emboss.channel) s
  have noticedFirst := putEmboss_noticed (reacquire s.emboss.channel) s
  obtain ⟨posted, timedOut⟩ := reacquire_posted s.emboss.channel
  rw [posted, timedOut, Bool.or_false, Bool.false_or] at noticedFirst
  have changed := reacquire_state s.emboss.channel
  have unlocked := reacquire_notLocked s.emboss.channel
  have made : idxReturned s = judgeChange s.emboss.nip.state
      (nipLost (reacquire s.emboss.channel).2.acquired (putEmboss (reacquire s.emboss.channel) s)) := rfl
  rw [made]
  generalize hx : reacquire s.emboss.channel = x at first noticedFirst changed unlocked ⊢
  generalize putEmboss x s = u at first noticedFirst
  have nip : u.emboss.nip = s.emboss.nip := by rw [first]
  have channel : u.emboss.channel = x.1 := by rw [first]
  obtain ⟨P, lost⟩ := nipLost_rest x.2.acquired (s := u) (by rw [channel]; exact unlocked)
  have noticedLost := nipLost_noticed x.2.acquired (s := u) (by rw [channel]; exact unlocked)
  generalize nipLost x.2.acquired u = v at lost noticedLost
  rw [nip] at lost noticedLost
  have vNip : v.emboss.nip = lostNip x.2.acquired s.emboss.nip := by rw [lost]
  have vChannel : v.emboss.channel = x.1 := by rw [lost]; exact channel
  have judge := judgeChange_eq s.emboss.nip.state v
  have base : ∃ P', v = { s with
      emboss := { s.emboss with channel := x.1, nip := lostNip x.2.acquired s.emboss.nip }, ports := P' } := by
    rw [lost, first]
    exact ⟨_, rfl⟩
  have emb : x.2.changed = decide (x.1.state ≠ s.emboss.channel.state) := by
    rw [Bool.eq_iff_iff, changed, decide_eq_true_eq]
  rw [emb] at noticedFirst
  have noticed := noticed_both noticedFirst noticedLost
  have emboss : (judgeChange s.emboss.nip.state v).emboss = v.emboss := by rw [judge]
  refine ⟨?_, fun moved => ?_, fun moved => ?_, fun still => ?_, ?_⟩
  · have judge : ∃ M, judgeChange s.emboss.nip.state v = { v with map := M } := ⟨_, judge⟩
    generalize judgeChange s.emboss.nip.state v = z at judge
    clear * - base judge hx
    subst hx
    obtain ⟨_, rfl⟩ := judge
    obtain ⟨_, rfl⟩ := base
    rfl
  · rw [emboss] at moved
    rw [judgeChange, if_neg moved]
    have judged := judgeEmboss_judged v
    generalize judgeEmboss v = z at judged
    clear * - base judged
    obtain ⟨_, rfl⟩ := base
    exact ⟨judged.judges, judged.rests⟩
  · rw [emboss] at moved ⊢
    rw [judgeChange, if_neg moved, judgeEmboss_map, judgeEmboss_map]
    obtain ⟨_, base⟩ := base
    rw [base]
    rfl
  · rw [emboss] at still
    rw [judgeChange, if_pos still]
    obtain ⟨_, base⟩ := base
    rw [base]
  · rw [emboss, vNip, vChannel]
    exact fun q => (congrArg (fun P : Ports => P.get q) (congrArg State.ports judge)).trans (noticed q)

/-! ### Windows that open and end (R39, R41, R46, R50) -/

theorem windowOpenDue_iff {ch : Channel} {s : State} {x : Pos} (enabled : (s.channel ch).enabled = true)
    (armed : (s.channel ch).window = .armed) (centre : (s.channel ch).centre = some x) :
    windowOpenDue ch s = true ↔
      x - halfWidth s.recipe ch ≤ s.web.w ∧ (s.channel ch).lastAccepted ≠ some (s.web.w : Int) := by
  simp [windowOpenDue, enabled, armed, centre]

theorem windowEndDue_iff {ch : Channel} {s : State} {x : Pos} (enabled : (s.channel ch).enabled = true)
    (window : (s.channel ch).window ≠ .closed) (centre : (s.channel ch).centre = some x) :
    windowEndDue ch s = true ↔ x + halfWidth s.recipe ch + 1 ≤ s.web.w := by
  cases hw : (s.channel ch).window with
  | closed => exact absurd hw window
  | armed => simp [windowEndDue, enabled, hw, centre]
  | opened => simp [windowEndDue, enabled, hw, centre]

theorem miss_eq (c : ChannelRecord) :
    c.miss = { c with misses := min 65535 (c.misses + 1), run := min 65535 (c.run + 1) } := by
  rw [ChannelRecord.miss, bump_max16, bump_max16]

/-- A phased channel whose window ends counts a miss and arms the next, or none while k0 is undefined (R49, R50). -/
theorem phasedNext_missed (ch : Channel) (x : Pos) (s : State) :
    ∃ c, phasedNext ch x (putChannel ch (s.channel ch).miss s) = putChannel ch c s ∧
      c.misses = min 65535 ((s.channel ch).misses + 1) ∧ c.run = min 65535 ((s.channel ch).run + 1) := by
  rw [miss_eq, phasedNext]
  cases key : s.clock.k0 with
  | none =>
    rw [armPhased, show (putChannel ch _ s).clock.k0 = none from key]
    dsimp only
    rw [putChannel_twice, channel_putChannel_same]
    exact ⟨_, rfl, rfl, rfl⟩
  | some k0 =>
    rw [armPhased_eq (by exact key), putChannel_twice, channel_putChannel_same]
    exact ⟨_, rfl, rfl, rfl⟩

/-- A key-type channel on its first three misses in a row coasts to the next window (R41). -/
theorem missKey_coasts {ch : Channel} {x : Pos} {s : State} (h : (s.channel ch).run < 3) :
    ∃ c, missKey ch x s = putChannel ch c s ∧ c.state = .coast ∧ c.centre = some (x + keyStep s.recipe ch) ∧
      c.misses = min 65535 ((s.channel ch).misses + 1) ∧ c.run = (s.channel ch).run + 1 := by
  have run : (s.channel ch).miss.run = (s.channel ch).run + 1 := by
    rw [miss_eq]
    exact min_eq_right (by omega)
  refine ⟨_, if_neg (by rw [run]; omega), rfl, rfl, ?_, run⟩
  show (s.channel ch).miss.misses = _
  rw [miss_eq]

/-- On the fourth it returns to SEEK (R41). -/
theorem missKey_returns {ch : Channel} {x : Pos} {s : State} (h : 3 ≤ (s.channel ch).run) :
    missKey ch x s = returned ch (putChannel ch (s.channel ch).miss.seek s) := by
  refine if_pos ?_
  rw [miss_eq]
  exact le_min (by decide) (by omega)

theorem openWindow_opens {ch : Channel} {s : State} {x : Pos} (enabled : (s.channel ch).enabled = true)
    (armed : (s.channel ch).window = .armed) (centre : (s.channel ch).centre = some x)
    (reached : x - halfWidth s.recipe ch ≤ s.web.w) (last : (s.channel ch).lastAccepted ≠ some (s.web.w : Int)) :
    ∃ t, exec (.windowOpen ch) s = .next t ∧ t = { s with capture := t.capture } ∧
      t.capture.frame = s.capture.frame ∧ t.channel ch = { s.channel ch with window := .opened } ∧
      ∀ c, c ≠ ch → t.channel c = s.channel c :=
  ⟨_, congrArg Host.Outcome.next (if_pos ((windowOpenDue_iff enabled armed centre).2 ⟨reached, last⟩)), rfl,
    putChannel_frame .., channel_putChannel_same .., fun _ h => channel_putChannel_other h ..⟩

theorem reacquire_off {c : RegisterChannel} (h : c.state = .off) : (reacquire c).1 = c := by
  rw [reacquire_fst, h]

/-- A channel that is not OFF is in ACQUIRE after a loss, its trims kept (R71, R81). -/
theorem reacquire_acquires {c : RegisterChannel} (h : c.state ≠ .off) :
    (reacquire c).1.state = .acquire ∧ (reacquire c).1.samples = [] ∧ (reacquire c).1.lockCount = 0 ∧
      (reacquire c).1.sinceEvaluation = 0 ∧ (reacquire c).1.trim = c.trim ∧
      (reacquire c).1.outstanding = c.outstanding := by
  rw [reacquire_fst]
  cases hs : c.state with
  | off => exact absurd hs h
  | acquire | locked | hold | limit => exact ⟨rfl, rfl, rfl, rfl, rfl, rfl⟩

/-- What the return of MK0 leaves after its fourth miss in a row (R41, R43, R49, R71). -/
structure KeySought (s t : State) : Prop where
  channel : (t.channel .mk0).state = .seek ∧ (t.channel .mk0).window = .closed ∧
    (t.channel .mk0).misses = min 65535 ((s.channel .mk0).misses + 1)
  phased : (t.channel .mke).window = .closed ∧ (t.channel .mkw).window = .closed
  unit : ∀ k, t.unit k = (reacquire (s.unit k)).1
  span : SpanOpened .register s.web.w .unverified s.map t.map
  noticed : Noticed (onIf (decide (∃ k, (t.unit k).state ≠ (s.unit k).state)) .press .register) s t
  others : ∀ c, c ≠ .mk0 → c ≠ .mke → c ≠ .mkw → t.channel c = s.channel c
  rest : t = { s with
    clock := { s.clock with k0 := none }, capture := { t.capture with frame := s.capture.frame }
    register := { s.register with units := t.register.units }, map := t.map, ports := t.ports }

theorem missKey_key {x : Pos} {s : State} (h : 3 ≤ (s.channel .mk0).run) : KeySought s (missKey .mk0 x s) := by
  have made : missKey .mk0 x s = keyReturned (putChannel .mk0 (s.channel .mk0).miss.seek s) := missKey_returns h
  have lost := keyReturned_lost (putChannel .mk0 (s.channel .mk0).miss.seek s)
  rw [made]
  generalize keyReturned (putChannel .mk0 (s.channel .mk0).miss.seek s) = t at lost
  have capture : t.capture = { s.capture with
      mk0 := (s.channel .mk0).miss.seek, mke := s.capture.mke.shut, mkw := s.capture.mkw.shut } := by
    rw [lost.rest]
    rfl
  have map : t.map = openSpan .register s.web.w .unverified s.map := by
    rw [lost.rest]
    rfl
  have mk0 : t.channel .mk0 = (s.channel .mk0).miss.seek := congrArg Capture.mk0 capture
  refine ⟨?_, ⟨?_, ?_⟩, lost.unit, ?_, lost.noticed, fun c h1 h2 h3 => ?_, ?_⟩
  · rw [mk0, miss_eq]
    exact ⟨rfl, rfl, rfl⟩
  · exact congrArg (fun x : Capture => x.mke.window) capture
  · exact congrArg (fun x : Capture => x.mkw.window) capture
  · rw [map]
    exact openSpan_opened .register s.web.w .unverified s.map (by decide)
  · rw [State.channel, capture]
    cases c with
    | unit | idx => rfl
    | mk0 => exact absurd rfl h1
    | mke => exact absurd rfl h2
    | mkw => exact absurd rfl h3
  · have eq : ∃ U P, t = { putChannel .mk0 (s.channel .mk0).miss.seek s with
        clock := { s.clock with k0 := none }
        capture := { (putChannel .mk0 (s.channel .mk0).miss.seek s).capture with
          mke := s.capture.mke.shut, mkw := s.capture.mkw.shut }
        register := { s.register with units := U }
        map := openSpan .register s.web.w .unverified s.map, ports := P } := ⟨_, _, lost.rest⟩
    obtain ⟨_, _, rfl⟩ := eq
    rfl

/-- What the return of IDX leaves after its fourth miss in a row (R41, R81). -/
structure IndexSought (s t : State) : Prop where
  channel : (t.channel .idx).state = .seek ∧ (t.channel .idx).window = .closed ∧
    (t.channel .idx).misses = min 65535 ((s.channel .idx).misses + 1)
  embossChannel : t.emboss.channel = (reacquire s.emboss.channel).1
  nip : t.emboss.nip = lostNip (reacquire s.emboss.channel).2.acquired s.emboss.nip
  judged : t.emboss.nip.state ≠ s.emboss.nip.state → EmbossJudged s t
  kept : t.emboss.nip.state = s.emboss.nip.state → t.map = s.map
  noticed : Noticed (both
    (onIf (decide (t.emboss.channel.state ≠ s.emboss.channel.state)) .emboss .emb)
    (onIf (decide (t.emboss.nip.state ≠ s.emboss.nip.state)) .emboss .nip)) s t
  others : ∀ c, c ≠ .idx → t.channel c = s.channel c
  rest : t = { s with
    capture := { t.capture with frame := s.capture.frame }
    emboss := { s.emboss with channel := t.emboss.channel, nip := t.emboss.nip }, map := t.map, ports := t.ports }

theorem missKey_index {x : Pos} {s : State} (h : 3 ≤ (s.channel .idx).run) : IndexSought s (missKey .idx x s) := by
  let u : State := putChannel .idx (s.channel .idx).miss.seek s
  have made : missKey .idx x s = idxReturned u := missKey_returns h
  have lost := idxReturned_lost u
  rw [made]
  generalize idxReturned u = t at lost
  have capture : t.capture = u.capture := by rw [lost.rest]
  have channel (c : Channel) : t.channel c = u.channel c := by rw [State.channel, capture]; rfl
  have embossed : t.emboss = { s.emboss with
      channel := (reacquire s.emboss.channel).1
      nip := lostNip (reacquire s.emboss.channel).2.acquired s.emboss.nip } := by
    rw [lost.rest]
    rfl
  refine ⟨?_, by rw [embossed], by rw [embossed], fun moved => ?_, fun still => lost.kept still, lost.noticed,
    fun c hc => ?_, ?_⟩
  · rw [channel, channel_putChannel_same, miss_eq]
    exact ⟨rfl, rfl, rfl⟩
  · exact ⟨(lost.judged moved).judges, (lost.judged moved).rests⟩
  · rw [channel]
    exact channel_putChannel_other hc _ s
  · have eq : ∃ M P, t = { u with
        emboss := { s.emboss with
          channel := (reacquire s.emboss.channel).1
          nip := lostNip (reacquire s.emboss.channel).2.acquired s.emboss.nip }
        map := M, ports := P } := ⟨_, _, lost.rest⟩
    obtain ⟨_, _, rfl⟩ := eq
    rfl

/-- What the end of a window centred at `x` makes of the part, by the channel's kind. -/
def windowEnded (ch : Channel) (x : Pos) (s : State) : State :=
  match ch with
  | .mk0 => missKey .mk0 x s
  | .idx => missKey .idx x s
  | .unit k => putChannel (.unit k) (s.channel (.unit k)).shut s
  | .mke => phasedNext .mke x (putChannel .mke (s.channel .mke).miss s)
  | .mkw => phasedNext .mkw x (putChannel .mkw (s.channel .mkw).miss s)

theorem endWindow_eq (ch : Channel) (s : State) :
    endWindow ch s = if windowEndDue ch s then windowEnded ch ((s.channel ch).centre.getD 0) s else s := by
  cases ch <;> rfl

theorem endWindow_due {ch : Channel} {s : State} {x : Pos} (enabled : (s.channel ch).enabled = true)
    (window : (s.channel ch).window ≠ .closed) (centre : (s.channel ch).centre = some x)
    (due : x + halfWidth s.recipe ch < s.web.w) : exec (.windowEnd ch) s = .next (windowEnded ch x s) := by
  refine congrArg Host.Outcome.next ?_
  rw [endWindow_eq, if_pos ((windowEndDue_iff enabled window centre).2 (Int.add_one_le_iff.2 due)), centre]
  rfl

/-- The end of a phased channel's window. -/
theorem phasedEnded {ch : Channel} (h : ch = .mke ∨ ch = .mkw) (x : Pos) (s : State) :
    ∃ c, windowEnded ch x s = putChannel ch c s ∧ c.misses = min 65535 ((s.channel ch).misses + 1) ∧
      c.run = min 65535 ((s.channel ch).run + 1) := by
  rcases h with rfl | rfl
  · exact phasedNext_missed .mke x s
  · exact phasedNext_missed .mkw x s

theorem keyEnded {ch : Channel} (h : ch = .mk0 ∨ ch = .idx) (x : Pos) (s : State) :
    windowEnded ch x s = missKey ch x s := by
  rcases h with rfl | rfl <;> rfl

/-- Settles O12: windows open at their lower bound, and end by the rule of the channel's kind. -/
theorem windowsOpenAndEnd : Obligations.WindowsOpenAndEnd := by
  refine ⟨fun ch s x enabled armed centre => ⟨openWindow_opens enabled armed centre, fun early => ?_⟩,
    fun ch s x enabled window centre => ⟨fun early => ?_, fun due => ?_⟩⟩
  · exact congrArg Host.Outcome.next (if_neg fun opens =>
      absurd ((windowOpenDue_iff enabled armed centre).1 opens).1 (not_le.2 early))
  · exact congrArg Host.Outcome.next (if_neg fun ends =>
      absurd (Int.add_one_le_iff.1 ((windowEndDue_iff enabled window centre).1 ends)) (not_lt.2 early))
  · refine ⟨_, endWindow_due enabled window centre due, fun k hk => ?_, fun phased => ?_, fun key few => ?_, fun key many => ?_⟩
    · subst hk
      exact ⟨channel_putChannel_same .., rfl, fun c hc => channel_putChannel_other hc ..⟩
    · obtain ⟨c, made, misses, run⟩ := phasedEnded phased x s
      rw [made, channel_putChannel_same]
      exact ⟨misses, run, rfl, fun d hd => channel_putChannel_other hd ..⟩
    · obtain ⟨c, made, state, place, misses, run⟩ := missKey_coasts (x := x) few
      rw [keyEnded key, made, channel_putChannel_same]
      exact ⟨state, place, misses, run, rfl, fun d hd => channel_putChannel_other hd ..⟩
    · rw [keyEnded key]
      rcases key with rfl | rfl
      · have sought := missKey_key (x := x) many
        generalize missKey .mk0 x s = t at sought
        obtain ⟨state, closed, misses⟩ := sought.channel
        obtain ⟨entry, winder⟩ := sought.phased
        refine ⟨state, closed, misses, by rw [sought.rest], by rw [sought.rest], fun _ => ⟨by rw [sought.rest], entry,
          winder, fun k off => ?_, fun k on => ?_, sought.span, sought.noticed, sought.others, ?_⟩,
          fun other => (nomatch other)⟩
        · rw [sought.unit, reacquire_off off]
        · rw [sought.unit]
          exact reacquire_acquires on
        · conv_lhs => rw [sought.rest]
          rw [sought.rest]
      · have sought := missKey_index (x := x) many
        generalize missKey .idx x s = t at sought
        obtain ⟨state, closed, misses⟩ := sought.channel
        refine ⟨state, closed, misses, by rw [sought.rest], by rw [sought.rest], fun other => (nomatch other), fun _ =>
          ⟨by rw [sought.rest], by rw [sought.rest], fun on => ?_, fun off => ?_, ?_, sought.judged, sought.kept,
            sought.noticed, sought.others, sought.rest⟩⟩
        · rw [sought.embossChannel]
          exact reacquire_acquires on
        · rw [sought.embossChannel, reacquire_off off]
        · rw [sought.nip]
          have returned := lostNip_return (reacquire s.emboss.channel).2.acquired s.emboss.nip
          rw [show ((reacquire s.emboss.channel).2.acquired = true) = (s.emboss.channel.state ≠ .off ∧
            s.emboss.channel.state ≠ .acquire) from propext (reacquire_acquired _)] at returned
          exact returned

end Sys2Proof.Returning

/-! ## Breaks (R129, R105, R11) -/

namespace Sys2Proof.Breaking

open Sys2Proof.Machine Sys2Proof.Safety Sys2Proof.Starting Sys2Proof.Reporting Sys2Proof.Porting Sys2Proof.Answering
  Sys2Proof.Cutting Sys2Proof.Closing Sys2Proof.Marking Sys2Proof.Returning

/-! ### The segment that a break ends (R129, R130, R131) -/

/-- The record of a segment that a break ends at `c`, before it is graded. -/
def brokenRecord (c : Pos) (r : RollRecord) : RollRecord :=
  { r with stop := some c, unmatched := true, endCause := if r.endCause = some .cutFail then r.endCause else some .brk }

theorem breakRecord_eq (q : Plan) (c : Pos) (s : State) :
    breakRecord q c s = finishCut (closingRecord q c s) false (modifyTracked q (brokenRecord c) s) := by
  cases tracked : q.record with
  | some i =>
    have ending : (closingRecord q c s).ending = some i := tracked
    simp only [breakRecord, finishCut, modifyTracked, tracked, ending]
    rfl
  | none =>
    have ending : (closingRecord q c s).ending = none := tracked
    have kind : (closingRecord q c s).kindEnding = q.kind := by
      show windingKind q s = q.kind
      rw [windingKind, tracked]
    simp only [breakRecord, finishCut, modifyTracked, tracked, ending, kind]
    rfl

theorem modifyTracked_rest (q : Plan) (f : RollRecord → RollRecord) (s : State) :
    ∃ R, modifyTracked q f s = { s with roll := { s.roll with records := R } } := by
  unfold modifyTracked
  split
  · exact ⟨_, modifyRecord_eq ..⟩
  · exact ⟨_, rfl⟩

theorem modifyTracked_other {q : Plan} {j : Fin 24} (h : q.record ≠ some j) (f : RollRecord → RollRecord) (s : State) :
    (modifyTracked q f s).record j = s.record j := by
  unfold modifyTracked
  split
  · rename_i i hi
    exact modifyRecord_other i j f s fun e => h (e ▸ hi)
  · rfl

theorem modifyTracked_same {q : Plan} {i : Fin 24} (h : q.record = some i) (f : RollRecord → RollRecord) (s : State) :
    ∃ n, (modifyTracked q f s).record i = { f (s.record i) with revision := n } := by
  rw [modifyTracked, h]
  exact modifyRecord_written i f s

/-- A SALE record keeps what grading keeps when the AWAITING cut ends (R130). -/
theorem endAwaiting_sale {i : Fin 24} {s : State} (sale : (s.record i).kind = .sale) :
    SaleKept (s.record i) ((endAwaiting s).record i) := by
  unfold endAwaiting
  split
  · rename_i x _
    let u : State := modifyCuts .awaiting (fun x => { x with state := .unconfirmed }) s
    let v : State := { u with roll := { u.roll with lastUnconfirmed := some x.number } }
    show SaleKept (v.record i) ((finishCut x true v).record i)
    by_cases ends : x.ending = some i
    · have made : finishCut x true v = gradeRecord i true v := by
        unfold finishCut
        rw [ends]
        exact finishRecord_sale sale
      rw [made]
      exact (grade_kept i true v).1
    · exact saleKept_of ((finishCut_finished x true v).others i ends)
  · exact saleKept_of rfl

/-- What a segment that a break ends at `c` adds to the waste total (R131). -/
def segmentWaste (q : Plan) (c : Pos) (s : State) : Nat :=
  match q.record with
  | some i => if (s.record i).kind = .waste then (c - (s.record i).start).toNat else 0
  | none => if q.kind = .waste then (c - q.start).toNat else 0

/-- What the segment's end at a break leaves of the parts `u`, in which its share is taken. -/
structure SegmentBroken (q : Plan) (c : Pos) (u v : State) : Prop where
  rest : ∃ h R W C B L S P, v = { u with
    line := { u.line with holds := h }, roll := { u.roll with records := R, saleCounter := C, wasteTotal := W }
    shade := { u.shade with batches := B }, label := L, store := S, ports := P }
  others : ∀ j, q.record ≠ some j → v.record j = u.record j
  sale : ∀ i, q.record = some i → (u.record i).kind = .sale →
    SaleKept (brokenRecord c (u.record i)) (v.record i) ∧ (∃ cause, (v.record i).grade = some (.reject cause)) ∧
      (v.record i).saleNumber.isSome = true ∧ (v.record i).unconfirmedCut = (u.record i).unconfirmedCut
  free : ∀ i, q.record = some i → (u.record i).kind = .waste → (v.record i).state = .free
  waste : u.roll.wasteTotal ≤ 4294967295 →
    v.roll.wasteTotal = min 4294967295 (u.roll.wasteTotal + segmentWaste q c u)
  notices : OnlyNotices u v

theorem graded_waste {i : Fin 24} {b : Bool} {s t : State} (h : Graded i b s t) (total : s.roll.wasteTotal ≤ 4294967295) :
    t.roll.wasteTotal = min 4294967295 (s.roll.wasteTotal + 0) := by
  rw [h.wasted, Nat.add_zero, min_eq_right total]

theorem breakRecord_broken (q : Plan) (c : Pos) (u : State) : SegmentBroken q c u (breakRecord q c u) := by
  obtain ⟨Rg, rest⟩ := modifyTracked_rest q (brokenRecord c) u
  have same := fun i (hi : q.record = some i) => modifyTracked_same hi (brokenRecord c) u
  have other := fun j (hj : q.record ≠ some j) => modifyTracked_other hj (brokenRecord c) u
  have finished := finishCut_finished (closingRecord q c u) false (modifyTracked q (brokenRecord c) u)
  have finish : ∀ i, q.record = some i → finishCut (closingRecord q c u) false (modifyTracked q (brokenRecord c) u) =
      finishRecord i false (modifyTracked q (brokenRecord c) u) := fun i hi => by
    unfold finishCut
    rw [show (closingRecord q c u).ending = some i from hi]
  have notices : OnlyNotices u (breakRecord q c u) := by
    rw [breakRecord_eq]
    have quietly : OnlyNotices u (modifyTracked q (brokenRecord c) u) := ⟨quiet, noticed_refl _ _ (by rw [rest])⟩
    exact quietly.trans (consequent_finishCut (closingRecord q c u) false _).notices
  rw [breakRecord_eq] at notices ⊢
  have kindEnding : q.record = none → (closingRecord q c u).kindEnding = q.kind := fun none => by
    show windingKind q u = q.kind
    rw [windingKind, none]
  generalize modifyTracked q (brokenRecord c) u = g at rest same other finished finish notices
  generalize finishCut (closingRecord q c u) false g = v at finished finish notices
  have total : g.roll.wasteTotal = u.roll.wasteTotal := by rw [rest]
  have kind (i : Fin 24) (hi : q.record = some i) : (g.record i).kind = (u.record i).kind := by
    obtain ⟨n, written⟩ := same i hi
    rw [written]
    rfl
  refine ⟨?_, fun j hj => (finished.others j hj).trans (other j hj), fun i hi sale => ?_, fun i hi waste => ?_, fun fits => ?_,
    notices⟩
  · have left := finished.rest
    rw [rest] at left
    exact ⟨_, _, _, _, _, _, _, _, left⟩
  · obtain ⟨n, written⟩ := same i hi
    have graded := finished.sale i hi ((kind i hi).trans sale)
    have made := (finish i hi).trans (finishRecord_sale ((kind i hi).trans sale))
    obtain ⟨kept, rejected⟩ := grade_kept i false g
    rw [← made] at kept rejected
    have ended : (g.record i).endCause = some .brk ∨ (g.record i).endCause = some .cutFail := by
      rw [written]
      show (if (u.record i).endCause = some .cutFail then (u.record i).endCause else some .brk) = some .brk ∨
        (if (u.record i).endCause = some .cutFail then (u.record i).endCause else some .brk) = some .cutFail
      by_cases failed : (u.record i).endCause = some .cutFail
      · rw [if_pos failed]
        exact .inr failed
      · rw [if_neg failed]
        exact .inl rfl
    refine ⟨?_, rejected ended, by rw [graded.number]; rfl, ?_⟩
    · rw [written] at kept
      unfold SaleKept at kept ⊢
      rw [kept]
    · rw [graded.unconfirmed, written, Bool.or_false]
      rfl
  · exact (finished.waste i hi ((kind i hi).trans waste)).free
  · unfold segmentWaste
    cases tracked : q.record with
    | none =>
      obtain ⟨-, counted⟩ := finished.untracked tracked
      rw [counted, kindEnding tracked, total]
      by_cases waste : q.kind = .waste
      · rw [if_pos waste]
        dsimp only
        rw [if_pos waste]
        rfl
      · rw [if_neg waste]
        dsimp only
        rw [if_neg waste, Nat.add_zero, min_eq_right fits]
    | some i =>
      dsimp only
      cases hk : (u.record i).kind with
      | sale =>
        rw [if_neg (by decide), ← total]
        exact graded_waste (finished.sale i tracked ((kind i tracked).trans hk)) (by rw [total]; exact fits)
      | waste =>
        obtain ⟨n, written⟩ := same i tracked
        have wasted := finished.waste i tracked ((kind i tracked).trans hk)
        rw [if_pos rfl, wasted.total, total, written]
        rfl

/-- The end of the segment of the plan `q` at a break (R129). -/
def breakEnd (q : Plan) (s : State) : Pos := max ((s.web.w : Int) - s.geometry.dK) q.start

/-- What the first steps of a break leave with the plan `q` standing (R129). -/
structure RollsBroken (q : Plan) (s t : State) : Prop where
  rest : ∃ h M R S L O P, t = { s with
    line := { s.line with holds := h }, map := { s.map with entries := M }, roll := R, shade := S, label := L
    store := O, ports := P }
  roll : t.roll.plan = none ∧ t.roll.transport = [] ∧ t.roll.cuts = s.roll.cuts.map endedCut
  awaited : AwaitingEnded s t
  waste : AwaitsOther q s → s.roll.wasteTotal ≤ 4294967295 →
    t.roll.wasteTotal = min 4294967295 (s.roll.wasteTotal + awaitedWaste s + segmentWaste q (breakEnd q s) s)
  queue : t.shade.queue = s.shade.queue.filter (fun x => decide (breakEnd q s ≤ x.position))
  samples : AwaitsOther q s →
    SamplesWasted q (breakEnd q s) (s.shade.queue.filter (fun x => decide (x.position < breakEnd q s))) s t
  share : ∀ i, q.record = some i → (s.record i).kind = .sale → AwaitsOther q s →
    ShareTaken q.start (breakEnd q s) s.map s.shade (s.record i) (t.record i)
  free : ∀ i, q.record = some i → (s.record i).kind = .waste → AwaitsOther q s → (t.record i).state = .free
  others : ∀ j, q.record ≠ some j → (∀ y, awaitingCutOf s = some y → y.ending ≠ some j) → t.record j = s.record j
  sale : ∀ i, q.record = some i → (s.record i).kind = .sale →
    (t.record i).stop = some (breakEnd q s) ∧ (t.record i).unmatched = true ∧
      (t.record i).saleNumber.isSome = true ∧ (∃ cause, (t.record i).grade = some (.reject cause)) ∧
      (t.record i).endCause = some (if (s.record i).endCause = some .cutFail then .cutFail else .brk)
  raised : ∃ raised, Noticed raised s t ∧
    ((∃ x ∈ s.roll.cuts, x.state = .awaiting ∨ x.state = .issued) → Has raised .winder .cut)

/-- What the consumption of the segment leaves, tracked or not (R103, R137). -/
structure SegmentConsumed (q : Plan) (c : Pos) (s t : State) : Prop where
  rest : ∃ M R S, t = { s with map := { s.map with entries := M }, roll := { s.roll with records := R }, shade := S }
  queue : t.shade.queue = s.shade.queue.filter (fun x => decide (c ≤ x.position))
  samples : SamplesWasted q c (s.shade.queue.filter (fun x => decide (x.position < c))) s t
  tracked : ∀ i, q.record = some i → SegmentShared i q c s t
  others : ∀ j, q.record ≠ some j → t.record j = s.record j

theorem consumeSegment_consumed (q : Plan) (c : Pos) (s : State) : SegmentConsumed q c s (consumeSegment q c s) := by
  cases tracked : q.record with
  | none =>
    obtain ⟨rest, samples⟩ := consumeSegment_untracked q c s tracked
    generalize consumeSegment q c s = t at rest samples
    refine ⟨⟨_, _, _, rest⟩, by rw [rest], samples, fun i hi => (nomatch tracked.symm.trans hi), fun j _ => ?_⟩
    rw [State.record, rest]
    rfl
  | some i =>
    have shared := consumeSegment_tracked i q c s tracked
    generalize consumeSegment q c s = t at shared
    refine ⟨⟨_, _, _, shared.rest⟩, by rw [shared.rest], shared.waste, fun j hj => ?_, fun j hj => shared.others j fun e => ?_⟩
    · obtain rfl := Option.some.inj (tracked.symm.trans hj)
      exact shared
    · exact hj (by rw [tracked, e])

/-- The share that a record takes stands while nothing of it is changed. -/
theorem shareTaken_of {start c : Pos} {m : WebMap} {shade shade' : ShadeClassifier} {r r' r'' : RollRecord}
    (h : ShareTaken start c m shade r r') (queue : shade'.queue = shade.queue) (thin : shade'.thin = shade.thin)
    (kept : SaleKept (brokenRecord c r') r'') : ShareTaken start c m shade' r r'' := by
  have charged := h.charged
  have samples := h.samples
  have marked := h.thin
  unfold SaleKept brokenRecord at kept
  rw [kept]
  refine ⟨?_, ?_, ?_⟩
  · exact ⟨charged.register, charged.emboss, charged.defect, charged.splice, charged.items, charged.overflow⟩
  · rw [queue]
    exact samples
  · rw [thin]
    exact marked

theorem breakPlan_eq {q : Plan} {s : State} (h : s.roll.plan = some q) :
    breakPlan s = putPlan none (breakRecord q (breakEnd q s) (consumeSegment q (breakEnd q s) (withdrawCut s))) := by
  unfold breakPlan
  rw [h]
  rfl

/-- CUT is raised when a cut is ended by a break (R129). -/
def breakRaises (s : State) : Bool := (cutIn .awaiting s).isSome || ((cutIn .issued s).isSome && s.roll.plan.isSome)

theorem breakRaises_of {q : Plan} {s : State} (plan : s.roll.plan = some q)
    (h : ∃ x ∈ s.roll.cuts, x.state = .awaiting ∨ x.state = .issued) : breakRaises s = true := by
  obtain ⟨x, hx, state⟩ := h
  unfold breakRaises cutIn
  simp only [Bool.or_eq_true, Bool.and_eq_true, List.find?_isSome, beq_iff_eq, plan]
  rcases state with awaiting | issued
  · exact .inl ⟨x, hx, awaiting⟩
  · exact .inr ⟨⟨x, hx, issued⟩, rfl⟩

theorem breakRolls_eq {q : Plan} {s v : State} (plan : s.roll.plan = some q) (withdrawn : State)
    (hw : withdrawCut (endAwaiting s) = withdrawn)
    (hv : breakRecord q (breakEnd q s) (consumeSegment q (breakEnd q s) withdrawn) = v) :
    breakRolls s = if breakRaises s then raiseCut { v with roll := { v.roll with plan := none, transport := [] } }
      else { v with roll := { v.roll with plan := none, transport := [] } } := by
  have ended := endAwaiting_ended s
  have plans : (endAwaiting s).roll.plan = some q := by rw [ended.rest]; exact plan
  have place : breakEnd q (endAwaiting s) = breakEnd q s := by
    show max (((endAwaiting s).web.w : Int) - (endAwaiting s).geometry.dK) q.start = _
    rw [ended.rest]
    rfl
  have made := breakPlan_eq plans
  rw [place, hw, hv] at made
  unfold breakRolls
  rw [made]
  rfl

theorem breakRolls_broken {q : Plan} {s : State} (plan : s.roll.plan = some q) : RollsBroken q s (breakRolls s) := by
  have ended := endAwaiting_ended s
  have kept := fun i (sale : (s.record i).kind = .sale) => endAwaiting_sale (i := i) (s := s) sale
  obtain ⟨⟨hw, Rw, Bw, Lw, Sw, Pw, wRest⟩, ⟨Rw', Ww, Cw, Uw, wRoll⟩, wRecord, wNotices⟩ := withdrawCut_ended s
  have wTotal : (withdrawCut (endAwaiting s)).roll.wasteTotal = (endAwaiting s).roll.wasteTotal := rfl
  have wLast : (withdrawCut (endAwaiting s)).roll.lastUnconfirmed = (endAwaiting s).roll.lastUnconfirmed := rfl
  have made := fun v => breakRolls_eq (v := v) plan _ rfl
  generalize withdrawCut (endAwaiting s) = w at wRest wRoll wRecord wNotices wTotal wLast made
  have consumed := consumeSegment_consumed q (breakEnd q s) w
  generalize consumeSegment q (breakEnd q s) w = u at consumed made
  have broken := breakRecord_broken q (breakEnd q s) u
  generalize hv : breakRecord q (breakEnd q s) u = v at broken made
  have made := made v rfl
  have before (i : Fin 24) (h : ∀ y, awaitingCutOf s = some y → y.ending ≠ some i) : w.record i = s.record i := by
    rw [wRecord]
    exact ended.others i h
  have other (aw : AwaitsOther q s) (i : Fin 24) (hi : q.record = some i) : w.record i = s.record i :=
    before i fun y hy ends => aw y i hy ends hi
  have roll : (breakRolls s).roll = { v.roll with plan := none, transport := [] } := by
    rw [made]
    split <;> rfl
  have shade : (breakRolls s).shade = v.shade := by
    rw [made]
    split <;> rfl
  have record (i : Fin 24) : (breakRolls s).record i = v.record i := by rw [State.record, roll]; rfl
  have uKind (i : Fin 24) (hi : q.record = some i) : (u.record i).kind = (w.record i).kind := by
    rw [(consumed.tracked i hi).record]
  have saleKind (i : Fin 24) (sale : (s.record i).kind = .sale) : (w.record i).kind = .sale := by
    have := kept i sale
    unfold SaleKept at this
    rw [wRecord, this]
    exact sale
  have vRoll : ∃ R W C, v.roll = { u.roll with records := R, saleCounter := C, wasteTotal := W } := by
    obtain ⟨_, R, W, C, _, _, _, _, rest⟩ := broken.rest
    exact ⟨R, W, C, by rw [rest]⟩
  have uRoll : ∃ R, u.roll = { w.roll with records := R } := by
    obtain ⟨_, R, _, rest⟩ := consumed.rest
    exact ⟨R, by rw [rest]⟩
  refine ⟨?_, ?_, ⟨?_, fun y i hy ends sale => ?_⟩, fun aw fits => ?_, ?_, fun aw fits => ?_, fun i hi sale aw => ?_,
    fun i hi waste aw => ?_, fun j hj aw => ?_, fun i hi sale => ?_, ?_⟩
  · obtain ⟨_, _, _, _, _, _, _, _, vRest⟩ := broken.rest
    obtain ⟨_, _, _, uRest⟩ := consumed.rest
    have tRest : ∃ P, breakRolls s = { v with roll := { v.roll with plan := none, transport := [] }, ports := P } := by
      rw [made]
      split
      · exact ⟨_, rfl⟩
      · exact ⟨_, rfl⟩
    obtain ⟨_, tRest⟩ := tRest
    rw [tRest]
    clear * - vRest uRest wRest
    subst vRest uRest wRest
    exact ⟨_, _, _, _, _, _, _, rfl⟩
  · obtain ⟨_, _, _, vRoll⟩ := vRoll
    obtain ⟨_, uRoll⟩ := uRoll
    rw [roll, vRoll, uRoll, wRoll]
    exact ⟨rfl, rfl, rfl⟩
  · obtain ⟨_, _, _, vRoll⟩ := vRoll
    obtain ⟨_, uRoll⟩ := uRoll
    rw [roll, vRoll, uRoll]
    show w.roll.lastUnconfirmed = _
    rw [wLast, ended.rest] <;> rfl
  · obtain ⟨unconfirmed, grade, number, -⟩ := ended.graded y i hy ends sale
    rw [← wRecord] at unconfirmed grade number
    by_cases hi : q.record = some i
    · obtain ⟨-, ⟨cause, rejected⟩, numbered, unconfirmedKept⟩ := broken.sale i hi ((uKind i hi).trans (saleKind i sale))
      rw [record, unconfirmedKept, rejected, (consumed.tracked i hi).record]
      exact ⟨unconfirmed, rfl, numbered⟩
    · rw [record, broken.others i hi, consumed.others i hi]
      exact ⟨unconfirmed, grade, number⟩
  · have total : u.roll.wasteTotal = min 4294967295 (s.roll.wasteTotal + awaitedWaste s) := by
      obtain ⟨_, uRoll⟩ := uRoll
      rw [uRoll]
      exact wTotal.trans (ended.waste fits)
    have segment : segmentWaste q (breakEnd q s) u = segmentWaste q (breakEnd q s) s := by
      unfold segmentWaste
      cases tracked : q.record with
      | none => rfl
      | some i =>
        have same : (u.record i).kind = (s.record i).kind ∧ (u.record i).start = (s.record i).start := by
          rw [(consumed.tracked i tracked).record, other aw i tracked]
          exact ⟨rfl, rfl⟩
        dsimp only
        rw [same.1, same.2]
    have counted := broken.waste (by rw [total]; exact min_le_left ..)
    rw [roll]
    show v.roll.wasteTotal = _
    rw [counted, segment, total]
    omega
  · rw [shade]
    obtain ⟨_, _, _, _, _, _, _, _, vRest⟩ := broken.rest
    rw [vRest]
    show u.shade.queue = _
    rw [consumed.queue, wRest]
  · have wasted := consumed.samples
    have same : w.shade.queue = s.shade.queue ∧ w.shade.wasteSamples = s.shade.wasteSamples := by
      rw [wRest]
      exact ⟨rfl, rfl⟩
    have counted : (breakRolls s).shade.wasteSamples = u.shade.wasteSamples := by
      obtain ⟨_, _, _, _, _, _, _, _, vRest⟩ := broken.rest
      rw [shade, vRest]
    unfold SamplesWasted at wasted
    rw [same.1, same.2] at wasted
    rw [counted, wasted fits]
    cases tracked : q.record with
    | none => rfl
    | some i =>
      dsimp only
      rw [other aw i tracked]
  · have share := (consumed.tracked i hi).share
    obtain ⟨saleKept, -⟩ := broken.sale i hi ((uKind i hi).trans (saleKind i sale))
    rw [record]
    rw [other aw i hi] at share
    have map : w.map = s.map := by rw [wRest]
    rw [map] at share
    exact shareTaken_of share (by rw [wRest]) (by rw [wRest]) saleKept
  · rw [record]
    exact broken.free i hi (by rw [uKind i hi, other aw i hi]; exact waste)
  · rw [record, broken.others j hj, consumed.others j hj, before j aw]
  · obtain ⟨saleKept, rejected, numbered, -⟩ := broken.sale i hi ((uKind i hi).trans (saleKind i sale))
    have cause : (u.record i).endCause = (s.record i).endCause := by
      have before := kept i sale
      unfold SaleKept at before
      rw [(consumed.tracked i hi).record]
      show (w.record i).endCause = _
      rw [wRecord, before]
    rw [record]
    unfold SaleKept brokenRecord at saleKept
    rw [cause] at saleKept
    refine ⟨by rw [saleKept], by rw [saleKept], numbered, rejected, ?_⟩
    rw [saleKept]
    by_cases failed : (s.record i).endCause = some .cutFail
    · show (if (s.record i).endCause = some .cutFail then (s.record i).endCause else some .brk) = _
      rw [if_pos failed, if_pos failed, failed]
    · show (if (s.record i).endCause = some .cutFail then (s.record i).endCause else some .brk) = _
      rw [if_neg failed, if_neg failed]
  · have consumedPorts : OnlyNotices w u := by
      obtain ⟨_, _, _, uRest⟩ := consumed.rest
      exact ⟨quiet, noticed_refl _ _ (by rw [uRest])⟩
    obtain ⟨raised, noticed⟩ := (wNotices.trans consumedPorts).trans broken.notices
    rw [made]
    by_cases raises : breakRaises s = true
    · rw [if_pos raises]
      refine ⟨both raised (on .winder .cut), noticed_both noticed fun r => ?_, fun _ => ?_⟩
      · exact raiseCut_noticed { v with roll := { v.roll with plan := none, transport := [] } } r
      · rw [both_comm]
        exact has_both_left (by exact BitVec.and_self) raised
    · rw [if_neg raises]
      exact ⟨raised, noticed, fun some => absurd (breakRaises_of plan some) raises⟩

/-! ### The map after a break (R105, R43, R92) -/

/-- A span is added to a map with room that holds no entry of its kind (R95). -/
theorem openSpan_added {kind : MapKind} {m : WebMap} (none : ∀ x ∈ m.entries, x.kind ≠ kind)
    (room : m.entries.length < 48) (start : Pos) (d : Detail) :
    openSpan kind start d m = addAged (openedEntry kind start d) m := by
  have closed : hasOpen kind m = false := by
    rw [hasOpen, List.any_eq_false]
    intro x hx
    simp [MapEntry.isOpenOf, none x hx]
  have absent : youngestAt (fun e => e.kind == kind && e.detail == d && e.stop.isSome) m.entries = Option.none :=
    (youngestAt_none _ _).2 fun x hx => by simp [none x hx]
  have target : mergeTarget kind d start m = Option.none := by
    rw [mergeTarget, absent]
  have added : addEntry (newEntry kind start Option.none d false) m = some (addAged (openedEntry kind start d) m, .added) :=
    if_pos room
  rw [openSpan, closed, target, added]
  rfl

theorem addAged_entries (e : MapEntry) (m : WebMap) :
    (∃ n, { e with age := n } ∈ (addAged e m).entries) ∧
      (addAged e m).entries.length = m.entries.length + 1 ∧
      ∀ x ∈ (addAged e m).entries, (∃ n, x = { e with age := n }) ∨ x ∈ m.entries := by
  obtain ⟨-, -, before, after, old, new, -, -⟩ := addAged_joined e m
  rw [new, old]
  refine ⟨⟨(addAged e m).additions, by simp⟩, by simp; omega, fun x hx => ?_⟩
  rcases List.mem_append.1 hx with first | rest
  · exact .inr (List.mem_append_left _ first)
  · rcases List.mem_cons.1 rest with rfl | last
    · exact .inl ⟨_, rfl⟩
    · exact .inr (List.mem_append_right _ last)

/-- The map after a break, with the REGISTER span alone (R105, R43). -/
def unverifiedMap (s : State) : WebMap :=
  addAged (openedEntry .register s.web.w .unverified) { s.map with entries := [] }

/-- The map after a break (R105, R43, R92). -/
def brokenMap (s : State) : WebMap :=
  if judgesEmboss s then addAged (openedEntry .emboss (embossEntry s) .notClosed) (unverifiedMap s) else unverifiedMap s

theorem unverifiedMap_eq (s : State) :
    openSpan .register s.web.w .unverified { s.map with entries := [] } = unverifiedMap s :=
  openSpan_added (m := { s.map with entries := [] }) (fun _ h => absurd h List.not_mem_nil) (show 0 < 48 by decide) ..

theorem unverifiedMap_entry (s : State) : ∀ x ∈ (unverifiedMap s).entries, x.kind = .register ∧ x.forEmboss = false := by
  intro x hx
  obtain ⟨-, -, all⟩ := addAged_entries (openedEntry .register s.web.w .unverified) { s.map with entries := [] }
  rcases all x hx with ⟨n, rfl⟩ | old
  · exact ⟨rfl, rfl⟩
  · exact absurd old List.not_mem_nil

theorem release_none {position : Pos} {m : WebMap} (h : ∀ x ∈ m.entries, x.forEmboss = false) :
    releaseKind .emboss position m = m := by
  have same : m.entries.map (MapEntry.release .emboss position) = m.entries := by
    conv_rhs => rw [← List.map_id m.entries]
    refine List.map_congr_left fun x hx => ?_
    simp [MapEntry.release, h x hx]
  rw [releaseKind, same]

/-- The tracker's judgment while the nip is not CLOSED (R92). -/
theorem judgeEmboss_open {s : State} (open' : s.emboss.nip.state ≠ .closed) :
    (judgeEmboss s).map = if judgesEmboss s then
      openSpan .emboss (embossEntry s) .notClosed (releaseKind .emboss (embossEntry s) s.map) else s.map := by
  have fault : embossFault s.emboss.nip = true := by simp [embossFault, open']
  have detail : embossDetail s.emboss.nip = .notClosed := if_neg open'
  by_cases active : judgesEmboss s = true
  · simp only [judgeEmboss, active, fault, detail, if_true]
  · simp only [judgeEmboss, active, Bool.false_eq_true, if_false]

/-- One judgment of an open nip gives the map after a break, and a second leaves it. -/
theorem judgeEmboss_broken {s t : State} (open' : t.emboss.nip.state ≠ .closed) (web : t.web = s.web)
    (geometry : t.geometry = s.geometry) (recipe : t.recipe = s.recipe) (line : t.line.state = s.line.state)
    (map : t.map = unverifiedMap s ∨ t.map = brokenMap s) : (judgeEmboss t).map = brokenMap s := by
  have judges : judgesEmboss t = judgesEmboss s := by rw [judgesEmboss, judgesEmboss, recipe, line]
  have entry : embossEntry t = embossEntry s := by rw [embossEntry, embossEntry, web, geometry]
  rw [judgeEmboss_open open', judges, entry]
  by_cases active : judgesEmboss s = true
  · have opened : brokenMap s = addAged (openedEntry .emboss (embossEntry s) .notClosed) (unverifiedMap s) := if_pos active
    have first := unverifiedMap_entry s
    obtain ⟨⟨n, stands⟩, -, all⟩ := addAged_entries (openedEntry .emboss (embossEntry s) .notClosed) (unverifiedMap s)
    rw [if_pos active]
    rcases map with map | map
    · have room : (unverifiedMap s).entries.length < 48 := by
        have := (addAged_entries (openedEntry .register s.web.w .unverified) { s.map with entries := [] }).2.1
        show (addAged _ _).entries.length < 48
        rw [this]
        show 0 + 1 < 48
        decide
      rw [map, release_none fun x hx => (first x hx).2, opened]
      exact openSpan_added (fun x hx => by rw [(first x hx).1]; decide) room ..
    · have quietly : ∀ x ∈ (brokenMap s).entries, x.forEmboss = false := fun x hx => by
        rw [opened] at hx
        rcases all x hx with ⟨n, rfl⟩ | old
        · rfl
        · exact (first x old).2
      rw [map, release_none quietly]
      refine if_pos ?_
      rw [hasOpen, List.any_eq_true, opened]
      exact ⟨_, stands, rfl⟩
  · rw [if_neg active]
    have unopened : brokenMap s = unverifiedMap s := if_neg active
    rw [unopened] at map ⊢
    exact map.elim id id

/-! ### The other blocks at a break (R48, R71, R77, R81, R90) -/

theorem reacquired_eq (c : RegisterChannel) : (reacquire c).1 = Reacquired c := by
  rw [reacquire_fst]
  rfl

/-- What a break leaves of the blocks beside the rolls (R129). -/
structure BlocksBroken (s t : State) : Prop where
  rest : ∃ C U E S P, t = { s with
    clock := { s.clock with
      k0 := none, measured := [], stretch := none, stretchOver := false, previousKey := none }
    capture := C, register := { s.register with units := U }, emboss := E, map := brokenMap s, shade := S, ports := P }
  samples : t.shade = { s.shade with
    queue := [], thin := false, wasteSamples := min 4294967295 (s.shade.wasteSamples + s.shade.queue.length) }
  frame : t.capture.frame = none
  key : (t.channel .mk0).state = .seek ∧ (t.channel .mk0).window = .closed
  index : (t.channel .idx).state = .seek ∧ (t.channel .idx).window = .closed
  enabled : ∀ ch, (t.channel ch).enabled = (s.channel ch).enabled
  unit : ∀ k, t.unit k = Reacquired (s.unit k)
  channel : t.emboss.channel = Reacquired s.emboss.channel
  held : t.emboss.held = none
  nip : t.emboss.nip.state = if s.emboss.nip.state = .parked then .parked else .opening
  ordered : s.emboss.nip.state ≠ .parked → t.emboss.nip.orderReason = some .brk ∧ t.emboss.nip.openCause = none
  noticed : ∃ raised, Noticed raised s t ∧ ((∃ k, (t.unit k).state ≠ (s.unit k).state) → Has raised .press .register)

/-- The part as a break empties the map and the samples and abandons the frame (R105, R48). -/
def brokenCapture (s : State) : State :=
  let x := s.capture
  { emptySamples { s with map := emptyMap s.map } with capture := { x with
      mk0 := x.mk0.seek, idx := x.idx.seek, units := x.units.map ChannelRecord.broken, frame := none } }

theorem breakBlocks_eq (s : State) :
    breakBlocks s = forgetMeasured (breakEmboss (idxReturned (keyReturned (brokenCapture s)))) := rfl

theorem brokenCapture_enabled (s : State) (ch : Channel) :
    ((brokenCapture s).channel ch).enabled = (s.channel ch).enabled := by
  cases ch with
  | unit k =>
    show ((s.capture.units.map ChannelRecord.broken).get k).enabled = _
    rw [table_get_map]
    rfl
  | mk0 | mke | idx | mkw => rfl

/-- What the return of both index channels at a break leaves. -/
structure BothLost (s t : State) : Prop where
  rest : ∃ U E M P, t = { s with
    clock := { s.clock with k0 := none }
    capture := { s.capture with mke := s.capture.mke.shut, mkw := s.capture.mkw.shut }
    register := { s.register with units := U }, emboss := E, map := M, ports := P }
  unit : ∀ k, t.unit k = Reacquired (s.unit k)
  emboss : t.emboss = { s.emboss with
    channel := Reacquired s.emboss.channel
    nip := lostNip (reacquire s.emboss.channel).2.acquired s.emboss.nip }
  map : t.map = openSpan .register s.web.w .unverified s.map ∨
    (t.emboss.nip.state ≠ .closed ∧ t.map = (judgeEmboss { s with
      emboss := t.emboss, map := openSpan .register s.web.w .unverified s.map }).map)
  noticed : ∃ raised, Noticed raised s t ∧ ((∃ k, (t.unit k).state ≠ (s.unit k).state) → Has raised .press .register)

theorem lostNip_moved {acquired : Bool} {n : Nip} (h : (lostNip acquired n).state ≠ n.state) :
    (lostNip acquired n).state ≠ .closed := by
  unfold lostNip at h ⊢
  cases hs : n.state <;> cases acquired <;> simp_all

theorem bothReturned_lost (s : State) : BothLost s (idxReturned (keyReturned s)) := by
  have key := keyReturned_lost s
  generalize keyReturned s = k at key
  have index := idxReturned_lost k
  generalize idxReturned k = t at index
  have register : t.register = k.register := by rw [index.rest]
  have unit (i : Fin 7) : t.unit i = k.unit i := by rw [State.unit, register]; rfl
  have kEmboss : k.emboss = s.emboss := by rw [key.rest]
  have kMap : k.map = openSpan .register s.web.w .unverified s.map := by rw [key.rest]
  refine ⟨?_, fun i => ?_, ?_, ?_, ?_⟩
  · have one : ∃ U P, k = { s with
        clock := { s.clock with k0 := none }
        capture := { s.capture with mke := s.capture.mke.shut, mkw := s.capture.mkw.shut }
        register := { s.register with units := U }
        map := openSpan .register s.web.w .unverified s.map, ports := P } := ⟨_, _, key.rest⟩
    have two : ∃ E M P, t = { k with emboss := E, map := M, ports := P } := ⟨_, _, _, index.rest⟩
    clear * - one two
    obtain ⟨_, _, rfl⟩ := one
    obtain ⟨_, _, _, rfl⟩ := two
    exact ⟨_, _, _, _, rfl⟩
  · rw [unit, key.unit, reacquired_eq]
  · have := index.rest
    rw [kEmboss, reacquired_eq] at this
    rw [this]
  · by_cases moved : t.emboss.nip.state = k.emboss.nip.state
    · exact .inl ((index.kept moved).trans kMap)
    · refine .inr ⟨?_, ?_⟩
      · have nip : t.emboss.nip = lostNip (reacquire k.emboss.channel).2.acquired k.emboss.nip := by rw [index.rest]
        rw [nip] at moved ⊢
        exact lostNip_moved moved
      · rw [index.map moved, judgeEmboss_map, judgeEmboss_map, key.rest]
        rfl
  · obtain first := key.noticed
    refine ⟨_, noticed_both first index.noticed, fun changed => has_both_left ?_ _⟩
    have : ∃ i, (k.unit i).state ≠ (s.unit i).state := by
      obtain ⟨i, hi⟩ := changed
      exact ⟨i, by rw [← unit]; exact hi⟩
    rw [decide_eq_true this]
    exact BitVec.and_self

theorem lostNip_parked {acquired : Bool} {n : Nip} : (lostNip acquired n).state = .parked ↔ n.state = .parked := by
  unfold lostNip
  cases hs : n.state <;> cases acquired <;> simp [hs]

/-- What the emboss tracker does at a break, from the nip that the loss of the index left (R77, R90, R92). -/
structure EmbossBroken (s t : State) : Prop where
  rest : ∃ N P, t = { s with
    emboss := { s.emboss with held := none, nip := N }, map := t.map, ports := P }
  nip : t.emboss.nip.state = if s.emboss.nip.state = .parked then .parked else .opening
  ordered : s.emboss.nip.state ≠ .parked → t.emboss.nip.orderReason = some .brk ∧ t.emboss.nip.openCause = none
  map : t.map = (judgeEmboss { s with emboss := t.emboss }).map
  notices : OnlyNotices s t

theorem breakEmboss_broken (s : State) : EmbossBroken s (breakEmboss s) := by
  let s1 : State := { s with emboss := { s.emboss with held := none } }
  have held : OnlyNotices s s1 := ⟨quiet, noticed_refl _ _ rfl⟩
  by_cases parked : s.emboss.nip.state = .parked
  · have made : breakEmboss s = judgeEmboss s1 := by
      show judgeEmboss (if s1.emboss.nip.state = .parked then s1 else orderNipOpen .brk s1) = _
      rw [if_pos (show s1.emboss.nip.state = .parked from parked)]
    have rest := judgeEmboss_eq s1
    rw [made]
    refine ⟨⟨s.emboss.nip, s.ports, ?_⟩, ?_, fun h => absurd parked h, ?_, held.trans ?_⟩
    · rw [rest]
    · rw [rest, if_pos parked]
      exact parked
    · have emboss : (judgeEmboss s1).emboss = s1.emboss := by rw [rest]
      rw [emboss]
    · exact ⟨quiet, noticed_refl _ _ (by rw [rest])⟩
  · let ordered : State := modifyNip (fun n => { n with orderReason := some .brk, openCause := none }) s1
    have made : breakEmboss s = judgeEmboss (enterNip .opening ordered) := by
      show judgeEmboss (if s1.emboss.nip.state = .parked then s1 else orderNipOpen .brk s1) = _
      rw [if_neg (show ¬ s1.emboss.nip.state = .parked from parked)]
      rfl
    have entered := enterNip_eq .opening ordered
    have notices := enterNip_onlyNotices .opening ordered
    rw [made]
    generalize enterNip .opening ordered = u at entered notices
    have rest := judgeEmboss_eq u
    have emboss : (judgeEmboss u).emboss = u.emboss := by rw [rest]
    refine ⟨⟨u.emboss.nip, u.ports, ?_⟩, ?_, fun _ => ?_, ?_, held.trans ?_⟩
    · rw [rest, entered]
      rfl
    · rw [emboss, entered, if_neg parked]
    · rw [emboss, entered]
      exact ⟨rfl, rfl⟩
    · rw [emboss, judgeEmboss_map, judgeEmboss_map, entered]
      rfl
    · have same : OnlyNotices s1 ordered := ⟨quiet, noticed_refl _ _ rfl⟩
      exact (same.trans notices).trans ⟨quiet, noticed_refl _ _ (by rw [rest])⟩

theorem breakBlocks_broken (s : State) : BlocksBroken s (breakBlocks s) := by
  have enabled := brokenCapture_enabled s
  have both := bothReturned_lost (brokenCapture s)
  have first := unverifiedMap_eq s
  rw [breakBlocks_eq]
  have captured : ∃ S, brokenCapture s = { s with
      capture := (brokenCapture s).capture, map := { s.map with entries := [] }, shade := S } := ⟨_, rfl⟩
  have shade : (brokenCapture s).shade = { s.shade with
      queue := [], thin := false, wasteSamples := min 4294967295 (s.shade.wasteSamples + s.shade.queue.length) } := rfl
  have frame : (brokenCapture s).capture.frame = none := rfl
  have key : ((brokenCapture s).channel .mk0).state = .seek ∧ ((brokenCapture s).channel .mk0).window = .closed :=
    ⟨rfl, rfl⟩
  have index : ((brokenCapture s).channel .idx).state = .seek ∧ ((brokenCapture s).channel .idx).window = .closed :=
    ⟨rfl, rfl⟩
  generalize brokenCapture s = b at both captured shade frame key index enabled
  generalize idxReturned (keyReturned b) = l at both
  have broken := breakEmboss_broken l
  generalize breakEmboss l = e at broken
  obtain ⟨_, captured⟩ := captured
  obtain ⟨U, E, M, P, lRest⟩ := both.rest
  obtain ⟨N, P', eRest⟩ := broken.rest
  have lEmboss := both.emboss
  have embossed : b.emboss = s.emboss := by rw [captured]
  have parked : (l.emboss.nip.state = .parked) ↔ s.emboss.nip.state = .parked := by
    rw [lEmboss, embossed]
    exact lostNip_parked
  have opened : e.emboss.nip.state ≠ .closed := by
    rw [broken.nip]
    split <;> decide
  have lMap : l.map = unverifiedMap s ∨ l.map = brokenMap s := by
    have bMap : openSpan .register b.web.w .unverified b.map = unverifiedMap s := by
      rw [captured]
      exact first
    have lost := both.map
    rw [bMap] at lost
    refine lost.imp_right fun ⟨notClosed, judged⟩ => ?_
    rw [judged]
    refine judgeEmboss_broken notClosed ?_ ?_ ?_ ?_ (.inl rfl)
    · show b.web = _; rw [captured]
    · show b.geometry = _; rw [captured]
    · show b.recipe = _; rw [captured]
    · show b.line.state = _; rw [captured]
  have eMap : e.map = brokenMap s := by
    rw [broken.map]
    refine judgeEmboss_broken opened ?_ ?_ ?_ ?_ lMap
    · show l.web = _; rw [lRest, captured]
    · show l.geometry = _; rw [lRest, captured]
    · show l.recipe = _; rw [lRest, captured]
    · show l.line.state = _; rw [lRest, captured]
  have embossRest : ∃ N, e.emboss = { l.emboss with held := none, nip := N } := ⟨N, by rw [eRest]⟩
  have channels (ch : Channel) : (forgetMeasured e).channel ch = l.channel ch := by
    show e.capture.get ch = l.capture.get ch
    rw [eRest]
  have captures : l.capture = { b.capture with mke := b.capture.mke.shut, mkw := b.capture.mkw.shut } := by rw [lRest]
  have bUnit (k : Fin 7) : b.unit k = s.unit k := by rw [State.unit, captured]; rfl
  have unit (k : Fin 7) : (forgetMeasured e).unit k = l.unit k := by
    show e.register.units.get k = l.register.units.get k
    rw [eRest]
  refine ⟨?_, ?_, ?_, ?_, ?_, fun ch => ?_, fun k => ?_, ?_, ?_, ?_, fun h => broken.ordered (mt parked.1 h), ?_⟩
  · have done : ∃ N P, e = { l with emboss := { l.emboss with held := none, nip := N }, map := brokenMap s, ports := P } :=
      ⟨N, P', by rw [← eMap]; exact eRest⟩
    have start : ∃ C S, b = { s with capture := C, map := { s.map with entries := [] }, shade := S } := ⟨_, _, captured⟩
    clear * - done lRest start
    obtain ⟨_, _, rfl⟩ := done
    subst lRest
    obtain ⟨_, _, rfl⟩ := start
    exact ⟨_, _, _, _, _, rfl⟩
  · show e.shade = _
    rw [eRest]
    show l.shade = _
    rw [lRest]
    exact shade
  · show e.capture.frame = _
    rw [eRest]
    show l.capture.frame = _
    rw [captures]
    exact frame
  · rw [channels, State.channel, captures]
    exact key
  · rw [channels, State.channel, captures]
    exact index
  · rw [channels, ← enabled ch, State.channel, captures]
    cases ch <;> rfl
  · rw [unit, both.unit, bUnit]
  · obtain ⟨_, embossRest⟩ := embossRest
    show e.emboss.channel = _
    rw [embossRest]
    show l.emboss.channel = _
    rw [lEmboss, embossed]
  · obtain ⟨_, embossRest⟩ := embossRest
    show e.emboss.held = _
    rw [embossRest]
  · show e.emboss.nip.state = _
    rw [broken.nip]
    by_cases h : s.emboss.nip.state = .parked
    · rw [if_pos h, if_pos (parked.2 h)]
    · rw [if_neg h, if_neg (mt parked.1 h)]
  · obtain ⟨raised, noticed, has⟩ := both.noticed
    obtain ⟨more, later⟩ := broken.notices
    have quietly : Noticed quiet s b := noticed_refl _ _ (by rw [captured])
    have silent : Noticed quiet e (forgetMeasured e) := noticed_refl _ _ rfl
    refine ⟨_, noticed_both (noticed_both (noticed_both quietly noticed) later) silent, fun changed => ?_⟩
    have moved : ∃ k, (l.unit k).state ≠ (b.unit k).state := by
      obtain ⟨k, hk⟩ := changed
      exact ⟨k, by rw [bUnit, ← unit]; exact hk⟩
    refine has_both_left (has_both_left ?_ _) _
    rw [quiet_both]
    exact has moved

/-! ### BREAK (R129, R11) -/

theorem setBreakFlag_noticed (b : Bool) (s : State) :
    Noticed (everywhereIf (decide (s.line.breakFlag ≠ b)) .line) s (setBreakFlag b s) := by
  unfold setBreakFlag
  by_cases same : s.line.breakFlag = b
  · rw [if_pos same, decide_eq_false (not_not_intro same)]
    exact noticed_refl _ _ rfl
  · rw [if_neg same, decide_eq_true same]
    exact raiseAll_noticed rfl .line

/-- What ends a break: the staged tune is gone and the line is STOPPED with the break flag set (R11). -/
structure LineBroken (s t : State) : Prop where
  rest : ∃ h P, t = { s with
    line := { s.line with state := .stopped, breakFlag := true, stagedTune := none, holds := h }, ports := P }
  notices : OnlyNotices s t

theorem lineBroken (s : State) : LineBroken s (setBreakFlag true (enterLineState .stopped (discardTune s))) := by
  have entered := enterLineState_eq .stopped (discardTune s)
  have enteredNotices : OnlyNotices (discardTune s) (enterLineState .stopped (discardTune s)) :=
    (consequent_enterLineState .stopped (discardTune s)).notices
  generalize enterLineState .stopped (discardTune s) = u at entered enteredNotices
  have flagged := setBreakFlag_eq true u
  have flaggedNotices := setBreakFlag_onlyNotices true u
  generalize setBreakFlag true u = t at flagged flaggedNotices
  have one : ∃ h P, u = { discardTune s with line := { (discardTune s).line with state := .stopped, holds := h }, ports := P } :=
    ⟨_, _, entered⟩
  have two : ∃ P, t = { u with line := { u.line with breakFlag := true }, ports := P } := ⟨_, flagged⟩
  refine ⟨?_, ?_⟩
  · clear * - one two
    obtain ⟨_, _, rfl⟩ := one
    obtain ⟨_, rfl⟩ := two
    exact ⟨_, _, rfl⟩
  · have silent : OnlyNotices s (discardTune s) := ⟨quiet, noticed_refl _ _ rfl⟩
    exact (silent.trans enteredNotices).trans flaggedNotices

/-- A break taken in STOPPED with no plan. -/
theorem break_flag {p : Port} {s : State} (h : Admitted .brk p [] s) (stopped : s.line.state = .stopped)
    (plan : s.roll.plan = none) :
    ∃ t, exec (.brk p []) s = .next t ∧ t = { s with line := { s.line with breakFlag := true }, ports := t.ports } ∧
      Answered .brk p [] .ok [] (everywhereIf (!s.line.breakFlag) .line) s t := by
  refine request_noticed { s with line := { s.line with breakFlag := true } } rfl h fun P _ => ?_
  have only : onlyBreakFlag { s with ports := P } = true := by simp [onlyBreakFlag, stopped, plan]
  have rest := setBreakFlag_eq true { s with ports := P }
  have noticed := setBreakFlag_noticed true { s with ports := P }
  have taken : takeBreak { s with ports := P } = setBreakFlag true { s with ports := P } := if_pos only
  refine ⟨setBreakFlag true { s with ports := P }, by rw [brkBody, taken]; rfl, rest, fun q => ?_⟩
  have flag : decide (s.line.breakFlag ≠ true) = !s.line.breakFlag := by cases s.line.breakFlag <;> rfl
  rw [← flag]
  exact noticed q

/-- A break with a plan standing: the blocks in turn. -/
theorem break_taken {p : Port} {s : State} {q : Plan} (h : Admitted .brk p [] s) (plan : s.roll.plan = some q) :
    ∃ a b c t : State, exec (.brk p []) s = .next t ∧ a = { s with ports := a.ports } ∧ RollsBroken q a b ∧
      BlocksBroken b c ∧ (∃ y, LineBroken c y ∧ t = { y with ports := t.ports } ∧
      ∀ raised, Noticed raised a y → Answered .brk p [] .ok [] raised s t) := by
  let a : State := received .brk p [] s
  have same : a = { s with ports := a.ports } := received_eq ..
  have aPlan : a.roll.plan = some q := by rw [same]; exact plan
  have standing : ¬ onlyBreakFlag a = true := by simp [onlyBreakFlag, aPlan]
  have taken : takeBreak a = setBreakFlag true (enterLineState .stopped (discardTune (breakBlocks (breakRolls a)))) :=
    if_neg standing
  have made : takeRequest .brk p [] (brkBody p) s = takeInput .brk p (respond p Req.brk.role.code .ok []
      (setBreakFlag true (enterLineState .stopped (discardTune (breakBlocks (breakRolls a)))))) := by
    rw [takeRequest_admitted _ h, brkBody, ← taken]
    rfl
  refine ⟨a, breakRolls a, breakBlocks (breakRolls a), _, congrArg Host.Outcome.next made, same, breakRolls_broken aPlan,
    breakBlocks_broken _, _, lineBroken _, ?_, fun raised noticed => answered_of h noticed⟩
  exact answered_sameButPorts .brk p Req.brk.role.code .ok [] _

/-- A record takes no more samples than the segment removes from the queue. -/
theorem samplesTaken_le (start c : Pos) (r : RollRecord) (queue : List Sample) :
    (samplesTaken start c r queue).length ≤ (queue.filter (fun x => decide (x.position < c))).length := by
  unfold samplesTaken
  split
  · have sub : (queue.filter (fun x => decide (start ≤ x.position ∧ x.position < c))).Sublist
        (queue.filter (fun x => decide (x.position < c))) := List.monotone_filter_right queue fun x hx => by
      simp only [decide_eq_true_eq] at hx ⊢
      exact hx.2
    exact (List.length_take_le' ..).trans sub.length_le
  · exact Nat.zero_le _

/-- The queue splits at the end of the segment. -/
theorem queue_split (c : Pos) (queue : List Sample) :
    (queue.filter (fun x => decide (x.position < c))).length + (queue.filter (fun x => decide (c ≤ x.position))).length =
      queue.length := by
  have other : (fun x : Sample => decide (c ≤ x.position)) = fun x => !decide (x.position < c) := by
    funext x
    rw [← decide_not]
    exact decide_eq_decide.2 not_lt.symm
  rw [other]
  exact (List.length_eq_length_filter_add fun x : Sample => decide (x.position < c)).symm

/-- The samples that a break leaves as waste: those of the segment that its record does not take, and those behind. -/
theorem samples_broken {q : Plan} {c : Pos} {s b t : State}
    (queue : b.shade.queue = s.shade.queue.filter (fun x => decide (c ≤ x.position)))
    (wasted : SamplesWasted q c (s.shade.queue.filter (fun x => decide (x.position < c))) s b)
    (rest : t.shade.wasteSamples = min 4294967295 (b.shade.wasteSamples + b.shade.queue.length)) :
    SamplesWasted q c s.shade.queue s t := by
  intro fits
  have counted := wasted fits
  have split := queue_split c s.shade.queue
  rw [rest, counted, queue]
  cases tracked : q.record with
  | none =>
    dsimp only
    omega
  | some i =>
    have taken := samplesTaken_le q.start c (s.record i) s.shade.queue
    dsimp only
    omega

/-- Settles O30: with no plan only the flag is set; with one the rolls, the other blocks and the line are broken in turn. -/
theorem breakEndsSegment : Obligations.BreakEndsSegment := by
  refine ⟨fun p s h stopped plan => break_flag h stopped plan, fun p s q h plan => ?_⟩
  obtain ⟨a, b, c, t, made, same, rolls, blocks, y, line, ht, answered⟩ := break_taken h plan
  obtain ⟨P, rfl⟩ : ∃ P, a = { s with ports := P } := ⟨_, same⟩
  obtain ⟨raised, noticed, cut⟩ := rolls.raised
  obtain ⟨more, later, register⟩ := blocks.noticed
  obtain ⟨last, final⟩ := line.notices
  have tLine : ∃ h P, t = { c with line := { c.line with state := .stopped, breakFlag := true, stagedTune := none, holds := h }, ports := P } := by
    obtain ⟨_, _, rest⟩ := line.rest
    rw [ht, rest]
    exact ⟨_, _, rfl⟩
  have bRest : ∃ h M R S L O P, b = { s with
      line := { s.line with holds := h }, map := { s.map with entries := M }, roll := R, shade := S, label := L
      store := O, ports := P } := rolls.rest
  have roll : t.roll = b.roll := by
    obtain ⟨_, _, tLine⟩ := tLine
    obtain ⟨_, _, _, _, _, cRest⟩ := blocks.rest
    rw [tLine, cRest]
  have record (i : Fin 24) : t.record i = b.record i := by rw [State.record, roll]; rfl
  have shade : t.shade = c.shade := by
    obtain ⟨_, _, tLine⟩ := tLine
    rw [tLine]
  have capture : t.capture = c.capture := by
    obtain ⟨_, _, tLine⟩ := tLine
    rw [tLine]
  have channel (ch : Channel) : t.channel ch = c.channel ch := by rw [State.channel, capture]; rfl
  have register' : t.register = c.register := by
    obtain ⟨_, _, tLine⟩ := tLine
    rw [tLine]
  have unit (k : Fin 7) : t.unit k = c.unit k := by rw [State.unit, register']; rfl
  have bUnit (k : Fin 7) : b.unit k = s.unit k := by
    obtain ⟨_, _, _, _, _, _, _, bRest⟩ := bRest
    rw [bRest]
    rfl
  have emboss : t.emboss = c.emboss := by
    obtain ⟨_, _, tLine⟩ := tLine
    rw [tLine]
  have bEmboss : b.emboss = s.emboss := by
    obtain ⟨_, _, _, _, _, _, _, bRest⟩ := bRest
    rw [bRest]
  have bChannel (ch : Channel) : b.channel ch = s.channel ch := by
    obtain ⟨_, _, _, _, _, _, _, bRest⟩ := bRest
    rw [bRest]
    rfl
  have outside : t.web = s.web ∧ t.recipe = s.recipe ∧ t.geometry = s.geometry ∧ t.nv = s.nv ∧ t.line.state = .stopped ∧
      t.line.breakFlag = true ∧ t.line.stagedTune = none ∧ t.clock = { s.clock with
        k0 := none, measured := [], stretch := none, stretchOver := false, previousKey := none } ∧
      t.register = { s.register with units := t.register.units } ∧ t.map = brokenMap b := by
    obtain ⟨_, _, tLine⟩ := tLine
    obtain ⟨_, _, _, _, _, cRest⟩ := blocks.rest
    obtain ⟨_, _, _, _, _, _, _, bRest⟩ := bRest
    rw [tLine, cRest, bRest]
    exact ⟨rfl, rfl, rfl, rfl, rfl, rfl, rfl, rfl, rfl, rfl⟩
  obtain ⟨web, recipe, geometry, nv, state, flag, tune, clock, registers, map⟩ := outside
  obtain ⟨planGone, transport, cuts⟩ := rolls.roll
  refine ⟨t, _, made, answered _ (noticed_both (noticed_both noticed later) final),
    fun some => has_both_left (has_both_left (cut some) _) _, web, recipe, geometry, nv, state, flag, tune, ?_, ?_, ?_, ?_,
    clock, ?_, ?_, ?_, ?_, ?_, fun ch => ?_, ?_, ?_, fun notParked => ?_, ⟨unverifiedMap b, ?_, fun enabled running => ?_,
      fun disabled => ?_⟩, registers, fun k => ?_, ?_, fun changed => ?_, ⟨?_, fun y i hy ends sale => ?_⟩,
    fun aw fits => ?_, fun aw => ?_, fun i hi sale aw => ?_, fun i hi waste aw => ?_, fun j hj aw => ?_, ?_,
    fun i hi sale => ?_⟩
  · rw [roll]; exact planGone
  · rw [roll]; exact transport
  · rw [shade, blocks.samples]
  · rw [shade, blocks.samples]
  · rw [capture]; exact blocks.frame
  · rw [channel]; exact blocks.key.1
  · rw [channel]; exact blocks.key.2
  · rw [channel]; exact blocks.index.1
  · rw [channel]; exact blocks.index.2
  · rw [channel, blocks.enabled, bChannel]
  · rw [emboss]; exact blocks.held
  · rw [emboss, blocks.nip, bEmboss]
  · rw [emboss]
    exact blocks.ordered (by rw [bEmboss]; exact notParked)
  · have joined := addAged_joined (openedEntry .register b.web.w .unverified) { b.map with entries := [] }
    obtain ⟨_, _, _, _, _, _, _, bRest⟩ := bRest
    have same : (({ b.map with entries := [] } : WebMap) = { s.map with entries := [] }) ∧ b.web = s.web := by
      rw [bRest]
      exact ⟨rfl, rfl⟩
    unfold unverifiedMap
    rw [same.1, same.2] at joined ⊢
    exact joined
  · have judges : judgesEmboss b = true := (judgesEmboss_iff b).2 (by
      obtain ⟨_, _, _, _, _, _, _, bRest⟩ := bRest
      rw [bRest]
      exact ⟨enabled, running⟩)
    have entry : embossEntry b = (s.web.w : Int) - s.geometry.dE := by
      obtain ⟨_, _, _, _, _, _, _, bRest⟩ := bRest
      rw [embossEntry, bRest]
    rw [map, brokenMap, if_pos judges, entry]
    exact addAged_joined _ _
  · have idle : judgesEmboss b ≠ true := fun judges => disabled (by
      have enabled := ((judgesEmboss_iff b).1 judges).1
      obtain ⟨_, _, _, _, _, _, _, bRest⟩ := bRest
      rw [bRest] at enabled
      exact enabled)
    rw [map, brokenMap, if_neg idle]
  · rw [unit, blocks.unit, bUnit]
  · rw [emboss, blocks.channel, bEmboss]
  · have moved : ∃ k, (c.unit k).state ≠ (b.unit k).state := by
      obtain ⟨k, hk⟩ := changed
      exact ⟨k, by rw [bUnit, ← unit]; exact hk⟩
    refine has_both_left ?_ _
    rw [both_comm]
    exact has_both_left (register moved) _
  · rw [roll]; exact rolls.awaited.last
  · rw [record]; exact rolls.awaited.graded y i hy ends sale
  · rw [roll]; exact rolls.waste aw fits
  · refine samples_broken rolls.queue (rolls.samples aw) ?_
    rw [shade, blocks.samples]
  · rw [record]; exact rolls.share i hi sale aw
  · rw [record]; exact rolls.free i hi waste aw
  · rw [record]; exact rolls.others j hj aw
  · rw [roll, cuts]
    rfl
  · rw [record]; exact rolls.sale i hi sale

end Sys2Proof.Breaking

/-! ## The events of the order store (10) -/

namespace Sys2Proof.Storing

open Sys2Proof.Machine Sys2Proof.Safety Sys2Proof.Porting Sys2Proof.Answering Sys2Proof.Cutting

/-! ### The head of the store queue starts (R167, R168) -/

/-- An operation of the queue that would neither be given up at its slot nor refused for want of room. -/
def Accepted (op : StoreOp) (s : State) : Prop := targetDegraded op s = false ∧ appendIsFull op s = false

theorem dealHead_starts {op : StoreOp} {later : List StoreOp} {s : State} (fuel : Nat)
    (queue : s.store.queue = op :: later) (accepted : Accepted op s) (enabled : s.store.enabled = true) :
    dealHead (fuel + 1) s = startHead op (sampleEnable s) := by
  obtain ⟨sound, room⟩ := accepted
  rw [dealHead, queue]
  simp only [sound, room, enabled, Bool.false_eq_true, if_false, if_true, ite_self]

theorem accepted_iff {op : StoreOp} {s : State} : Accepted op s ↔
    (∀ n, op.slot? = some n → (s.dir n).state ≠ .degraded) ∧
      (∀ n i, op = .journalAppend n i → (s.dir n).count < 1024) := by
  have slot : targetDegraded op s = false ↔ ∀ n, op.slot? = some n → (s.dir n).state ≠ .degraded := by
    unfold targetDegraded
    cases op.slot? <;> simp
  have full : appendIsFull op s = false ↔ ∀ n i, op = .journalAppend n i → (s.dir n).count < 1024 := by
    cases op with
    | journalAppend n i =>
      have reading : appendIsFull (.journalAppend n i) s = false ↔ (s.dir n).count < 1024 := by
        unfold appendIsFull
        rw [decide_eq_false_iff_not, not_le]
        rfl
      refine reading.trans ⟨fun h m j same => ?_, fun h => h n i rfl⟩
      cases same
      exact h
    | geometryRead | slotRead | journalRead | headerWrite | recipeWrite | batchWrite | geometryWrite | slotErase =>
      exact ⟨fun _ _ _ h => (nomatch h), fun _ => rfl⟩
  exact and_congr slot full

/-- What a head that starts leaves, `c` the content it takes from the part (R150, R162, R172). -/
structure HeadStarted (op : StoreOp) (c : InFlight) (s t : State) : Prop where
  rest : t = { s with
    roll := { s.roll with records := t.roll.records }, shade := { s.shade with batches := t.shade.batches }
    store := { s.store with head := .running c } }
  header : ∀ n w, op = .headerWrite n w →
    ∃ h, c = .header h ∧ h.order = (s.dir n).order ∧ h.run = (s.dir n).run ∧
      h.count = (s.dir n).count ∧ h.full = (s.dir n).full
  batch : ∀ n k b, op = .batchWrite n k → s.batch k = some b → c = .batch { b with save := .saved }
  summary : ∀ n i, op = .journalAppend n i → (t.record i).journal = some .writing ∧ c = .summary (s.record i).summary

theorem startHead_started (op : StoreOp) (s : State) : ∃ c, HeadStarted op c s (startHead op s) := by
  cases op with
  | headerWrite n w =>
    refine ⟨.header (s.dir n).header, rfl, fun m v same => ?_, fun _ _ _ h => (nomatch h), fun _ _ h => (nomatch h)⟩
    cases same
    exact ⟨_, rfl, rfl, rfl, rfl, rfl⟩
  | batchWrite n k =>
    cases found : s.batch k with
    | none =>
      have made : startHead (.batchWrite n k) s = { s with store := { s.store with head := .running .nothing } } := by
        rw [startHead, found]
      rw [made]
      refine ⟨.nothing, rfl, fun _ _ h => (nomatch h), fun _ _ _ h b => ?_, fun _ _ h => (nomatch h)⟩
      cases h
      rw [found] at b
      cases b
    | some b =>
      refine ⟨.batch { b with save := .saved }, ?_, fun _ _ h => (nomatch h), fun _ _ x h same => ?_,
        fun _ _ h => (nomatch h)⟩
      · rw [startHead, found]
        rfl
      · cases h
        rw [found] at same
        cases same
        rfl
  | journalAppend n i =>
    refine ⟨.summary (s.record i).summary, ?_, fun _ _ h => (nomatch h), fun _ _ _ h => (nomatch h), fun _ _ h => ?_⟩
    · rw [startHead, modifyRecord_eq]
    · cases h
      obtain ⟨_, written⟩ := modifyRecord_written i (fun r => { r with journal := some .writing }) s
      exact ⟨congrArg RollRecord.journal written, rfl⟩
  | geometryRead | slotRead | journalRead | recipeWrite | geometryWrite | slotErase =>
    exact ⟨.nothing, rfl, fun _ _ h => (nomatch h), fun _ _ _ h => (nomatch h), fun _ _ h => (nomatch h)⟩

/-! ### STORE_EN (R168) -/

theorem storeEnRise_starts {s : State} {op : StoreOp} {rest : List StoreOp} (waits : s.store.head = .waiting)
    (queue : s.store.queue = op :: rest) (accepted : Accepted op s) :
    storeEnRise s = startHead op (sampleEnable (setEnable true s)) := by
  have started : dealHead headFuel (setEnable true s) = startHead op (sampleEnable (setEnable true s)) :=
    dealHead_starts 63 queue accepted rfl
  have busy : (startHead op (sampleEnable (setEnable true s))).store.queue ≠ [] := by
    rw [Limits.startHead_queue]
    show s.store.queue ≠ []
    rw [queue]
    exact List.cons_ne_nil _ _
  rw [storeEnRise, waits]
  dsimp only
  rw [started, advanceClosing_waits (.inr busy)]

/-! ### The ends of operations that are not in progress -/

theorem geometryReadEnd_other {f : BitVec 5} {s : State} (h : ∀ c, inProgress s ≠ some (.geometryRead, c)) :
    geometryReadEnd f s = s := by
  unfold geometryReadEnd
  split
  · rename_i heq; exact absurd heq (h _)
  · rfl

theorem slotReadEnd_other {v : Bool} {s : State} (h : ∀ n c, inProgress s ≠ some (.slotRead n, c)) :
    slotReadEnd v s = s := by
  unfold slotReadEnd
  split
  · rename_i heq; exact absurd heq (h _ _)
  · rfl

theorem journalReadEnd_other {v : Bool} {s : State} (h : ∀ n k p c, inProgress s ≠ some (.journalRead n k p, c)) :
    journalReadEnd v s = s := by
  unfold journalReadEnd
  split
  · rename_i heq; exact absurd heq (h _ _ _ _)
  · rfl

theorem headerWriteEnd_other {v : Bool} {s : State} (h : ∀ n w c, inProgress s ≠ some (.headerWrite n w, c)) :
    headerWriteEnd v s = s := by
  unfold headerWriteEnd
  split
  · rename_i heq; exact absurd heq (h _ _ _)
  · rfl

theorem recipeWriteEnd_other {v : Bool} {s : State} (h : ∀ n r c, inProgress s ≠ some (.recipeWrite n r, c)) :
    recipeWriteEnd v s = s := by
  unfold recipeWriteEnd
  split
  · rename_i heq; exact absurd heq (h _ _ _)
  · rfl

theorem batchWriteEnd_other {v : Bool} {s : State} (h : ∀ n k c, inProgress s ≠ some (.batchWrite n k, c)) :
    batchWriteEnd v s = s := by
  unfold batchWriteEnd
  split
  · rename_i heq; exact absurd heq (h _ _ _)
  · rfl

theorem journalAppendEnd_other {v : Bool} {s : State} (h : ∀ n i c, inProgress s ≠ some (.journalAppend n i, c)) :
    journalAppendEnd v s = s := by
  unfold journalAppendEnd
  split
  · rename_i heq; exact absurd heq (h _ _ _)
  · rfl

theorem geometryWriteEnd_other {v : Bool} {s : State} (h : ∀ g c, inProgress s ≠ some (.geometryWrite g, c)) :
    geometryWriteEnd v s = s := by
  unfold geometryWriteEnd
  split
  · rename_i heq; exact absurd heq (h _ _)
  · rfl

theorem slotEraseEnd_other {v : Bool} {s : State} (h : ∀ n c, inProgress s ≠ some (.slotErase n, c)) :
    slotEraseEnd v s = s := by
  unfold slotEraseEnd
  split
  · rename_i heq; exact absurd heq (h _ _)
  · rfl

/-- Settles O39: a rise of STORE_EN deals with the waiting head, which starts, and each end looks for its own operation
at the head. -/
theorem storeEvents : Obligations.StoreEvents := by
  refine ⟨fun s => rfl, fun s h => congrArg Host.Outcome.next ?_, fun s op rest waits queue write sound room => ?_,
    fun s f v => ⟨fun h => ?_, fun h => ?_, fun h => ?_, fun h => ?_, fun h => ?_, fun h => ?_, fun h => ?_, fun h => ?_,
      fun h => ?_⟩⟩
  · unfold storeEnRise
    cases head : s.store.head with
    | waiting => exact absurd head h
    | absent => rfl
    | running => rfl
  · have started := storeEnRise_starts waits queue (accepted_iff.2 ⟨sound, room⟩)
    obtain ⟨c, h⟩ := startHead_started op (sampleEnable (setEnable true s))
    refine ⟨storeEnRise s, c, rfl, ?_, ?_, ?_, ?_⟩
    · rw [started]
      exact h.rest
    · exact h.header
    · exact h.batch
    · intro n i append
      obtain ⟨writing, content⟩ := h.summary n i append
      rw [started]
      exact ⟨writing, _, content, rfl, rfl, rfl, rfl, rfl⟩
  · exact congrArg _ (geometryReadEnd_other h)
  · exact congrArg _ (slotReadEnd_other h)
  · exact congrArg _ (journalReadEnd_other h)
  · exact congrArg _ (headerWriteEnd_other h)
  · exact congrArg _ (recipeWriteEnd_other h)
  · exact congrArg _ (batchWriteEnd_other h)
  · exact congrArg _ (journalAppendEnd_other h)
  · exact congrArg _ (geometryWriteEnd_other h)
  · exact congrArg _ (slotEraseEnd_other h)

end Sys2Proof.Storing

/-! ## What follows the end of a store operation (R16, R161, R167) -/

namespace Sys2Proof.Following

open Sys2Proof.Machine Sys2Proof.Safety Sys2Proof.Starting Sys2Proof.Reporting Sys2Proof.Batching Sys2Proof.Porting
  Sys2Proof.Answering Sys2Proof.Cutting Sys2Proof.Storing

theorem StoreSide.trans {s t u : State} (a : StoreSide s t) (b : StoreSide t u) : StoreSide s u := by
  unfold StoreSide at *
  rw [b, a]

theorem modifyDir_dir (n : Fin 4) (f : DirectoryEntry → DirectoryEntry) (s : State) (m : Fin 4) :
    (modifyDir n f s).dir m = if m = n then f (s.dir m) else s.dir m := by
  simp only [State.dir, modifyDir, table_get_modify]
  by_cases h : m = n
  · rw [if_pos h, if_pos h.symm, h]
  · rw [if_neg h, if_neg (Ne.symm h)]

/-! ### What the store's own moves keep -/

/-- A directory entry beside which the store queue moved on; `closing` is whether the line is in CLOSING, which may then
mark the entry CLOSED. -/
structure EntryKept (closing : Prop) (d e : DirectoryEntry) : Prop where
  order : e.order = d.order
  run : e.run = d.run
  count : e.count = d.count
  full : d.state = .degraded ∨ d.count < 1024 → e.full = d.full
  degraded : d.state = .degraded → e.state = .degraded
  state : ¬ closing → e.state = d.state
  erase : d.erasePending = false → e.erasePending = false

theorem EntryKept.refl (closing : Prop) (d : DirectoryEntry) : EntryKept closing d d :=
  ⟨rfl, rfl, rfl, fun _ => rfl, id, fun _ => rfl, id⟩

theorem EntryKept.trans {p q : Prop} {d e f : DirectoryEntry} (a : EntryKept p d e) (b : EntryKept q e f)
    (h : ¬ p → ¬ q) : EntryKept p d f where
  order := b.order.trans a.order
  run := b.run.trans a.run
  count := b.count.trans a.count
  full room := by
    refine (b.full ?_).trans (a.full room)
    rw [a.count]
    exact room.imp_left a.degraded
  degraded := b.degraded ∘ a.degraded
  state np := (b.state (h np)).trans (a.state np)
  erase := b.erase ∘ a.erase

/-- No batch waits for a place of the store queue or holds one. -/
structure BatchesRest (s : State) : Prop where
  saved : ∀ b ∈ s.shade.batches, b.save ≠ .unsaved
  queue : ∀ n k, .batchWrite n k ∉ s.store.queue

/-- What the moves of the store queue leave as it was: the medium, the entries, the FREE records, the UNSAVED batches
while no slot is writable, every batch while none waits, and outside CLOSING the line. -/
structure MovedOn (s t : State) : Prop where
  side : StoreSide s t
  nv : t.nv = s.nv
  valid : t.line.geometryValid = s.line.geometryValid
  line : s.line.state ≠ .closing → t.line = { s.line with holds := t.line.holds }
  slot : t.line.slot = s.line.slot ∨ t.line.slot = none
  entry : ∀ n, EntryKept (s.line.state = .closing) (s.dir n) (t.dir n)
  free : ∀ i, (s.record i).state = .free → (t.record i).state = .free
  labels : t.label.entries = s.label.entries
  notices : OnlyNotices s t
  unsaved : writableSlot s = none → ∀ k x, s.batch k = some x → x.save = .unsaved → t.batch k = some x
  rest : BatchesRest s → BatchesRest t ∧ t.shade = s.shade

theorem MovedOn.refl (s : State) : MovedOn s s :=
  ⟨rfl, rfl, rfl, fun _ => rfl, .inl rfl, fun _ => .refl _ _, fun _ => id, rfl, .refl s, fun _ _ _ h _ => h,
    fun h => ⟨h, rfl⟩⟩

theorem MovedOn.notClosing {s t : State} (h : MovedOn s t) (hs : s.line.state ≠ .closing) : t.line.state ≠ .closing := by
  rw [h.line hs]
  exact hs

theorem writableSlot_none_iff {s : State} : writableSlot s = none ↔
    ∀ n, s.line.slot = some n → (s.dir n).state = .degraded ∨ s.line.state = .opening := by
  unfold writableSlot
  cases s.line.slot with
  | none => simp
  | some n =>
    simp only [ite_eq_left_iff, reduceCtorEq, imp_false, not_not, Option.some.injEq, forall_eq']

theorem MovedOn.unwritable {s t : State} (h : MovedOn s t) (hs : writableSlot s = none) : writableSlot t = none := by
  rw [writableSlot_none_iff] at hs ⊢
  intro n hn
  have slot : s.line.slot = some n := h.slot.elim (fun same => same ▸ hn) (fun gone => by rw [gone] at hn; cases hn)
  refine (hs n slot).imp (h.entry n).degraded fun opening => ?_
  rw [h.line (by rw [opening]; decide)]
  exact opening

theorem MovedOn.trans {s t u : State} (a : MovedOn s t) (b : MovedOn t u) : MovedOn s u where
  side := StoreSide.trans a.side b.side
  nv := b.nv.trans a.nv
  valid := b.valid.trans a.valid
  line hs := by
    rw [b.line (a.notClosing hs), a.line hs]
  slot := b.slot.elim (fun same => same ▸ a.slot) .inr
  entry n := (a.entry n).trans (b.entry n) a.notClosing
  free i := b.free i ∘ a.free i
  labels := b.labels.trans a.labels
  notices := a.notices.trans b.notices
  unsaved hs k x hx hu := b.unsaved (a.unwritable hs) k x (a.unsaved hs k x hx hu) hu
  rest hs := ⟨(b.rest (a.rest hs).1).1, (b.rest (a.rest hs).1).2.trans (a.rest hs).2⟩

/-- A move that leaves the line, the directory, the batches and the roll records. -/
theorem MovedOn.of_store {s t : State} (side : StoreSide s t) (nv : t.nv = s.nv) (line : t.line = s.line)
    (dir : t.store.directory = s.store.directory) (roll : t.roll = s.roll) (shade : t.shade = s.shade)
    (labels : t.label.entries = s.label.entries)
    (queue : ∀ n k, StoreOp.batchWrite n k ∈ t.store.queue → .batchWrite n k ∈ s.store.queue)
    (notices : OnlyNotices s t) : MovedOn s t where
  side := side
  nv := nv
  valid := by rw [line]
  line _ := by rw [line]
  slot := .inl (by rw [line])
  entry n := by
    rw [show t.dir n = s.dir n from congrArg (fun d => d.get n) dir]
    exact .refl _ _
  free i := by
    rw [show t.record i = s.record i from congrArg (fun r => r.records.get i) roll]
    exact id
  labels := labels
  notices := notices
  unsaved _ k x hx _ := by
    rw [← hx]
    exact congrArg (fun b : ShadeClassifier => b.batches.find? (fun y => y.number == k)) shade
  rest h := ⟨⟨by rw [shade]; exact h.saved, fun n k hk => h.queue n k (queue n k hk)⟩, shade⟩

/-! ### The roll records -/

theorem movedOn_raiseAll (n : Notice) (s : State) : MovedOn s (s.raiseAll n) := by
  have notices := (consequent_raiseAll n s).notices
  have eq : ∃ P, s.raiseAll n = { s with ports := P } := ⟨_, rfl⟩
  obtain ⟨P, eq⟩ := eq
  rw [eq] at notices ⊢
  exact .of_store rfl rfl rfl rfl rfl rfl rfl (fun _ _ => id) notices

theorem movedOn_evalHolds (s : State) : MovedOn s (evalHolds s) := by
  have notices := onlyNotices_evalHolds s
  have eq := evalHolds_eq s
  generalize evalHolds s = t at notices eq
  have eq : ∃ H P, t = { s with line := { s.line with holds := H }, ports := P } := ⟨_, _, eq⟩
  obtain ⟨H, P, rfl⟩ := eq
  exact ⟨rfl, rfl, rfl, fun _ => rfl, .inl rfl, fun _ => .refl _ _, fun _ => id, rfl, notices, fun _ _ _ h _ => h,
    fun h => ⟨⟨h.saved, h.queue⟩, rfl⟩⟩

theorem movedOn_modifyRecord (i : Fin 24) {f : RollRecord → RollRecord} (s : State)
    (free : ∀ r, r.state = .free → (f r).state = .free) : MovedOn s (modifyRecord i f s) := by
  have notices := (consequent_modifyRecord i f s).notices
  have kept (j : Fin 24) (h : (s.record j).state = .free) : ((modifyRecord i f s).record j).state = .free := by
    by_cases same : i = j
    · rw [← same, modifyRecord_field RollRecord.state i f s fun _ _ => rfl]
      rw [← same] at h
      exact free _ h
    · rw [modifyRecord_other i j f s same]
      exact h
  have eq := modifyRecord_eq i f s
  generalize modifyRecord i f s = t at notices kept eq
  have eq : ∃ R, t = { s with roll := { s.roll with records := R } } := ⟨_, eq⟩
  obtain ⟨R, rfl⟩ := eq
  exact ⟨rfl, rfl, rfl, fun _ => rfl, .inl rfl, fun _ => .refl _ _, kept, rfl, notices, fun _ _ _ h _ => h,
    fun h => ⟨⟨h.saved, h.queue⟩, rfl⟩⟩

theorem movedOn_freeRecord (i : Fin 24) (s : State) : MovedOn s (freeRecord i s) :=
  (movedOn_modifyRecord i s fun _ _ => rfl).trans (movedOn_evalHolds _)

theorem movedOn_releaseUnjournalled (i : Fin 24) (s : State) : MovedOn s (releaseUnjournalled i s) :=
  (movedOn_freeRecord i s).trans
    (.of_store rfl rfl rfl rfl rfl rfl rfl (fun _ _ => id) (Consequent.of_eq rfl rfl).notices)

theorem movedOn_releaseWaiting (fuel : Nat) (s : State) : MovedOn s (releaseWaiting fuel s) := by
  induction fuel generalizing s with
  | zero => exact .refl s
  | succ fuel ih =>
    unfold releaseWaiting
    split
    · exact (movedOn_releaseUnjournalled _ s).trans (ih _)
    · exact .refl s

theorem movedOn_settleJournalPath (s : State) : MovedOn s (settleJournalPath s) := by
  unfold settleJournalPath
  split
  · exact movedOn_releaseWaiting 24 s
  · exact .refl s

/-! ### The places of the queue -/

theorem movedOn_pushOp {op : StoreOp} (hop : ∀ n k, op ≠ .batchWrite n k) (s : State) : MovedOn s (pushOp op s) :=
  .of_store rfl rfl rfl rfl rfl rfl rfl
    (fun n k h => (List.mem_append.1 h).elim id fun h => absurd (List.mem_singleton.1 h).symm (hop n k))
    (Consequent.of_eq rfl rfl).notices

theorem movedOn_releaseHead (s : State) : MovedOn s (releaseHead s) :=
  .of_store rfl rfl rfl rfl rfl rfl rfl (fun _ _ => List.mem_of_mem_tail) (Consequent.of_eq rfl rfl).notices

theorem movedOn_pushAppend (n : Fin 4) (i : Fin 24) (s : State) : MovedOn s (pushAppend n i s) :=
  (movedOn_pushOp (op := .journalAppend n i) (fun _ _ h => by cases h) s).trans (movedOn_modifyRecord i _ fun _ => id)

/-- Only a batch that waits takes a place, and only at a writable slot. -/
theorem movedOn_pushBatchWrite {n : Fin 4} {b : Batch} {s : State} (hn : writableSlot s = some n)
    (hb : lowestUnsaved s = some b) : MovedOn s (pushBatchWrite n b s) := by
  have waits : ¬ BatchesRest s := fun h => by
    have none : s.shade.batches.filter (fun b => b.save == .unsaved) = [] :=
      List.filter_eq_nil_iff.2 fun x hx hu => h.saved x hx (beq_iff_eq.1 hu)
    rw [lowestUnsaved, none] at hb
    cases hb
  exact ⟨rfl, rfl, rfl, fun _ => rfl, .inl rfl, fun _ => .refl _ _, fun _ => id, rfl, (Consequent.of_eq rfl rfl).notices,
    fun h => absurd (h.symm.trans hn) (fun no => (nomatch no)), fun h => absurd h waits⟩

theorem movedOn_takePlaces (fuel : Nat) (s : State) : MovedOn s (takePlaces fuel s) := by
  induction fuel generalizing s with
  | zero => exact .refl s
  | succ fuel ih =>
    unfold takePlaces
    split
    · exact .refl s
    · split
      · rename_i hn hb
        exact (movedOn_pushBatchWrite hn hb).trans (ih _)
      · split
        · exact (movedOn_pushAppend _ _ s).trans (ih _)
        · exact .refl s
      · exact .refl s

/-- The places taken lie behind the operations that stood. -/
theorem takePlaces_queue (fuel : Nat) (s : State) :
    ∃ more, (takePlaces fuel s).store.queue = s.store.queue ++ more := by
  induction fuel generalizing s with
  | zero => exact ⟨[], (List.append_nil _).symm⟩
  | succ fuel ih =>
    have stay : ∃ more, s.store.queue = s.store.queue ++ more := ⟨[], (List.append_nil _).symm⟩
    have push {op : StoreOp} {u : State} (hu : u.store.queue = s.store.queue ++ [op]) :
        ∃ more, (takePlaces fuel u).store.queue = s.store.queue ++ more := by
      obtain ⟨more, h⟩ := ih u
      exact ⟨op :: more, by rw [h, hu, List.append_assoc]; rfl⟩
    unfold takePlaces
    split
    · exact stay
    · split
      · exact push rfl
      · split
        · rename_i n i _ _
          refine push (op := .journalAppend n i) ?_
          rw [pushAppend, modifyRecord_eq]
          rfl
        · exact stay
      · exact stay

/-! ### The head of the queue -/

/-- A change of the save state that leaves an UNSAVED batch, at a batch that holds a place. -/
theorem movedOn_modifyBatch {k : Nat} {f : Batch → Batch} {s : State} (number : ∀ b, (f b).number = b.number)
    (unsaved : ∀ b, b.save = .unsaved → f b = b) (held : ∃ n, StoreOp.batchWrite n k ∈ s.store.queue) :
    MovedOn s (modifyBatch k f s) := by
  refine ⟨rfl, rfl, rfl, fun _ => rfl, .inl rfl, fun _ => .refl _ _, fun _ => id, rfl, (Consequent.of_eq rfl rfl).notices,
    fun _ j x hx hu => ?_, fun h => ?_⟩
  · rw [modifyBatch_batch number, hx, Option.map_some, unsaved x hu, ite_self]
  · obtain ⟨n, hn⟩ := held
    exact absurd hn (h.queue n k)

theorem movedOn_head (head : HeadState) (s : State) : MovedOn s { s with store := { s.store with head := head } } :=
  .of_store rfl rfl rfl rfl rfl rfl rfl (fun _ _ => id) (Consequent.of_eq rfl rfl).notices

theorem movedOn_sampleEnable (s : State) : MovedOn s (sampleEnable s) :=
  .of_store rfl rfl rfl rfl rfl rfl rfl (fun _ _ => id) (Consequent.of_eq rfl rfl).notices

theorem movedOn_startHead {op : StoreOp} {s : State} (hop : op ∈ s.store.queue) : MovedOn s (startHead op s) := by
  cases op with
  | batchWrite n k =>
    simp only [startHead]
    split
    · refine MovedOn.trans (movedOn_modifyBatch (fun b => ?_) (fun b hb => ?_) ⟨n, hop⟩) (movedOn_head _ _)
      · split <;> rfl
      · rw [hb, if_neg (by decide)]
    · exact movedOn_head _ s
  | journalAppend n i =>
    exact (movedOn_modifyRecord i (f := fun r => { r with journal := some .writing }) s fun _ => id).trans
      (movedOn_head _ _)
  | headerWrite | geometryRead | slotRead | journalRead | recipeWrite | geometryWrite | slotErase =>
    exact movedOn_head _ s

theorem movedOn_enterNoOrder {s : State} (closing : s.line.state = .closing) : MovedOn s (enterNoOrder s) := by
  have notices := (consequent_enterNoOrder s).notices
  obtain ⟨side, store, line⟩ := enterNoOrder_closed s (by rw [closing]; decide)
  generalize enterNoOrder s = t at notices side store line
  have eq : ∃ H P, t = { s with
      line := { s.line with
        state := .noOrder, order := none, run := none, slot := none, closing := .notClosing, holds := H }
      ports := P } := by
    refine ⟨t.line.holds, t.ports, ?_⟩
    unfold ClosingSide at side
    rw [side, store, line]
  clear side store line
  obtain ⟨H, P, rfl⟩ := eq
  exact ⟨rfl, rfl, rfl, fun h => absurd closing h, .inr rfl, fun _ => .refl _ _, fun _ => id, rfl, notices,
    fun _ _ _ h _ => h, fun h => ⟨⟨h.saved, h.queue⟩, rfl⟩⟩

theorem movedOn_closeOrderAfter (w : StoredState) (s : State) : MovedOn s (closeOrderAfter w s) := by
  unfold closeOrderAfter
  split
  · rename_i h
    exact movedOn_enterNoOrder h.1
  · exact .refl s

theorem movedOn_recordFailure (op : StoreOp) (target : Option (Fin 4)) (kind : FailureKind) (s : State) :
    MovedOn s (recordFailure op target kind s) :=
  .of_store rfl rfl rfl rfl rfl rfl rfl (fun _ _ => id) (Consequent.of_eq rfl rfl).notices

/-- A change of directory entries that every rule of the store admits. -/
theorem movedOn_modifyDir (n : Fin 4) {f : DirectoryEntry → DirectoryEntry} {s : State}
    (kept : EntryKept (s.line.state = .closing) (s.dir n) (f (s.dir n))) : MovedOn s (modifyDir n f s) := by
  refine ⟨rfl, rfl, rfl, fun _ => rfl, .inl rfl, fun m => ?_, fun _ => id, rfl, (Consequent.of_eq rfl rfl).notices,
    fun _ _ _ h _ => h, fun h => ⟨⟨h.saved, h.queue⟩, rfl⟩⟩
  rw [modifyDir_dir]
  split
  · rename_i same
    rw [same]
    exact kept
  · exact .refl _ _

theorem movedOn_failUnstarted {op : StoreOp} {s : State} (hop : op ∈ s.store.queue) : MovedOn s (failUnstarted op s) := by
  have recorded := movedOn_recordFailure op op.slot? .degradedTarget s
  refine recorded.trans ?_
  cases op with
  | batchWrite n k =>
    exact movedOn_modifyBatch (fun _ => rfl) (fun b hb => by rw [← hb]) ⟨n, hop⟩
  | journalAppend n i => exact movedOn_releaseUnjournalled i _
  | headerWrite n w => exact movedOn_closeOrderAfter w _
  | slotErase n =>
    exact movedOn_modifyDir n ⟨rfl, rfl, rfl, fun _ => rfl, id, fun _ => rfl, fun _ => rfl⟩
  | geometryRead | slotRead | journalRead | recipeWrite | geometryWrite => exact .refl _

theorem movedOn_failFull {op : StoreOp} {s : State} (sound : targetDegraded op s = false)
    (full : appendIsFull op s = true) : MovedOn s (failFull op s) := by
  cases op with
  | journalAppend n i =>
    have counted : 1024 ≤ (s.dir n).count := by
      unfold appendIsFull at full
      exact of_decide_eq_true full
    have working : (s.dir n).state ≠ .degraded := by
      simpa [targetDegraded, StoreOp.slot?] using sound
    have entry : MovedOn (recordFailure (.journalAppend n i) (some n) .full s)
        (modifyDir n (fun d => { d with full := true }) (recordFailure (.journalAppend n i) (some n) .full s)) :=
      movedOn_modifyDir n ⟨rfl, rfl, rfl, fun h => h.elim (absurd · working) fun h => absurd h (not_lt.2 counted), id,
        fun _ => rfl, id⟩
    exact (((((movedOn_recordFailure _ _ _ s).trans entry).trans (movedOn_raiseAll .store _)).trans
      (movedOn_releaseUnjournalled i _)).trans (movedOn_settleJournalPath _))
  | headerWrite | geometryRead | slotRead | journalRead | recipeWrite | geometryWrite | slotErase | batchWrite =>
    exact .refl s

theorem movedOn_dealHead (fuel : Nat) (s : State) : MovedOn s (dealHead fuel s) := by
  induction fuel generalizing s with
  | zero => exact .refl s
  | succ fuel ih =>
    unfold dealHead
    split
    · exact movedOn_head _ s
    · rename_i op later queue
      have held : op ∈ s.store.queue := by rw [queue]; exact List.mem_cons_self
      have starts : MovedOn s (startHead op (sampleEnable s)) :=
        (movedOn_sampleEnable s).trans (movedOn_startHead held)
      have goesOn {u : State} (h : MovedOn s u) : MovedOn s (dealHead fuel (takePlaces 24 (releaseHead u))) :=
        h.trans ((movedOn_releaseHead u).trans ((movedOn_takePlaces 24 _).trans (ih _)))
      split
      · exact starts
      · split
        · exact goesOn (movedOn_failUnstarted held)
        · rename_i sound
          split
          · rename_i full
            exact goesOn (movedOn_failFull (Bool.eq_false_iff.2 sound) full)
          · dsimp only
            split
            · exact starts
            · exact ((movedOn_sampleEnable s).trans (movedOn_head _ _)).trans (movedOn_raiseAll .store _)

theorem movedOn_enqueue {op : StoreOp} (hop : ∀ n k, op ≠ .batchWrite n k) (s : State) : MovedOn s (enqueue op s) := by
  unfold enqueue
  split
  · exact (movedOn_pushOp hop s).trans (movedOn_dealHead headFuel _)
  · exact movedOn_pushOp hop s

/-! ### CLOSING and the end of the head -/

theorem movedOn_advanceClosing (s : State) : MovedOn s (advanceClosing s) := by
  by_cases h : Drained s
  · rw [advanceClosing_drained h]
    cases slot : s.line.slot with
    | none => exact movedOn_enterNoOrder h.closing
    | some n =>
      let waits : State := { s with line := { s.line with closing := .header } }
      have waiting : MovedOn s waits :=
        ⟨rfl, rfl, rfl, fun open' => absurd h.closing open', .inl rfl, fun _ => .refl _ _, fun _ => id, rfl,
          (Consequent.of_eq rfl rfl).notices, fun _ _ _ h _ => h, fun h => ⟨⟨h.saved, h.queue⟩, rfl⟩⟩
      have marked : MovedOn waits (headerContent n (fun d => { d with state := .closed }) waits) := by
        unfold headerContent
        split
        · exact .refl _
        · rename_i sound
          refine movedOn_modifyDir n ⟨rfl, rfl, rfl, fun _ => rfl, fun h => absurd h sound,
            fun open' => absurd h.closing open', id⟩
      exact waiting.trans (marked.trans (movedOn_enqueue (op := .headerWrite n .closed) (fun _ _ h => by cases h) _))
  · rw [advanceClosing_notDrained h]
    exact .refl s

/-- What the release of the head's place sets off (R16, R167). -/
theorem endHead_released (effects : State → State) (s : State) :
    MovedOn (releaseHead (effects s)) (endHead effects id s) :=
  (movedOn_takePlaces 24 _).trans ((movedOn_dealHead headFuel _).trans (movedOn_advanceClosing _))

/-- What the end of a head sets off, its effects made. -/
theorem endHead_movedOn (effects : State → State) (s : State) : MovedOn (effects s) (endHead effects id s) :=
  (movedOn_releaseHead _).trans (endHead_released effects s)

theorem endHead_nextReadStarts {effects : State → State} {s : State} {op : StoreOp} {rest : List StoreOp}
    (queue : (effects s).store.queue = op :: rest) : NextReadStarts rest (endHead effects id s) := by
  intro read later hrest isRead
  obtain ⟨more, taken⟩ := takePlaces_queue 24 (releaseHead (effects s))
  have stood : (takePlaces 24 (releaseHead (effects s))).store.queue = read :: (later ++ more) := by
    rw [taken]
    show (effects s).store.queue.tail ++ more = _
    rw [queue, hrest]
    rfl
  generalize htaken : takePlaces 24 (releaseHead (effects s)) = u at stood
  have dealt : dealHead headFuel u = startHead read (sampleEnable u) := by
    rw [show headFuel = 63 + 1 from rfl, dealHead, stood]
    simp only [isRead, if_true]
  have kept : (startHead read (sampleEnable u)).store.queue = read :: (later ++ more) := by
    rw [Limits.startHead_queue]
    exact stood
  have ended : endHead effects id s = startHead read (sampleEnable u) := by
    show advanceClosing (dealHead headFuel (takePlaces 24 (releaseHead (effects s)))) = _
    rw [htaken, dealt, advanceClosing_waits (.inr (by rw [kept]; exact List.cons_ne_nil _ _))]
  rw [ended]
  refine ⟨by rw [kept]; rfl, ?_⟩
  cases read <;> first | rfl | exact absurd isRead Bool.false_ne_true

end Sys2Proof.Following

/-! ## Writes and erases that end (R170, R172, R173, R179) -/

namespace Sys2Proof.Ending

open Sys2Proof.Machine Sys2Proof.Safety Sys2Proof.Starting Sys2Proof.Reporting Sys2Proof.Batching Sys2Proof.Porting
  Sys2Proof.Answering Sys2Proof.Cutting Sys2Proof.Storing Sys2Proof.Following

theorem inProgress_running {s : State} {op : StoreOp} {rest : List StoreOp} {c : InFlight}
    (queue : s.store.queue = op :: rest) (head : s.store.head = .running c) : inProgress s = some (op, c) := by
  rw [inProgress, head, queue]

/-! ### What the effects of an end keep -/

theorem batch_of_shade {s t : State} (h : t.shade = s.shade) (k : Nat) : t.batch k = s.batch k := by
  rw [State.batch, h]
  rfl

theorem freeRecord_store (i : Fin 24) (s : State) : (freeRecord i s).store = s.store := by
  rw [freeRecord, evalHolds_eq, modifyRecord_eq]

theorem freeRecord_line (i : Fin 24) (s : State) :
    (freeRecord i s).line = { s.line with holds := (freeRecord i s).line.holds } := by
  rw [freeRecord, evalHolds_eq, modifyRecord_eq]

/-- The store, the batches and all of the line but its hold causes are as they were. -/
structure Released (s t : State) : Prop where
  store : t.store = s.store
  shade : t.shade = s.shade
  line : t.line = { s.line with holds := t.line.holds }

theorem Released.refl (s : State) : Released s s := ⟨rfl, rfl, rfl⟩

theorem Released.trans {s t u : State} (a : Released s t) (b : Released t u) : Released s u :=
  ⟨b.store.trans a.store, b.shade.trans a.shade, by rw [b.line, a.line]⟩

theorem releaseUnjournalled_released (i : Fin 24) (s : State) : Released s (releaseUnjournalled i s) :=
  ⟨freeRecord_store i s, freeRecord_shade i s, freeRecord_line i s⟩

theorem releaseWaiting_released (fuel : Nat) (s : State) : Released s (releaseWaiting fuel s) := by
  induction fuel generalizing s with
  | zero => exact .refl s
  | succ fuel ih =>
    unfold releaseWaiting
    split
    · exact (releaseUnjournalled_released _ s).trans (ih _)
    · exact .refl s

theorem settleJournalPath_released (s : State) : Released s (settleJournalPath s) := by
  unfold settleJournalPath
  split
  · exact releaseWaiting_released 24 s
  · exact .refl s

theorem closeOrderAfter_store (w : StoredState) (s : State) : (closeOrderAfter w s).store = s.store := by
  unfold closeOrderAfter
  split
  · rename_i h
    exact (enterNoOrder_closed s (by rw [h.1]; decide)).2.1
  · rfl

/-- The CLOSED header of an order ends it, whether it was written or not (R16). -/
theorem closeOrderAfter_ended {w : StoredState} {s t : State} (moved : MovedOn (closeOrderAfter w s) t)
    (closing : s.line.state = .closing) (header : s.line.closing = .header) (closed : w = .closed) :
    t.line.state = .noOrder ∧ t.line.order = none ∧ t.line.run = none ∧ t.line.slot = none := by
  have ended : closeOrderAfter w s = enterNoOrder s := if_pos ⟨closing, header, closed⟩
  rw [ended] at moved
  obtain ⟨-, -, line⟩ := enterNoOrder_closed s (by rw [closing]; decide)
  have kept := moved.line (by rw [line]; exact fun h => nomatch h)
  rw [kept, line]
  exact ⟨rfl, rfl, rfl, rfl⟩

/-! ### Ends that complete -/

/-- Settles O40: the write's content enters the medium, and what follows the end of the head leaves the medium, the
entries' counts and the FREE records. -/
theorem writesComplete : Obligations.WritesComplete := by
  refine ⟨fun s n w h rest queue head => ?_, fun s n r c rest queue head => ?_, fun s n k b rest queue head => ?_,
    fun s n i x rest queue head blank room => ?_, fun s g c rest queue head => ?_, fun s n c rest queue head => ?_⟩
  · let written : State := modifySlot n (fun c => { c with header := .written h }) s
    let effects : State → State := headerWriteEffects n w h true
    have made : exec (.headerWriteEnd true) s = .next (endHead effects id s) := by
      show Host.Outcome.next (headerWriteEnd true s) = _
      rw [headerWriteEnd, inProgress_running queue head]
    have moved : MovedOn (closeOrderAfter w written) (endHead effects id s) := endHead_movedOn effects s
    have all := (movedOn_closeOrderAfter w written).trans moved
    refine ⟨_, made, StoreSide.trans (t := written) rfl all.side,
      endHead_nextReadStarts (op := .headerWrite n w) ?_, all.nv, ?_⟩
    · show (closeOrderAfter w written).store.queue = _
      rw [closeOrderAfter_store]
      exact queue
    · exact closeOrderAfter_ended (s := written) moved
  · let written : State := modifySlot n (fun c => { c with recipe := .written r }) s
    have made : exec (.recipeWriteEnd true) s = .next (endHead (recipeWriteEffects n r true) id s) := by
      show Host.Outcome.next (recipeWriteEnd true s) = _
      rw [recipeWriteEnd, inProgress_running queue head]
    have moved : MovedOn written _ := endHead_movedOn (recipeWriteEffects n r true) s
    exact ⟨_, made, StoreSide.trans (t := written) rfl moved.side, endHead_nextReadStarts queue, moved.nv⟩
  · let written : State := modifySlot n (fun c => { c with batches := setCell c.batches b.number (.written b) }) s
    let saved : Batch → Batch := fun x => if x.save = .writing then { x with save := .saved } else x
    have number (x : Batch) : (saved x).number = x.number := by
      show (if x.save = .writing then _ else x).number = _
      split <;> rfl
    let effects : State → State := batchWriteEffects n b true
    have made : exec (.batchWriteEnd true) s = .next (endHead effects id s) := by
      show Host.Outcome.next (batchWriteEnd true s) = _
      rw [batchWriteEnd, inProgress_running queue head]
    have moved : MovedOn (releaseHead (effects s)) (endHead effects id s) := endHead_released effects s
    have effect : effects s = modifyBatch b.number saved written := rfl
    rw [effect] at moved
    have content : ((endHead effects id s).nv.slots.get n).batches =
        setCell (s.nv.slots.get n).batches b.number (.written b) := by
      rw [moved.nv]
      show (written.nv.slots.get n).batches = _
      simp [written, modifySlot]
    refine ⟨_, made, StoreSide.trans (t := releaseHead (modifyBatch b.number saved written)) rfl moved.side,
      endHead_nextReadStarts queue, ?_, ?_, fun j hj => ?_, fun x alone waits found => ?_⟩
    · rw [content]
      exact moved.nv
    · rw [content]
      exact cellAt_setCell_same ..
    · rw [content]
      exact cellAt_setCell_other _ _ _ _ hj
    · have kept : BatchesRest (releaseHead (modifyBatch b.number saved written)) := by
        refine ⟨fun y hy unsaved => ?_, fun m j hm => ?_⟩
        · obtain ⟨z, hz, rfl⟩ := List.mem_map.1 hy
          by_cases same : z.number = b.number
          · rw [if_pos same] at unsaved
            by_cases writing : z.save = .writing
            · have : (saved z).save = .saved := by simp only [saved, if_pos writing]
              rw [this] at unsaved
              cases unsaved
            · have : saved z = z := if_neg writing
              rw [this] at unsaved
              exact waits z hz unsaved
          · rw [if_neg same] at unsaved
            exact waits z hz unsaved
        · have empty : (releaseHead (modifyBatch b.number saved written)).store.queue = [] := by
            show s.store.queue.tail = []
            rw [queue, alone]
            rfl
          rw [empty] at hm
          cases hm
      have shade := (moved.rest kept).2
      rw [batch_of_shade (s := modifyBatch b.number saved written) shade, modifyBatch_batch number, if_pos rfl, show written.batch b.number = some x from found]
      show some (saved x) = _
      simp only [saved]
      split
      · rfl
      · rfl
  · let written : State := modifySlot n (fun c => { c with
      journal := setCell c.journal (s.dir n).count (.written x) }) s
    let counted : State := modifyDir n (fun d => { d with count := bump journalSize d.count }) written
    let effects : State → State := journalAppendEffects n i x true
    have made : exec (.journalAppendEnd true) s = .next (endHead effects id s) := by
      show Host.Outcome.next (journalAppendEnd true s) = _
      rw [journalAppendEnd, inProgress_running queue head]
    have effect : effects s = freeRecord i counted := by
      show journalAppendEffects n i x true s = _
      rw [journalAppendEffects, if_neg (not_not_intro blank)]
      rfl
    have moved : MovedOn (effects s) (endHead effects id s) := endHead_movedOn effects s
    have all : MovedOn counted (endHead effects id s) := by
      rw [effect] at moved
      exact (movedOn_freeRecord i counted).trans moved
    have content : ((endHead effects id s).nv.slots.get n).journal =
        setCell (s.nv.slots.get n).journal (s.dir n).count (.written x) := by
      rw [all.nv]
      show (written.nv.slots.get n).journal = _
      simp [written, modifySlot]
    refine ⟨_, made, StoreSide.trans (t := counted) rfl all.side, endHead_nextReadStarts (op := .journalAppend n i) ?_, ?_, ?_, fun j hj => ?_, ?_,
      moved.free i ?_⟩
    · rw [effect, freeRecord_store]
      exact queue
    · rw [content]
      exact all.nv
    · rw [content]
      exact cellAt_setCell_same ..
    · rw [content]
      exact cellAt_setCell_other _ _ _ _ hj
    · rw [(all.entry n).count, modifyDir_dir, if_pos rfl]
      show bump journalSize (s.dir n).count = _
      rw [bump_eq_min]
      exact min_eq_right room
    · rw [effect]
      exact freeRecord_same i _
  · let written : State := { s with nv := { s.nv with geometry := .written g } }
    have made : exec (.geometryWriteEnd true) s = .next (endHead (geometryWriteEffects g true) id s) := by
      show Host.Outcome.next (geometryWriteEnd true s) = _
      rw [geometryWriteEnd, inProgress_running queue head]
    have moved : MovedOn written _ := endHead_movedOn (geometryWriteEffects g true) s
    exact ⟨_, made, StoreSide.trans (t := written) rfl moved.side, endHead_nextReadStarts queue, moved.nv, moved.valid⟩
  · let erased : State := modifyDir n (fun _ => .cleared) (modifySlot n (fun _ => .erased) s)
    have made : exec (.slotEraseEnd true) s = .next (endHead (slotEraseEffects n true) id s) := by
      show Host.Outcome.next (slotEraseEnd true s) = _
      rw [slotEraseEnd, inProgress_running queue head]
    have moved : MovedOn erased _ := endHead_movedOn (slotEraseEffects n true) s
    have entry : erased.dir n = .cleared := by rw [modifyDir_dir, if_pos rfl]
    have kept := moved.entry n
    rw [entry] at kept
    exact ⟨_, made, StoreSide.trans (t := erased) rfl moved.side, endHead_nextReadStarts queue, moved.nv, kept.order,
      kept.run, kept.count, kept.full (.inr (by decide)), kept.erase rfl, kept.state⟩

/-! ### Ends that fail -/

theorem pending_raiseAll (p : Port) (n : Notice) (s : State) : Pending p n (s.raiseAll n) := by
  rw [Pending, port_eq, raiseAll_get]
  ext k
  simp
  tauto

theorem Degraded.movedOn {n : Fin 4} {s t u : State} (h : Degraded n s t) (moved : MovedOn t u) : Degraded n s u where
  state := (moved.entry n).degraded h.state
  order := (moved.entry n).order.trans h.order
  run := (moved.entry n).run.trans h.run
  count := (moved.entry n).count.trans h.count
  full := ((moved.entry n).full (.inl h.state)).trans h.full
  notice p := pending_of_onlyNotices moved.notices (h.notice p)
  geometry := by rw [moved.nv]; exact h.geometry
  others m hm := by rw [moved.nv]; exact h.others m hm

/-- What the failure at slot `n` leaves of the state `u` that holds what the medium is left with. -/
structure SlotFailed (n : Fin 4) (s u t : State) : Prop where
  degraded : Degraded n s t
  side : StoreSide s t
  nv : t.nv = u.nv
  queue : t.store.queue = u.store.queue
  shade : t.shade = u.shade
  line : t.line = { u.line with holds := t.line.holds }

theorem degradeSlot_failed {n : Fin 4} {s u : State} (side : StoreSide s u) (dir : u.store.directory = s.store.directory)
    (geometry : u.nv.geometry = s.nv.geometry) (others : ∀ m, m ≠ n → u.nv.slots.get m = s.nv.slots.get m) :
    SlotFailed n s u (degradeSlot n u) := by
  let marked : State := modifyDir n (fun d => { d with state := .degraded }) u
  have raised := pending_raiseAll (s := marked) (n := .store)
  have eq : ∃ P, marked.raiseAll .store = { marked with ports := P } := ⟨_, rfl⟩
  have settled := settleJournalPath_released (marked.raiseAll .store)
  have moved := movedOn_settleJournalPath (marked.raiseAll .store)
  have made : degradeSlot n u = settleJournalPath (marked.raiseAll .store) := rfl
  rw [made]
  generalize settleJournalPath (marked.raiseAll .store) = t at settled moved
  obtain ⟨P, eq⟩ := eq
  rw [eq] at raised settled moved
  have entry (m : Fin 4) : ({ marked with ports := P } : State).dir m =
      if m = n then { s.dir m with state := .degraded } else s.dir m := by
    show marked.dir m = _
    rw [modifyDir_dir, show u.dir m = s.dir m from congrArg (fun d => d.get m) dir]
  have first : Degraded n s { marked with ports := P } :=
    ⟨by rw [entry, if_pos rfl], by rw [entry, if_pos rfl], by rw [entry, if_pos rfl], by rw [entry, if_pos rfl],
      by rw [entry, if_pos rfl], raised, geometry, others⟩
  exact ⟨Degraded.movedOn first moved, StoreSide.trans side (StoreSide.trans (t := { marked with ports := P }) rfl moved.side), moved.nv,
    by rw [settled.store]; rfl, settled.shade, settled.line⟩

/-- A failed write of a record of slot `n` (R170). -/
theorem failWrite_failed (op : StoreOp) (n : Fin 4) (kind : FailureKind) (f : SlotContent → SlotContent) (s : State) :
    SlotFailed n s (recordFailure op (some n) kind (useFresh (modifySlot n f s)))
      (failWrite op n kind (modifySlot n f s)) :=
  degradeSlot_failed rfl rfl rfl fun m hm => by
    show (s.nv.slots.modify n f).get m = _
    rw [table_get_modify, if_neg (Ne.symm hm)]

theorem failWrite_content (op : StoreOp) (n : Fin 4) (kind : FailureKind) (f : SlotContent → SlotContent) (s : State) :
    (failWrite op n kind (modifySlot n f s)).nv.slots.get n = f (s.nv.slots.get n) := by
  rw [(failWrite_failed op n kind f s).nv]
  show (s.nv.slots.modify n f).get n = _
  rw [table_get_modify, if_pos rfl]

theorem failedCell_ne {α : Type} [DecidableEq α] (a : α) (left : StoreCell α) : failedCell a left ≠ .written a := by
  unfold failedCell
  split
  · exact fun h => nomatch h
  · rename_i h; exact h

/-- An append that fails, for what it left at its position or for what stood there, frees its record. -/
theorem appendFailed {n : Fin 4} {i : Fin 24} {s u t v : State} (failed : SlotFailed n s u t)
    (moved : MovedOn (releaseUnjournalled i t) v) :
    Degraded n s v ∧ StoreSide s v ∧ v.nv = u.nv ∧ (v.record i).state = .free := by
  have all := (movedOn_releaseUnjournalled i t).trans moved
  exact ⟨Degraded.movedOn failed.degraded all, StoreSide.trans failed.side all.side, all.nv.trans failed.nv,
    moved.free i (freeRecord_same i t)⟩

/-- Settles O41: each end that fails degrades its slot, and what follows the end of the head leaves the DEGRADED entry,
the medium and, its slot not being writable, the UNSAVED batches. -/
theorem writesFail : Obligations.WritesFail := by
  refine ⟨fun s n w h rest queue head => ?_, fun s n r c rest queue head => ?_, fun s n k b rest queue head => ?_,
    fun s n i x v rest queue head => ?_, fun s g c rest queue head => ?_, fun s n c rest queue head => ?_⟩
  · let left : SlotContent → SlotContent := fun c => { c with header := failedCell h (Config.failedHeader s.fresh) }
    let failure : State := failWrite (.headerWrite n w) n .verify (modifySlot n left s)
    have made : exec (.headerWriteEnd false) s = .next (endHead (headerWriteEffects n w h false) id s) := by
      show Host.Outcome.next (headerWriteEnd false s) = _
      rw [headerWriteEnd, inProgress_running queue head]
    have failed : SlotFailed n s _ failure := failWrite_failed ..
    have moved : MovedOn (closeOrderAfter w failure) (endHead (headerWriteEffects n w h false) id s) :=
      endHead_movedOn (headerWriteEffects n w h false) s
    have all := (movedOn_closeOrderAfter w failure).trans moved
    have content : (endHead (headerWriteEffects n w h false) id s).nv.slots.get n = left (s.nv.slots.get n) := by
      rw [all.nv]
      exact failWrite_content ..
    refine ⟨_, made, StoreSide.trans (t := failure) failed.side all.side,
      Degraded.movedOn failed.degraded all, ?_, ?_, fun closing header closed => ?_⟩
    · rw [content]
      exact failedCell_ne _ _
    · rw [content]
    · have line : failure.line = { s.line with holds := failure.line.holds } := failed.line
      obtain ⟨state, order, -⟩ := closeOrderAfter_ended moved (by rw [line]; exact closing) (by rw [line]; exact header)
        closed
      exact ⟨state, order⟩
  · let left : SlotContent → SlotContent := fun c => { c with recipe := failedCell r (Config.failedRecipe s.fresh) }
    have made : exec (.recipeWriteEnd false) s = .next (endHead (recipeWriteEffects n r false) id s) := by
      show Host.Outcome.next (recipeWriteEnd false s) = _
      rw [recipeWriteEnd, inProgress_running queue head]
    have failed : SlotFailed n s _ (failWrite (.recipeWrite n r) n .verify (modifySlot n left s)) := failWrite_failed ..
    have moved : MovedOn (failWrite (.recipeWrite n r) n .verify (modifySlot n left s))
        (endHead (recipeWriteEffects n r false) id s) := endHead_movedOn (recipeWriteEffects n r false) s
    have content : (endHead (recipeWriteEffects n r false) id s).nv.slots.get n = left (s.nv.slots.get n) := by
      rw [moved.nv]
      exact failWrite_content ..
    refine ⟨_, made, StoreSide.trans failed.side moved.side, Degraded.movedOn failed.degraded moved,
      ?_, ?_⟩
    · rw [content]
      exact failedCell_ne _ _
    · rw [content]
  · let left : SlotContent → SlotContent := fun c => { c with
      batches := setCell c.batches b.number (failedCell b (Config.failedBatch s.fresh)) }
    let failure : State := failWrite (.batchWrite n b.number) n .verify (modifySlot n left s)
    let unsaved : Batch → Batch := fun x => { x with save := .unsaved }
    have made : exec (.batchWriteEnd false) s = .next (endHead (batchWriteEffects n b false) id s) := by
      show Host.Outcome.next (batchWriteEnd false s) = _
      rw [batchWriteEnd, inProgress_running queue head]
    have failed : SlotFailed n s _ failure := failWrite_failed ..
    have moved : MovedOn (modifyBatch b.number unsaved failure) (endHead (batchWriteEffects n b false) id s) :=
      endHead_movedOn (batchWriteEffects n b false) s
    have degraded : Degraded n s (modifyBatch b.number unsaved failure) :=
      ⟨failed.degraded.state, failed.degraded.order, failed.degraded.run, failed.degraded.count, failed.degraded.full,
        failed.degraded.notice, failed.degraded.geometry, failed.degraded.others⟩
    have side : StoreSide s (modifyBatch b.number unsaved failure) :=
      StoreSide.trans (t := failure) failed.side rfl
    have content : ((endHead (batchWriteEffects n b false) id s).nv.slots.get n).batches =
        setCell (s.nv.slots.get n).batches b.number (failedCell b (Config.failedBatch s.fresh)) := by
      rw [moved.nv]
      exact congrArg SlotContent.batches (failWrite_content ..)
    refine ⟨_, made, StoreSide.trans side moved.side, Degraded.movedOn degraded moved, ?_, fun j hj => ?_,
      fun x slot found => ?_⟩
    · rw [content, cellAt_setCell_same]
      exact failedCell_ne _ _
    · rw [content]
      exact cellAt_setCell_other _ _ _ _ hj
    · have unwritable : writableSlot (modifyBatch b.number unsaved failure) = none := by
        refine writableSlot_none_iff.2 fun m hm => .inl ?_
        have line : failure.line = { s.line with holds := failure.line.holds } := failed.line
        have same : s.line.slot = some m := by
          rw [show (modifyBatch b.number unsaved failure).line = failure.line from rfl, line] at hm
          exact hm
        rw [slot] at same
        cases same
        exact degraded.state
      refine moved.unsaved unwritable _ _ ?_ rfl
      rw [modifyBatch_batch (fun _ => by rfl), if_pos rfl, batch_of_shade failed.shade]
      exact congrArg (Option.map unsaved) found
  · by_cases blank : cellAt (s.nv.slots.get n).journal (s.dir n).count = .blank
    · cases v with
      | true => exact ⟨_, rfl, fun h => absurd blank h, fun _ h => by cases h⟩
      | false =>
        let left : SlotContent → SlotContent := fun c => { c with
          journal := setCell c.journal (s.dir n).count (failedCell x (Config.failedSummary s.fresh)) }
        let failure : State := failWrite (.journalAppend n i) n .verify (modifySlot n left s)
        have made : exec (.journalAppendEnd false) s = .next (endHead (journalAppendEffects n i x false) id s) := by
          show Host.Outcome.next (journalAppendEnd false s) = _
          rw [journalAppendEnd, inProgress_running queue head]
        have effect : journalAppendEffects n i x false s = releaseUnjournalled i failure := by
          rw [journalAppendEffects, if_neg (not_not_intro blank)]
          rfl
        have failed : SlotFailed n s _ failure := failWrite_failed ..
        have moved := endHead_movedOn (journalAppendEffects n i x false) s
        rw [effect] at moved
        obtain ⟨degraded, side, nv, free⟩ := appendFailed failed moved
        have content : ((endHead (journalAppendEffects n i x false) id s).nv.slots.get n).journal =
            setCell (s.nv.slots.get n).journal (s.dir n).count (failedCell x (Config.failedSummary s.fresh)) := by
          rw [nv, ← failed.nv]
          exact congrArg SlotContent.journal (failWrite_content ..)
        refine ⟨_, made, fun h => absurd blank h, fun _ _ => ⟨side, degraded, free, ?_,
          fun j hj => ?_⟩⟩
        · rw [content, cellAt_setCell_same]
          exact failedCell_ne _ _
        · rw [content]
          exact cellAt_setCell_other _ _ _ _ hj
    · let noted : State := recordFailure (.journalAppend n i) (some n) .blank s
      have made : exec (.journalAppendEnd v) s = .next (endHead (journalAppendEffects n i x v) id s) := by
        show Host.Outcome.next (journalAppendEnd v s) = _
        rw [journalAppendEnd, inProgress_running queue head]
      have effect : journalAppendEffects n i x v s = releaseUnjournalled i (degradeSlot n noted) := by
        rw [journalAppendEffects, if_pos blank]
      have failed : SlotFailed n s noted (degradeSlot n noted) := degradeSlot_failed rfl rfl rfl fun _ _ => rfl
      have moved := endHead_movedOn (journalAppendEffects n i x v) s
      rw [effect] at moved
      obtain ⟨degraded, side, nv, free⟩ := appendFailed failed moved
      exact ⟨_, made, fun _ => ⟨side, degraded, nv, free⟩, fun h => absurd h blank⟩
  · let left : State := recordFailure (.geometryWrite g) none .verify
      (useFresh { s with
        nv := { s.nv with geometry := failedCell g (Config.failedGeometry s.fresh) }
        line := { s.line with geometryValid := false } })
    have made : exec (.geometryWriteEnd false) s = .next (endHead (geometryWriteEffects g false) id s) := by
      show Host.Outcome.next (geometryWriteEnd false s) = _
      rw [geometryWriteEnd, inProgress_running queue head]
    have moved : MovedOn (left.raiseAll .store) (endHead (geometryWriteEffects g false) id s) :=
      endHead_movedOn (geometryWriteEffects g false) s
    have nv : (endHead (geometryWriteEffects g false) id s).nv = left.nv := moved.nv
    have side : StoreSide left (endHead (geometryWriteEffects g false) id s) :=
      StoreSide.trans (movedOn_raiseAll .store left).side moved.side
    refine ⟨_, made, StoreSide.trans (t := left) rfl side, moved.valid, ?_, ?_, fun p =>
      pending_of_onlyNotices moved.notices (pending_raiseAll p .store left)⟩
    · rw [nv]
      rfl
    · rw [nv]
      exact failedCell_ne _ _
  · let failure : State := failWrite (.slotErase n) n .blank (modifySlot n (failedErase s.fresh) s)
    have made : exec (.slotEraseEnd false) s = .next (endHead (slotEraseEffects n false) id s) := by
      show Host.Outcome.next (slotEraseEnd false s) = _
      rw [slotEraseEnd, inProgress_running queue head]
    let ended : State := modifyDir n (fun d => { d with erasePending := false }) failure
    have failed : SlotFailed n s _ failure := failWrite_failed ..
    have entry : MovedOn failure ended := movedOn_modifyDir n
      ⟨rfl, rfl, rfl, fun _ => rfl, id, fun _ => rfl, fun _ => rfl⟩
    have moved : MovedOn ended (endHead (slotEraseEffects n false) id s) := endHead_movedOn (slotEraseEffects n false) s
    have all := entry.trans moved
    have content : (endHead (slotEraseEffects n false) id s).nv.slots.get n =
        failedErase s.fresh (s.nv.slots.get n) := by
      rw [all.nv]
      exact failWrite_content ..
    have cleared : (ended.dir n).erasePending = false := by rw [modifyDir_dir, if_pos rfl]
    refine ⟨_, made, StoreSide.trans failed.side all.side, Degraded.movedOn failed.degraded all,
      (moved.entry n).erase cleared, ?_⟩
    rw [content]
    exact failedErase_records ..

end Sys2Proof.Ending

/-! ## The start-up read (R166, R18) -/

namespace Sys2Proof.Reading

open Sys2Proof.Machine Sys2Proof.Safety Sys2Proof.Starting Sys2Proof.Reporting Sys2Proof.Batching Sys2Proof.Porting
  Sys2Proof.Answering Sys2Proof.Cutting Sys2Proof.Storing Sys2Proof.Following Sys2Proof.Ending

/-! ### The journal count (R166) -/

theorem cellAt_blank_of_lt {α : Type} {cells : Cells α} {n : Nat} (h : ∀ x ∈ cells, n < x.1) : cellAt cells n = .blank := by
  induction cells with
  | nil => rfl
  | cons x rest ih =>
    rw [cellAt, if_neg (Nat.ne_of_gt (h x List.mem_cons_self))]
    exact ih fun y hy => h y (List.mem_cons_of_mem _ hy)

/-- The positions counted from `start` hold records, and the next one is blank. -/
theorem writtenFrom_spec {α : Type} {cells : Cells α} {start : Nat} (from' : ∀ x ∈ cells, start ≤ x.1)
    (rising : cells.Pairwise (fun x y => x.1 < y.1)) (held : ∀ x ∈ cells, x.2 ≠ .blank) :
    (∀ j, start ≤ j → j < start + writtenFrom start cells → cellAt cells j ≠ .blank) ∧
      cellAt cells (start + writtenFrom start cells) = .blank := by
  induction cells generalizing start with
  | nil => exact ⟨fun j low high => absurd high (by simp only [writtenFrom]; omega), rfl⟩
  | cons x rest ih =>
    obtain ⟨k, c⟩ := x
    have first : start ≤ k := from' (k, c) List.mem_cons_self
    have beyond : ∀ y ∈ rest, k < y.1 := (List.pairwise_cons.1 rising).1
    by_cases here : k = start
    · subst here
      obtain ⟨filled, blank⟩ := ih (start := k + 1) beyond (List.pairwise_cons.1 rising).2
        fun y hy => held y (List.mem_cons_of_mem _ hy)
      have count : k + writtenFrom k ((k, c) :: rest) = k + 1 + writtenFrom (k + 1) rest := by
        rw [writtenFrom, if_pos rfl]
        omega
      rw [count]
      refine ⟨fun j low high => ?_, ?_⟩
      · by_cases same : k = j
        · rw [cellAt, if_pos same]
          exact held (k, c) List.mem_cons_self
        · rw [cellAt, if_neg same]
          exact filled j (by omega) high
      · rw [cellAt, if_neg (by omega)]
        exact blank
    · have none : writtenFrom start ((k, c) :: rest) = 0 := by rw [writtenFrom, if_neg here]
      rw [none]
      refine ⟨fun j low high => by omega, cellAt_blank_of_lt fun y hy => ?_⟩
      rcases List.mem_cons.1 hy with rfl | hy
      · show start + 0 < k
        omega
      · have := beyond y hy
        omega

theorem writtenFrom_zero {α : Type} [DecidableEq α] {cells : Cells α} (wf : cellsWf cells = true) :
    (∀ j, j < writtenFrom 0 cells → cellAt cells j ≠ .blank) ∧ cellAt cells (writtenFrom 0 cells) = .blank := by
  obtain ⟨rising, held⟩ := (cellsWf_iff cells).1 wf
  have spec := writtenFrom_spec (start := 0) (fun _ _ => Nat.zero_le _) rising held
  rw [Nat.zero_add] at spec
  exact ⟨fun j => spec.1 j (Nat.zero_le j), spec.2⟩

/-! ### Notices raised several times -/

theorem everywhereIf_both (a b : Bool) (n : Notice) :
    both (everywhereIf a n) (everywhereIf b n) = everywhereIf (a || b) n := by
  funext q
  cases a <;> cases b <;> simp [both, everywhereIf, everywhere, quiet]

theorem ports_of_noticed {s t : State} (h : Noticed quiet s t) : t.ports = s.ports := by
  have same (q : Port) : t.ports.get q = s.ports.get q := by
    have := h q
    simpa [quiet, port_eq] using this
  have press := same .press
  have emboss := same .emboss
  have winder := same .winder
  have quality := same .quality
  generalize t.ports = P at *
  generalize s.ports = Q at *
  cases P
  cases Q
  simp_all [Ports.get]

/-! ### The records read -/

/-- What a start-up read can change. -/
def ReadSide (s t : State) : Prop :=
  t = { s with
    geometry := t.geometry, line := { s.line with geometryValid := t.line.geometryValid }
    store := { s.store with directory := t.store.directory, lastFailure := t.store.lastFailure }, ports := t.ports }

theorem ReadSide.trans {s t u : State} (a : ReadSide s t) (b : ReadSide t u) : ReadSide s u := by
  unfold ReadSide at *
  rw [b, a]

/-- A header has been read: the entry of its slot is what the read found, and STORE is raised when it fails to verify. -/
structure HeaderRead (fault : Bool) (n : Fin 4) (s t : State) : Prop where
  side : ReadSide s t
  geometry : t.geometry = s.geometry ∧ t.line = s.line
  dir : ∀ m, t.dir m = if m = n then (directoryOf fault (s.nv.slots.get n)).1 else s.dir m
  noticed : Noticed (everywhereIf (!(directoryOf fault (s.nv.slots.get n)).2) .store) s t

theorem readHeader_read (fault : Bool) (n : Fin 4) (s : State) : HeaderRead fault n s (readHeader fault n s) := by
  cases verifies : (directoryOf fault (s.nv.slots.get n)).2 with
  | true =>
    have made : readHeader fault n s = modifyDir n (fun _ => (directoryOf fault (s.nv.slots.get n)).1) s := by
      rw [readHeader]
      exact if_pos verifies
    rw [made]
    refine ⟨rfl, ⟨rfl, rfl⟩, modifyDir_dir n _ s, ?_⟩
    rw [verifies]
    exact noticed_refl s _ rfl
  | false =>
    let found : State := recordFailure .geometryRead (some n) .verify
      (modifyDir n (fun _ => (directoryOf fault (s.nv.slots.get n)).1) s)
    have made : readHeader fault n s = found.raiseAll .store := by
      rw [readHeader]
      exact if_neg (by rw [verifies]; exact Bool.false_ne_true)
    have eq : ∃ P, found.raiseAll .store = { found with ports := P } := ⟨_, rfl⟩
    obtain ⟨P, eq⟩ := eq
    have raised := raiseAll_noticed (s := s) (u := found) rfl .store
    rw [made]
    rw [eq] at raised ⊢
    refine ⟨rfl, ⟨rfl, rfl⟩, modifyDir_dir n _ s, ?_⟩
    rw [verifies]
    exact raised

/-- The geometry record fails to verify. -/
def geometryFails (fault : Bool) (s : State) : Bool :=
  match fault, s.nv.geometry with
  | false, .written _ | false, .blank => false
  | _, _ => true

theorem geometryFails_iff (fault : Bool) (s : State) :
    geometryFails fault s = true ↔ fault = true ∨ s.nv.geometry = .broken := by
  unfold geometryFails
  cases fault <;> cases s.nv.geometry <;> simp

/-- The geometry record has been read (R18, R166). -/
structure GeometryRead (fault : Bool) (s t : State) : Prop where
  side : ReadSide s t
  dir : t.store.directory = s.store.directory
  loaded : ∀ g, fault = false → s.nv.geometry = .written g → g.ordered = true →
    t.geometry = g ∧ t.line.geometryValid = true
  left : (fault = true ∨ ∀ g, s.nv.geometry = .written g → g.ordered = false) →
    t.geometry = s.geometry ∧ t.line.geometryValid = false
  noticed : Noticed (everywhereIf (geometryFails fault s) .store) s t

theorem readGeometry_read (fault : Bool) (s : State) : GeometryRead fault s (readGeometry fault s) := by
  let invalid : State := { s with line := { s.line with geometryValid := false } }
  let failed : State := recordFailure .geometryRead none .verify invalid
  have fails (h : geometryFails fault s = true) (made : readGeometry fault s = failed.raiseAll .store) :
      GeometryRead fault s (readGeometry fault s) := by
    have eq : ∃ P, failed.raiseAll .store = { failed with ports := P } := ⟨_, rfl⟩
    obtain ⟨P, eq⟩ := eq
    have raised := raiseAll_noticed (s := s) (u := failed) rfl .store
    rw [made]
    rw [eq] at raised ⊢
    refine ⟨rfl, rfl, fun g sound written _ => ?_, fun _ => ⟨rfl, rfl⟩, ?_⟩
    · rw [geometryFails_iff, sound, written] at h
      simp at h
    · rw [h]
      exact raised
  cases fault with
  | true => exact fails rfl rfl
  | false =>
    cases record : s.nv.geometry with
    | broken => exact fails (by unfold geometryFails; rw [record]) (by unfold readGeometry; rw [record])
    | blank =>
      have made : readGeometry false s = invalid := by unfold readGeometry; rw [record]
      rw [made]
      refine ⟨rfl, rfl, fun g _ written _ => ?_, fun _ => ⟨rfl, rfl⟩, ?_⟩
      · rw [record] at written
        cases written
      · have verifies : geometryFails false s = false := by unfold geometryFails; rw [record]
        rw [verifies]
        exact noticed_refl s _ rfl
    | written g =>
      have verifies : geometryFails false s = false := by unfold geometryFails; rw [record]
      cases ordered : g.ordered with
      | true =>
        have made : readGeometry false s =
            { s with geometry := g, line := { s.line with geometryValid := true } } := by
          unfold readGeometry
          rw [record]
          exact if_pos ordered
        rw [made]
        refine ⟨rfl, rfl, fun x _ written _ => ?_, fun h => ?_, ?_⟩
        · rw [record] at written
          cases written
          exact ⟨rfl, rfl⟩
        · rcases h with h | h
          · cases h
          · have := h g record
            rw [ordered] at this
            cases this
        · rw [verifies]
          exact noticed_refl s _ rfl
      | false =>
        have made : readGeometry false s = invalid := by
          unfold readGeometry
          rw [record]
          exact if_neg (by rw [ordered]; exact Bool.false_ne_true)
        rw [made]
        refine ⟨rfl, rfl, fun x _ written sound => ?_, fun _ => ⟨rfl, rfl⟩, ?_⟩
        · rw [record] at written
          cases written
          rw [ordered] at sound
          cases sound
        · rw [verifies]
          exact noticed_refl s _ rfl

theorem ordered_iff (g : Geometry) : g.ordered = true ↔
    1 ≤ g.dE ∧ g.dE < g.dQ ∧ g.dQ < g.dW ∧ g.dW ≤ g.dK ∧ g.dK ≤ 2000000 := by
  unfold Geometry.ordered Geometry.brokenOrder
  simp only [Bool.and_eq_true, decide_eq_true_eq]
  constructor
  · rintro ⟨⟨first, whole⟩, last⟩
    repeat' split at whole
    all_goals simp at whole
    omega
  · rintro ⟨first, second, third, fourth, last⟩
    refine ⟨⟨first, ?_⟩, last⟩
    repeat' split
    all_goals first | rfl | omega

/-! ### What a header gives (R166) -/

theorem directoryOf_count (fault : Bool) (c : SlotContent) :
    (directoryOf fault c).1.count = writtenFrom 0 c.journal ∧ (directoryOf fault c).1.erasePending = false := by
  unfold directoryOf
  cases fault <;> cases c.header <;> exact ⟨rfl, rfl⟩

theorem directoryOf_fails (fault : Bool) (c : SlotContent) :
    (directoryOf fault c).2 = false ↔ fault = true ∨ c.header = .broken := by
  unfold directoryOf
  cases fault <;> cases c.header <;> simp

/-- The read has ended: the geometry record as `GeometryRead` says, each entry as its header gives it, and STORE raised
when one of the five fails to verify. -/
structure StartUpRead (f : BitVec 5) (s t : State) : Prop where
  side : ReadSide s t
  geometry : ∃ u, GeometryRead (f.getLsbD 0) s u ∧ t.geometry = u.geometry ∧ t.line = u.line
  dir : ∀ n : Fin 4, t.dir n = (directoryOf (f.getLsbD (n.val + 1)) (s.nv.slots.get n)).1
  noticed : Noticed (everywhereIf (geometryFails (f.getLsbD 0) s ||
    decide (∃ n : Fin 4, (directoryOf (f.getLsbD (n.val + 1)) (s.nv.slots.get n)).2 = false)) .store) s t

theorem geometryReadEffects_read (f : BitVec 5) (s : State) : StartUpRead f s (geometryReadEffects f s) := by
  have read0 := readGeometry_read (f.getLsbD 0) s
  have made : geometryReadEffects f s = readHeader (f.getLsbD 4) 3 (readHeader (f.getLsbD 3) 2
    (readHeader (f.getLsbD 2) 1 (readHeader (f.getLsbD 1) 0 (readGeometry (f.getLsbD 0) s)))) := rfl
  rw [made]
  generalize readGeometry (f.getLsbD 0) s = a at read0 ⊢
  have read1 := readHeader_read (f.getLsbD 1) 0 a
  generalize readHeader (f.getLsbD 1) 0 a = b at read1 ⊢
  have read2 := readHeader_read (f.getLsbD 2) 1 b
  generalize readHeader (f.getLsbD 2) 1 b = c at read2 ⊢
  have read3 := readHeader_read (f.getLsbD 3) 2 c
  generalize readHeader (f.getLsbD 3) 2 c = d at read3 ⊢
  have read4 := readHeader_read (f.getLsbD 4) 3 d
  generalize readHeader (f.getLsbD 4) 3 d = e at read4 ⊢
  have nvA : a.nv = s.nv := by rw [read0.side]
  have nvB : b.nv = s.nv := by rw [read1.side]; exact nvA
  have nvC : c.nv = s.nv := by rw [read2.side]; exact nvB
  have nvD : d.nv = s.nv := by rw [read3.side]; exact nvC
  have dirs (n : Fin 4) : e.dir n = (directoryOf (f.getLsbD (n.val + 1)) (s.nv.slots.get n)).1 := by
    rw [read4.dir, read3.dir, read2.dir, read1.dir, nvA, nvB, nvC, nvD]
    fin_cases n <;> rfl
  refine ⟨(((read0.side.trans read1.side).trans read2.side).trans read3.side).trans read4.side, ⟨a, read0, ?_, ?_⟩, dirs, ?_⟩
  · rw [read4.geometry.1, read3.geometry.1, read2.geometry.1, read1.geometry.1]
  · rw [read4.geometry.2, read3.geometry.2, read2.geometry.2, read1.geometry.2]
  · have all := noticed_both (noticed_both (noticed_both (noticed_both read0.noticed read1.noticed) read2.noticed)
      read3.noticed) read4.noticed
    rw [everywhereIf_both, everywhereIf_both, everywhereIf_both, everywhereIf_both, nvA, nvB, nvC, nvD] at all
    have some : decide (∃ n : Fin 4, (directoryOf (f.getLsbD (n.val + 1)) (s.nv.slots.get n)).2 = false) =
        (!(directoryOf (f.getLsbD 1) (s.nv.slots.get 0)).2 || !(directoryOf (f.getLsbD 2) (s.nv.slots.get 1)).2 ||
          !(directoryOf (f.getLsbD 3) (s.nv.slots.get 2)).2 || !(directoryOf (f.getLsbD 4) (s.nv.slots.get 3)).2) := by
      rw [Bool.eq_iff_iff]
      simp only [decide_eq_true_eq, Fin.exists_fin_succ, Bool.or_eq_true, Bool.not_eq_true']
      simp [or_assoc]
    rw [some]
    simpa [Bool.or_assoc] using all

/-- Settles O42: the five records are read one by one, the queue is then empty, and nothing else follows in NO_ORDER. -/
theorem geometryReadEnds : Obligations.GeometryReadEnds := by
  intro s f c queue head noOrder slot canonical
  have read := geometryReadEffects_read f s
  have made : exec (.geometryReadEnd f) s = .next (endHead (geometryReadEffects f) id s) := by
    show Host.Outcome.next (geometryReadEnd f s) = _
    rw [geometryReadEnd, inProgress_running queue head]
  have line : (geometryReadEffects f s).line =
      { s.line with geometryValid := (geometryReadEffects f s).line.geometryValid } := by rw [read.side]
  have store : (geometryReadEffects f s).store = { s.store with
      directory := (geometryReadEffects f s).store.directory
      lastFailure := (geometryReadEffects f s).store.lastFailure } := by rw [read.side]
  have ended : endHead (geometryReadEffects f) id s = { geometryReadEffects f s with
      store := { (geometryReadEffects f s).store with queue := [], head := .absent } } := by
    have empty : (releaseHead (geometryReadEffects f s)).store.queue = [] := by
      show (geometryReadEffects f s).store.queue.tail = []
      rw [store]
      show s.store.queue.tail = []
      rw [queue]
      rfl
    have noSlot : (releaseHead (geometryReadEffects f s)).line.slot = none := by
      show (geometryReadEffects f s).line.slot = none
      rw [line]
      exact slot
    have open' (head : HeadState) : ¬ Drained { releaseHead (geometryReadEffects f s) with
        store := { (releaseHead (geometryReadEffects f s)).store with head := head } } := fun h => by
      have state : (geometryReadEffects f s).line.state = .closing := h.closing
      rw [line] at state
      have : s.line.state = .closing := state
      rw [noOrder] at this
      cases this
    show advanceClosing (dealHead headFuel (takePlaces 24 (releaseHead (geometryReadEffects f s)))) = _
    rw [takePlaces_noSlot noSlot, show headFuel = 63 + 1 from rfl, dealHead, empty]
    dsimp only
    rw [advanceClosing_notDrained (open' .absent)]
    have queue : (geometryReadEffects f s).store.queue.tail = [] := empty
    simp only [releaseHead, queue]
  refine ⟨_, made, ?_⟩
  rw [ended]
  generalize geometryReadEffects f s = t at read line store
  obtain ⟨u, geometry, same, valid⟩ := read.geometry
  have dirs := read.dir
  have noticed := read.noticed
  have side : t = { s with
      geometry := t.geometry, line := { s.line with geometryValid := t.line.geometryValid }
      store := { s.store with directory := t.store.directory, lastFailure := t.store.lastFailure }
      ports := t.ports } := read.side
  refine ⟨?_, rfl, rfl, ?_, ?_, fun n => ?_, fun h => ?_, fun sound good fine => ?_⟩
  · clear * - side
    have eq : ∃ G V D L P, t = { s with
        geometry := G, line := { s.line with geometryValid := V }
        store := { s.store with directory := D, lastFailure := L }, ports := P } := ⟨_, _, _, _, _, side⟩
    obtain ⟨G, V, D, L, P, rfl⟩ := eq
    rfl
  · intro g sound written h1 h2 h3 h4 h5
    obtain ⟨loaded, isValid⟩ := geometry.loaded g sound written ((ordered_iff g).2 ⟨h1, h2, h3, h4, h5⟩)
    exact ⟨same.trans loaded, (congrArg (fun l => l.geometryValid) valid).trans isValid⟩
  · intro h
    obtain ⟨left, invalid⟩ := geometry.left (h.imp_right fun no g written =>
      Bool.eq_false_iff.2 fun ordered => no g written ((ordered_iff g).1 ordered))
    exact ⟨same.trans left, (congrArg (fun l => l.geometryValid) valid).trans invalid⟩
  · have entry : ({ t with store := { t.store with queue := [], head := .absent } } : State).dir n =
        (directoryOf (f.getLsbD (n.val + 1)) (s.nv.slots.get n)).1 := dirs n
    rw [entry]
    obtain ⟨count, pending⟩ := directoryOf_count (f.getLsbD (n.val + 1)) (s.nv.slots.get n)
    obtain ⟨filled, blank⟩ := writtenFrom_zero (canonical n).2
    rw [count]
    refine ⟨filled, blank, pending, fun h sound written => ?_, fun sound empty => ?_, fun h => ?_⟩
    · unfold directoryOf
      rw [sound, written]
      obtain ⟨state, _, _, _, _⟩ := h
      exact ⟨rfl, rfl, rfl, by cases state <;> rfl⟩
    · unfold directoryOf
      rw [sound, empty]
      exact ⟨rfl, rfl, rfl, rfl⟩
    · unfold directoryOf
      rcases h with fault | broken
      · rw [fault]
        exact ⟨rfl, rfl, rfl, rfl⟩
      · rw [broken]
        cases f.getLsbD (n.val + 1) <;> exact ⟨rfl, rfl, rfl, rfl⟩
  · have raised : (geometryFails (f.getLsbD 0) s ||
        decide (∃ n : Fin 4, (directoryOf (f.getLsbD (n.val + 1)) (s.nv.slots.get n)).2 = false)) = true := by
      rw [Bool.or_eq_true, geometryFails_iff, decide_eq_true_eq, or_assoc]
      exact h.imp_right fun h => h.imp_right fun ⟨n, hn⟩ => ⟨n, (directoryOf_fails _ _).2 hn⟩
    rw [raised] at noticed
    exact noticed
  · have silent : (geometryFails (f.getLsbD 0) s ||
        decide (∃ n : Fin 4, (directoryOf (f.getLsbD (n.val + 1)) (s.nv.slots.get n)).2 = false)) = false := by
      rw [Bool.or_eq_false_iff]
      refine ⟨Bool.eq_false_iff.2 fun h => ?_, decide_eq_false fun ⟨n, hn⟩ => ?_⟩
      · rw [geometryFails_iff, sound] at h
        exact h.elim (fun h => nomatch h) good
      · rw [directoryOf_fails, (fine n).1] at hn
        exact hn.elim (fun h => nomatch h) (fine n).2
    rw [silent] at noticed
    exact ports_of_noticed noticed

end Sys2Proof.Reading

/-! ## Reading the journal (R175) -/

namespace Sys2Proof.Journalling

open Sys2Proof.Machine Sys2Proof.Safety Sys2Proof.Starting Sys2Proof.Reporting Sys2Proof.Batching Sys2Proof.Porting
  Sys2Proof.Answering Sys2Proof.Cutting Sys2Proof.Storing Sys2Proof.Following Sys2Proof.Ending

/-! ### A request that waits -/

/-- A request whose rule leaves it in execution, with the blocks of `z`, and raises notices. -/
theorem request_waits {i : Instr} {r : Req} {p : Port} {args : List Byte} {s : State} {body : State → State}
    {e : Executing} {raised : Raised} (z : State) (hexec : exec i s = .next (takeRequest r p args body s))
    (h : Admitted r p args s)
    (hbody : ∀ P, Found r p args s P → body { s with ports := P } =
        { z with ports := (body { s with ports := P }).ports } ∧
      PortsHold p { P.get p with request := some e, pending := (P.get p).pending ||| raised p } raised
        { s with ports := P } (body { s with ports := P })) :
    ∃ t, exec i s = .next t ∧ t = { z with ports := t.ports } ∧ Handled r p args (some e) none raised s t := by
  have empty : (s.port p).response = none := h.slots.2
  have found : Found r p args s (received r p args s).ports := ⟨rfl⟩
  obtain ⟨blocks, ports⟩ := hbody _ found
  rw [takeRequest_admitted body h, received_eq] at hexec
  have held := ports.takeInput r
  refine ⟨_, hexec, ?_, fun q => ?_⟩
  · rw [takeInput_eq]
    generalize body { s with ports := (received r p args s).ports } = y at blocks ⊢
    rw [blocks]
  · rw [held q]
    by_cases hq : q = p
    · rw [if_pos hq, if_pos hq, hq, found.port]
      simp [portReceived, portAfter, ← empty]
    · rw [if_neg hq, if_neg hq]
      have own : ({ s with ports := (received r p args s).ports } : State).port q = s.port q :=
        (received_changed r p args s).others q hq
      rw [own]

theorem keepExecuting_hold (p : Port) (code : Byte) (waiting : Waiting) (s : State) :
    PortsHold p { s.port p with request := some ⟨code, waiting, false⟩ } quiet s (keepExecuting p code waiting s) :=
  (portChanged_modifyPort p (fun x => { x with request := some ⟨code, waiting, false⟩ }) s).hold

theorem storeFull_iff (s : State) : s.storeFull = true ↔ 8 ≤ s.store.queue.length := decide_eq_true_iff

/-! ### A read that joins the store queue (R167, R168) -/

/-- The store with a read queued: it is in progress at once when no operation stands before it. -/
def readQueued (op : StoreOp) (x : OrderStore) : OrderStore :=
  { x with
    queue := x.queue ++ [op], head := if x.queue = [] then .running .nothing else x.head
    sampled := if x.queue = [] then x.enabled else x.sampled }

theorem startHead_read {op : StoreOp} (read : op.isRead = true) (s : State) :
    startHead op s = { s with store := { s.store with head := .running .nothing } } := by
  cases op with
  | geometryRead | slotRead | journalRead => rfl
  | headerWrite | recipeWrite | batchWrite | journalAppend | geometryWrite | slotErase => exact (nomatch read)

theorem enqueue_isRead {op : StoreOp} (read : op.isRead = true) (s : State) :
    enqueue op s = { s with store := readQueued op s.store } := by
  by_cases empty : s.store.queue = []
  · rw [Limits.enqueue_read empty read, startHead_read read]
    simp only [readQueued, if_pos empty]
    rfl
  · rw [Limits.enqueue_behind empty]
    simp only [readQueued, if_neg empty]
    rfl

theorem argNat_tail {args : List Byte} {n : Nat} (h : args.length = 1 + n) : argNat args 1 n = natOfBytes (args.drop 1) :=
  Mapping.argNat_rest h

/-! ### The answer (R175, R194) -/

/-- The port that waits for a journal read, when the read has ended with `bytes`. -/
def journalAnswered (code : Byte) (d : Bool) (bytes : List Byte) (x : PortState) : PortState :=
  if bytes = [] then
    { x with request := none, response := if d then x.response else some ⟨code, .ok, [0]⟩ }
  else { x with request := some ⟨code, .words bytes [1], d⟩ }

theorem answerJournal_changed {p : Port} {code : Byte} {d : Bool} {s : State} (bytes : List Byte)
    (request : (s.port p).request = some ⟨code, .journal, d⟩) (dir : (s.port p).toStation = true) :
    PortChanged p (journalAnswered code d bytes (s.port p)) s (answerJournal p bytes s) := by
  unfold answerJournal
  rw [request]
  dsimp only
  by_cases empty : bytes = []
  · rw [if_pos (by simp [empty])]
    refine ((portChanged_refl p s).respond code .ok [0]).of_eq ?_
    rw [PortState.answered, request, journalAnswered, if_pos empty]
    cases d <;> rfl
  · rw [if_neg (by simpa using empty), dir, if_neg (by decide)]
    refine (portChanged_modifyPort p _ s).of_eq ?_
    rw [journalAnswered, if_neg empty]

theorem degradeSlot_onlyNotices (n : Fin 4) (s : State) : OnlyNotices s (degradeSlot n s) :=
  (Consequent.after_eq ((consequent_raiseAll .store (modifyDir n (fun d => { d with state := .degraded }) s)).trans
    (consequent_settleJournalPath _)) (s := s) rfl rfl).notices

/-- A request on a port keeps its slots while notices are raised. -/
theorem slots_of_onlyNotices {s t : State} (h : OnlyNotices s t) (p : Port) :
    ∃ x, t.port p = { s.port p with pending := x } := h.elim fun _ noticed => ⟨_, noticed p⟩

theorem pending_of_portChanged {p : Port} {x : PortState} {n : Notice} {s t : State} (h : PortChanged p x s t)
    (hx : x.pending = (s.port p).pending) (hp : ∀ q, Pending q n s) (q : Port) : Pending q n t := by
  by_cases hq : q = p
  · rw [hq, Pending, h.own, hx]
    exact hp p
  · rw [Pending, h.others q hq]
    exact hp q

/-- What the end of a journal read leaves, `bytes` the summary that it brought. -/
structure JournalRead (p : Port) (code : Byte) (d : Bool) (bytes : List Byte) (s t : State) : Prop where
  side : StoreSide s t
  nv : t.nv = s.nv
  fifo : (t.port p).fifo = (s.port p).fifo
  request : (t.port p).request = if bytes = [] then none else some ⟨code, .words bytes [1], d⟩
  response : (t.port p).response =
    if bytes = [] ∧ d = false then some ⟨code, .ok, [0]⟩ else (s.port p).response

/-- A journal read answered on the state `w`, which differs from `s` by what its failure leaves. -/
theorem journalRead_answered {p : Port} {code : Byte} {d : Bool} {bytes : List Byte} {s w t : State}
    (request : (s.port p).request = some ⟨code, .journal, d⟩) (dir : (s.port p).toStation = true)
    (side : StoreSide s w) (nv : w.nv = s.nv) (ports : OnlyNotices s w) (moved : MovedOn (answerJournal p bytes w) t) :
    JournalRead p code d bytes s t := by
  obtain ⟨x, own⟩ := slots_of_onlyNotices ports p
  have changed := answerJournal_changed bytes (s := w) (p := p) (code := code) (d := d) (by rw [own]; exact request)
    (by rw [own]; exact dir)
  obtain ⟨y, later⟩ := slots_of_onlyNotices moved.notices p
  rw [changed.own, own] at later
  have answeredSide : StoreSide w (answerJournal p bytes w) := by
    have rest := changed.rest
    unfold SameButPorts at rest
    unfold StoreSide
    rw [rest]
  refine ⟨StoreSide.trans side (StoreSide.trans answeredSide moved.side), ?_, ?_, ?_, ?_⟩
  · rw [moved.nv, changed.rest]
    exact nv
  · rw [later, journalAnswered]
    split <;> rfl
  · rw [later, journalAnswered]
    split <;> rfl
  · rw [later, journalAnswered]
    by_cases empty : bytes = []
    · cases d <;> simp [empty]
    · simp [empty]

theorem answerJournal_store (p : Port) (bytes : List Byte) (s : State) : (answerJournal p bytes s).store = s.store := by
  unfold answerJournal
  repeat' split
  all_goals rfl

/-- The 26-byte layout of a summary (R175). -/
theorem summary_bytes (x : Summary) : x.bytes =
    bytesOfNat 4 x.roll ++ bytesOfNat 4 x.length ++ bytesOfNat 4 x.fault
      ++ (match x.mean with
        | some m => bytesOfInt 2 m.l ++ bytesOfInt 2 m.a ++ bytesOfInt 2 m.b
        | none => List.replicate 6 0#8)
      ++ [BitVec.ofNat 8 x.run]
      ++ (match x.grade with
        | .first => [0#8, 0#8]
        | .reject cause => [1#8, cause.code])
      ++ [BitVec.ofNat 8 (x.batch.getD 0), x.flags, if x.outcome = .applied then 1#8 else 2#8,
        if x.mean = none then 0#8 else 1#8, 0#8] := by
  obtain ⟨roll, run, length, grade, batch, mean, fault, flags, outcome⟩ := x
  have outcomes : outcome.code = if outcome = .applied then 1#8 else 2#8 := by cases outcome <;> rfl
  have codes : grade.codes = (match grade with
      | .first => [0#8, 0#8]
      | .reject cause => [1#8, cause.code]) := by cases grade <;> rfl
  unfold Summary.bytes
  dsimp only
  rw [outcomes, codes]
  cases mean with
  | none =>
    have zero : bytesOfInt 2 0 = [0#8, 0#8] := by decide
    simp [lowByte, zero]
  | some m => simp [lowByte]

theorem bytes_ne_nil (x : Summary) : x.bytes ≠ [] := by
  unfold Summary.bytes
  simp

theorem journalReadEnd_effects {s : State} {n : Fin 4} {k : Nat} {p : Port} {rest : List StoreOp} {c : InFlight} (v : Bool)
    (queue : s.store.queue = .journalRead n k p :: rest) (head : s.store.head = .running c) :
    exec (.journalReadEnd v) s = .next (endHead (journalReadEffects n k p v) id s) := by
  show Host.Outcome.next (journalReadEnd v s) = _
  rw [journalReadEnd, inProgress_running queue head]

/-- A read that verifies, or finds the position blank. -/
theorem journalRead_verified {s : State} {n : Fin 4} {k : Nat} {p : Port} {code : Byte} {rest : List StoreOp} {v d : Bool}
    {bytes : List Byte} (queue : s.store.queue = .journalRead n k p :: rest)
    (request : (s.port p).request = some ⟨code, .journal, d⟩) (dir : (s.port p).toStation = true)
    (effect : journalReadEffects n k p v s = answerJournal p bytes s) :
    JournalRead p code d bytes s (endHead (journalReadEffects n k p v) id s) ∧
      NextReadStarts rest (endHead (journalReadEffects n k p v) id s) := by
  have moved := endHead_movedOn (journalReadEffects n k p v) s
  refine ⟨journalRead_answered (w := s) request dir rfl rfl (.refl s) (effect ▸ moved),
    endHead_nextReadStarts (op := .journalRead n k p) ?_⟩
  rw [effect, answerJournal_store]
  exact queue

/-- A read that fails to verify degrades the slot, and brings no summary. -/
theorem journalRead_failed {s : State} {n : Fin 4} {k : Nat} {p : Port} {code : Byte} {rest : List StoreOp} {v d : Bool}
    (queue : s.store.queue = .journalRead n k p :: rest)
    (request : (s.port p).request = some ⟨code, .journal, d⟩) (dir : (s.port p).toStation = true)
    (fails : v = false ∨ cellAt (s.nv.slots.get n).journal k = .broken) :
    JournalRead p code d [] s (endHead (journalReadEffects n k p v) id s) ∧
      NextReadStarts rest (endHead (journalReadEffects n k p v) id s) ∧
      Degraded n s (endHead (journalReadEffects n k p v) id s) := by
  let noted : State := recordFailure (.journalRead n k p) (some n) .verify s
  have effect : journalReadEffects n k p v s = answerJournal p [] (degradeSlot n noted) := by
    unfold journalReadEffects
    rcases fails with rfl | broken
    · rfl
    · rw [broken]
      cases v <;> rfl
  have failed : SlotFailed n s noted (degradeSlot n noted) := degradeSlot_failed rfl rfl rfl fun _ _ => rfl
  have notices : OnlyNotices s (degradeSlot n noted) := degradeSlot_onlyNotices n noted
  have moved := endHead_movedOn (journalReadEffects n k p v) s
  rw [effect] at moved
  obtain ⟨x, own⟩ := slots_of_onlyNotices notices p
  have changed := answerJournal_changed [] (s := degradeSlot n noted) (p := p) (code := code) (d := d)
    (by rw [own]; exact request) (by rw [own]; exact dir)
  have degraded : Degraded n s (answerJournal p [] (degradeSlot n noted)) := by
    have kept := pending_of_portChanged (n := .store) changed (by rw [journalAnswered, if_pos rfl])
      failed.degraded.notice
    have rest := changed.rest
    generalize answerJournal p [] (degradeSlot n noted) = u at kept rest
    have eq : ∃ P, u = { degradeSlot n noted with ports := P } := ⟨_, rest⟩
    clear changed moved effect rest
    obtain ⟨P, rfl⟩ := eq
    exact ⟨failed.degraded.state, failed.degraded.order, failed.degraded.run, failed.degraded.count,
      failed.degraded.full, kept, failed.degraded.geometry, failed.degraded.others⟩
  refine ⟨journalRead_answered request dir failed.side failed.nv notices moved,
    endHead_nextReadStarts (op := .journalRead n k p) ?_, Degraded.movedOn degraded moved⟩
  rw [effect, answerJournal_store, failed.queue]
  exact queue

/-- Settles O44: the request's checks in their order and the read that joins the queue, and the read's end by what stands
at the position. -/
theorem journalReads : Obligations.JournalReads := by
  refine ⟨fun p args s h => ⟨fun out => ?_, fun n k number position => ?_⟩,
    fun s n k p code c rest v d queue head request dir => ?_⟩
  · have first : argNat args 0 1 = natOfBytes (args.take 1) := rfl
    refine request_refused (r := .journalRead) (body := journalReadBody p args) rfl h fun P _ => ?_
    rw [journalReadBody, first, slotOfNumber_none out]
    rfl
  · have hslot : slotOfNumber (argNat args 0 1) = some n := by
      rw [show argNat args 0 1 = natOfBytes (args.take 1) from rfl, number]
      exact slotOfNumber_val n
    have hpos : argNat args 1 2 = k := by rw [argNat_tail h.length]; exact position
    have body (P : Ports) : journalReadBody p args { s with ports := P } =
        if (s.dir n).count ≤ k then answer .journalRead p .range { s with ports := P }
        else if !(P.get p).toStation then answer .journalRead p .fifoDir { s with ports := P }
        else if s.storeFull then answer .journalRead p .busy { s with ports := P }
        else enqueue (.journalRead n k p)
          (keepExecuting p Req.journalRead.role.code .journal { s with ports := P }) := by
      unfold journalReadBody
      rw [hslot]
      dsimp only
      rw [hpos]
      rfl
    refine ⟨fun low => ?_, fun high toPart => ?_, fun high toStation full => ?_, fun high toStation room => ?_⟩
    · refine request_refused (r := .journalRead) (body := journalReadBody p args) rfl h fun P _ => ?_
      rw [body, if_pos low]
      rfl
    · refine request_refused (r := .journalRead) (body := journalReadBody p args) rfl h fun P found => ?_
      rw [body, if_neg (not_le.2 high), found.toStation, toPart]
      rfl
    · refine request_refused (r := .journalRead) (body := journalReadBody p args) rfl h fun P found => ?_
      rw [body, if_neg (not_le.2 high), found.toStation, toStation, if_neg (by decide),
        if_pos ((storeFull_iff s).2 full)]
      rfl
    · have taken (P : Ports) (found : Found .journalRead p args s P) : journalReadBody p args { s with ports := P } =
          { keepExecuting p Req.journalRead.role.code .journal { s with ports := P } with
            store := readQueued (.journalRead n k p) s.store } := by
        rw [body, if_neg (not_le.2 high), found.toStation, toStation, if_neg (by decide),
          if_neg (fun full => absurd ((storeFull_iff s).1 full) (not_le.2 room)), enqueue_isRead rfl]
        rfl
      obtain ⟨t, ht, rest, handled⟩ := request_waits (i := .journalRead p args) (r := .journalRead)
        (body := journalReadBody p args)
        (e := ⟨0x54#8, .journal, false⟩) (raised := quiet)
        { s with store := readQueued (.journalRead n k p) s.store } rfl h fun P found => by
          have held := keepExecuting_hold p Req.journalRead.role.code .journal { s with ports := P }
          rw [taken P found]
          refine ⟨rfl, fun q => (held q).trans ?_⟩
          simp [quiet, Req.role]
      have store : t.store = readQueued (.journalRead n k p) s.store := by rw [rest]
      refine ⟨t, ht, ?_, handled, by rw [store]; rfl, by rw [store]; rfl, fun empty => ?_, fun busy => ?_⟩
      · rw [store]
        exact rest
      · rw [store]
        exact if_pos empty
      · rw [store]
        exact if_neg busy
  · refine ⟨_, journalReadEnd_effects v queue head, ?_⟩
    by_cases fails : v = false ∨ cellAt (s.nv.slots.get n).journal k = .broken
    · obtain ⟨read, next, degraded⟩ := journalRead_failed queue request dir fails
      refine ⟨read.side, next, read.nv, read.fifo, fun x verified written => ?_, fun verified blank => ?_, fun _ =>
        ⟨degraded, read.request, ?_⟩⟩
      · rw [verified, written] at fails
        exact absurd fails (by simp)
      · rw [verified, blank] at fails
        exact absurd fails (by simp)
      · rw [read.response]
        cases d <;> simp
    · obtain ⟨verifies, unbroken⟩ := not_or.1 fails
      have verified : v = true := by simpa using verifies
      cases cell : cellAt (s.nv.slots.get n).journal k with
      | broken => exact absurd cell unbroken
      | blank =>
        obtain ⟨read, next⟩ := journalRead_verified (v := v) (bytes := []) queue request dir (by
          unfold journalReadEffects
          rw [verified, cell])
        refine ⟨read.side, next, read.nv, read.fifo, fun x _ written => ?_, fun _ _ => ⟨read.request, ?_⟩, fun h => ?_⟩
        · cases written
        · rw [read.response]
          cases d <;> simp
        · rw [verified] at h
          exact absurd h (by simp)
      | written x =>
        obtain ⟨read, next⟩ := journalRead_verified (v := v) (bytes := x.bytes) queue request dir (by
          unfold journalReadEffects
          rw [verified, cell])
        refine ⟨read.side, next, read.nv, read.fifo, fun y _ written => ?_, fun _ blank => ?_, fun h => ?_⟩
        · cases written
          exact ⟨by rw [read.response, if_neg fun h => bytes_ne_nil x h.1],
            by rw [read.request, if_neg (bytes_ne_nil x), summary_bytes] <;> rfl⟩
        · cases blank
        · rw [verified] at h
          exact absurd h (by simp)

end Sys2Proof.Journalling

/-! ## GEOMETRY_WRITE, RECIPE_WRITE and RECIPE_TUNE (R7, R8, R12, R17) -/

namespace Sys2Proof.Writing

open Sys2Proof.Machine Sys2Proof.Safety Sys2Proof.Starting Sys2Proof.Reporting Sys2Proof.Batching Sys2Proof.Porting
  Sys2Proof.Answering Sys2Proof.Cutting Sys2Proof.Storing Sys2Proof.Following Sys2Proof.Ending Sys2Proof.Journalling

/-! ### Requests that are answered from a state they make -/

/-- A request whose rule answers the state `made`, which it has reached by raising notices. -/
theorem request_made {i : Instr} {r : Req} {p : Port} {args : List Byte} {s : State} {body : State → State}
    {status : Status} {result : List Byte} {made : State} {raised : Raised}
    (hexec : exec i s = .next (takeRequest r p args body s)) (h : Admitted r p args s)
    (hbody : body (received r p args s) = respond p r.role.code status result made)
    (noticed : Noticed raised (received r p args s) made) :
    ∃ t, exec i s = .next t ∧ t = { made with ports := t.ports } ∧ Answered r p args status result raised s t := by
  rw [takeRequest_admitted body h, hbody] at hexec
  exact ⟨_, hexec, answered_sameButPorts r p r.role.code status result made, answered_of h noticed⟩

theorem Found.wholeWords {r : Req} {p : Port} {args : List Byte} {s : State} {P : Ports} (h : Found r p args s P) :
    (P.get p).wholeWords = (s.port p).fifo.take (2 * ((s.port p).fifo.length / 2)) := by
  rw [PortState.wholeWords, h.fifo]

/-! ### The clamp report (R7) -/

theorem clampReport_eq (ids : List Nat) : clampReport ids = clampBytes ids := rfl

/-- The identifiers reported are those at which the two lists differ. -/
theorem clampedIds_map (f g : Nat → Int) (start n : Nat) :
    clampedIds start ((List.range' start n).map f) ((List.range' start n).map g) =
      (List.range' start n).filter (fun id => decide (g id ≠ f id)) := by
  induction n generalizing start with
  | zero => rfl
  | succ n ih =>
    rw [List.range'_succ, List.map_cons, List.map_cons, clampedIds, ih, List.filter_cons]
    by_cases same : f start = g start
    · simp [same]
    · simp [same, Ne.symm same]

/-! ### GEOMETRY_WRITE (R17) -/

theorem geometryReadPending_iff (s : State) : geometryReadPending s = true ↔ .geometryRead ∈ s.store.queue := by
  unfold geometryReadPending
  simp

theorem range_thirteen : List.range 13 = 0 :: List.range' 1 12 := rfl

section
variable {bytes : List Byte} {given clamped : Nat → Nat}
variable (hgiven : ∀ id, given id = natOfBytes ((bytes.drop (4 * (id - 1))).take 4))
variable (hclamped : ∀ id, clamped id = if id ≤ 4 then max 1 (min (given id) 2000000) else min (given id) 200000)
include hgiven

theorem geometry_values : (Geometry.ofBytes bytes).values = (List.range' 1 12).map fun id => (given id : Int) := by
  simp only [Geometry.values, Geometry.ofBytes, readSettles, field32, List.range', List.map_cons, List.map_nil, hgiven]
  rfl

include hclamped

theorem geometry_clamped : (Geometry.ofBytes bytes).clamp.dE = clamped 1 ∧ (Geometry.ofBytes bytes).clamp.dQ = clamped 2 ∧
    (Geometry.ofBytes bytes).clamp.dW = clamped 3 ∧ (Geometry.ofBytes bytes).clamp.dK = clamped 4 ∧
    (∀ k : Fin 7, (Geometry.ofBytes bytes).clamp.settle.get k = clamped (k.val + 5)) ∧
    (Geometry.ofBytes bytes).clamp.settleEmboss = clamped 12 := by
  refine ⟨?_, ?_, ?_, ?_, fun k => ?_, ?_⟩
  · rw [hclamped, if_pos (by decide), hgiven]; rfl
  · rw [hclamped, if_pos (by decide), hgiven]; rfl
  · rw [hclamped, if_pos (by decide), hgiven]; rfl
  · rw [hclamped, if_pos (by decide), hgiven]; rfl
  · rw [hclamped, if_neg (by omega), hgiven]
    fin_cases k <;> rfl
  · rw [hclamped, if_neg (by decide), hgiven]; rfl

theorem geometry_clampedValues :
    (Geometry.ofBytes bytes).clamp.values = (List.range' 1 12).map fun id => (clamped id : Int) := by
  obtain ⟨dE, dQ, dW, dK, settle, emboss⟩ := geometry_clamped hgiven hclamped
  have rows : (Geometry.ofBytes bytes).clamp.settle.rows =
      [clamped 5, clamped 6, clamped 7, clamped 8, clamped 9, clamped 10, clamped 11] := by
    show _ = List.ofFn fun k : Fin 7 => clamped (k.val + 5)
    rw [show (fun k : Fin 7 => clamped (k.val + 5)) = (Geometry.ofBytes bytes).clamp.settle.get from
      funext fun k => (settle k).symm]
    rfl
  rw [Geometry.values, dE, dQ, dW, dK, emboss, rows]
  rfl

theorem geometry_report : clampReport (clampedIds 1 (Geometry.ofBytes bytes).values (Geometry.ofBytes bytes).clamp.values) =
    clampBytes ((List.range 13).filter fun id => decide (1 ≤ id ∧ clamped id ≠ given id)) := by
  rw [geometry_values hgiven, geometry_clampedValues hgiven hclamped, clampedIds_map, clampReport_eq, range_thirteen,
    List.filter_cons, if_neg (by simp)]
  refine congrArg clampBytes (List.filter_congr fun id hid => ?_)
  have low : 1 ≤ id := (List.mem_range'_1.1 hid).1
  simp [low]

end

/-- Settles O49: the checks in their order, then the clamped record enters use and its write joins the queue. -/
theorem geometryWritten : Obligations.GeometryWritten := by
  intro p s bytes given clamped h hbytes hgiven hclamped
  obtain ⟨dE, dQ, dW, dK, settle, emboss⟩ := geometry_clamped hgiven hclamped
  let g : Geometry := (Geometry.ofBytes bytes).clamp
  have order : g.brokenOrder = if ¬ clamped 1 < clamped 2 then some 2 else if ¬ clamped 2 < clamped 3 then some 3
      else if ¬ clamped 3 ≤ clamped 4 then some 4 else none := by
    rw [Geometry.brokenOrder, dE, dQ, dW, dK]
  have body (P : Ports) (found : Found .geometryWrite p [] s P) : geometryWriteBody p { s with ports := P } =
      if (s.port p).toStation then answer .geometryWrite p .fifoDir { s with ports := P }
      else if bytes.length ≠ 50 then answer .geometryWrite p .fifoCount { s with ports := P }
      else if geometryReadPending s || s.storeFull then answer .geometryWrite p .busy { s with ports := P }
      else match g.brokenOrder with
        | some id => respond p Req.geometryWrite.role.code .range [lowByte id] { s with ports := P }
        | none => respond p Req.geometryWrite.role.code .ok
            (clampReport (clampedIds 1 (Geometry.ofBytes bytes).values g.values)) (putGeometry g { s with ports := P }) := by
    have words : (({ s with ports := P } : State).port p).wholeWords = bytes := (Found.wholeWords found).trans hbytes.symm
    have dir : (({ s with ports := P } : State).port p).toStation = (s.port p).toStation := found.toStation
    unfold geometryWriteBody
    dsimp only
    rw [words, dir] <;> rfl
  refine ⟨fun toStation => ?_, fun toPart count => ?_, fun toPart count => ⟨fun full => ?_, fun read room => ⟨fun broken => ?_,
    fun h1 h2 h3 => ?_⟩⟩⟩
  · refine request_refused (r := .geometryWrite) (body := geometryWriteBody p) rfl h fun P found => ?_
    rw [body P found, if_pos toStation]
    rfl
  · refine request_refused (r := .geometryWrite) (body := geometryWriteBody p) rfl h fun P found => ?_
    rw [body P found, toPart, if_neg (by decide), if_pos count]
    rfl
  · refine request_refused (r := .geometryWrite) (body := geometryWriteBody p) rfl h fun P found => ?_
    have busy : (geometryReadPending s || s.storeFull) = true := by
      rw [Bool.or_eq_true, geometryReadPending_iff, storeFull_iff]
      exact full
    rw [body P found, toPart, if_neg (by decide), if_neg (not_not_intro count), if_pos busy]
    rfl
  · have free : ¬ (geometryReadPending s || s.storeFull) = true := by
      rw [Bool.or_eq_true, geometryReadPending_iff, storeFull_iff]
      exact not_or.2 ⟨read, not_le.2 room⟩
    refine request_refused (r := .geometryWrite) (body := geometryWriteBody p) rfl h fun P found => ?_
    rw [body P found, toPart, if_neg (by decide), if_neg (not_not_intro count), if_neg free, order]
    by_cases h1 : clamped 1 < clamped 2
    · rw [if_neg (not_not_intro h1), if_neg (not_le.2 h1)]
      by_cases h2 : clamped 2 < clamped 3
      · rw [if_neg (not_not_intro h2), if_neg (not_le.2 h2), if_pos fun h3 => broken ⟨h1, h2, h3⟩]
        rfl
      · rw [if_pos h2, if_pos (not_lt.1 h2)]
        rfl
    · rw [if_pos h1, if_pos (not_lt.1 h1)]
      rfl
  · have free : ¬ (geometryReadPending s || s.storeFull) = true := by
      rw [Bool.or_eq_true, geometryReadPending_iff, storeFull_iff]
      exact not_or.2 ⟨read, not_le.2 room⟩
    let used : State := { received .geometryWrite p [] s with
      geometry := g, line := { s.line with geometryValid := true } }
    have received' := received_eq .geometryWrite p [] s
    have noted : used = { s with
        geometry := g, line := { s.line with geometryValid := true }
        ports := (received .geometryWrite p [] s).ports } := by
      show ({ received .geometryWrite p [] s with geometry := _, line := _ } : State) = _
      rw [received']
    obtain ⟨raised, queued⟩ := enqueue_plain (op := .geometryWrite g) (s := used) rfl (.inl rfl)
    have made : geometryWriteBody p (received .geometryWrite p [] s) =
        respond p Req.geometryWrite.role.code .ok
          (clampBytes ((List.range 13).filter fun id => decide (1 ≤ id ∧ clamped id ≠ given id)))
          (enqueue (.geometryWrite g) used) := by
      rw [noted]
      conv_lhs => rw [received']
      rw [body _ ⟨rfl⟩, toPart, if_neg (by decide), if_neg (not_not_intro count), if_neg free, order,
        if_neg (not_not_intro h1), if_neg (not_not_intro h2), if_neg (not_not_intro h3),
        ← geometry_report hgiven hclamped]
      rfl
    obtain ⟨t, ht, rest, answered⟩ := request_made (i := .geometryWrite p []) (r := .geometryWrite)
      (body := geometryWriteBody p) rfl h made
      (raised := raised) queued.noticed
    have side := queued.rest
    have store := queued.store
    generalize enqueue (.geometryWrite g) used = u at rest side store
    have geometry : t.geometry = g := by rw [rest, side]
    have stored : t.store = u.store := by rw [rest]
    have before : used.store = s.store := by rw [noted]
    refine ⟨t, raised, ht, ?_, geometry ▸ dE, geometry ▸ dQ, geometry ▸ dW, geometry ▸ dK, fun k => geometry ▸ settle k,
      geometry ▸ emboss, ?_, ?_, ?_, answered⟩
    · rw [geometry]
      conv_lhs => rw [rest, side, noted]
      rw [stored]
    · rw [geometry]
      show BitVec.ofNat 16 (natOfBytes ((bytes.drop 48).take 2)) &&& _ = _
      rw [List.take_of_length_le (by rw [List.length_drop]; omega)]
    · rw [geometry, stored, store, before]
    · rw [stored, store, before]


/-! ### The fields of the recipe (R6, R8) -/

theorem recipeRows_id : ∀ i : Fin 50, (recipeRows.get i).id = i.val + 1 := by decide

theorem recipeRows_range : ∀ row ∈ recipeRows, row.lo ≤ row.hi ∧ (row.hiFromRepeat = true → row.lo = 0) := by decide

theorem row_place {row : FieldRow} (h : row ∈ recipeRows) : ∃ i : Fin 50, recipeRows.get i = row ∧ row.id = i.val + 1 := by
  obtain ⟨i, rfl⟩ := List.mem_iff_get.1 h
  exact ⟨i, rfl, recipeRows_id i⟩

theorem byId_succ (r : Recipe) (i : Fin 50) : r.byId (i.val + 1) = r.fields.get i := by
  have inside : i.val < r.fields.rows.length := by rw [r.fields.size]; exact i.isLt
  show (0 :: r.fields.rows).getD (i.val + 1) 0 = r.fields.rows[i.val]
  rw [List.getD_cons_succ, List.getD_eq_getElem _ _ inside]

theorem rows_byId (r : Recipe) : r.fields.rows = (List.range' 1 50).map r.byId := by
  refine List.ext_getElem (by rw [r.fields.size]; rfl) fun i h1 h2 => ?_
  have inside : i < 50 := by rw [r.fields.size] at h1; exact h1
  rw [List.getElem_map, List.getElem_range', Nat.one_mul, Nat.add_comm]
  exact (byId_succ r ⟨i, inside⟩).symm

theorem clamp_get (r : Recipe) (i : Fin 50) :
    r.clamp.fields.get i = (recipeRows.get i).clamp (clampedRepeat r) (r.fields.get i) := by
  exact List.getElem_zipWith (h := (r.clamp.fields.size.symm ▸ i.isLt : i.val < r.clamp.fields.rows.length))

theorem clamp_repeatLength (r : Recipe) : r.clamp.repeatLength = clampedRepeat r := clamp_get r 0

theorem clamp_byId (r : Recipe) {row : FieldRow} (h : row ∈ recipeRows) :
    r.clamp.byId row.id =
      max row.lo (min (if row.hiFromRepeat then r.clamp.repeatLength - 1 else row.hi) (r.byId row.id)) := by
  obtain ⟨i, place, id⟩ := row_place h
  obtain ⟨range, fromRepeat⟩ := recipeRows_range row h
  have least : 1000 ≤ clampedRepeat r := by
    rw [clampedRepeat, clampInt_eq (by decide)]
    exact le_max_left _ _
  rw [id, byId_succ, byId_succ, clamp_get, place, clamp_repeatLength, FieldRow.clamp, clampInt_eq, min_comm]
  split
  · rename_i high
    have := fromRepeat high
    omega
  · exact range

theorem recipeRows_ids : recipeRows.map FieldRow.id = List.range' 1 50 := by decide

theorem recipe_report (r : Recipe) : clampReport (clampedIds 1 r.fields.rows r.clamp.fields.rows) =
    clampBytes ((recipeRows.map FieldRow.id).filter fun id => decide (r.clamp.byId id ≠ r.byId id)) := by
  rw [rows_byId r, rows_byId r.clamp, clampedIds_map, clampReport_eq, recipeRows_ids]

/-! ### RECIPE_WRITE (R7) -/

/-- Without a writable slot no place of the store queue is taken. -/
theorem takePlaces_unwritable {s : State} (h : writableSlot s = none) (fuel : Nat) : takePlaces fuel s = s := by
  have journal : journalSlot s = none := by rw [journalSlot, h]
  cases fuel with
  | zero => rfl
  | succ fuel =>
    rw [takePlaces]
    split
    · rfl
    · rw [h, journal]
      cases lowestUnsaved s <;> rfl

/-- A recipe that the open order's slot takes, or, DEGRADED as it is, gives up. -/
theorem enqueue_recipe {n : Fin 4} {r : Recipe} {s : State} (slot : s.line.slot = some n) :
    ∃ raised, StorePorts s (enqueue (.recipeWrite n r) s) ∧ Noticed raised s (enqueue (.recipeWrite n r) s) ∧
      ((s.dir n).state ≠ .degraded ∨ s.store.queue ≠ [] →
        (enqueue (.recipeWrite n r) s).store.queue = s.store.queue ++ [.recipeWrite n r]) := by
  by_cases taken : targetDegraded (.recipeWrite n r) s = false ∨ s.store.queue ≠ []
  · obtain ⟨raised, queued⟩ := enqueue_plain (op := .recipeWrite n r) (s := s) rfl taken
    exact ⟨raised, queued.rest, queued.noticed, fun _ => by rw [queued.store]⟩
  · obtain ⟨target, busy⟩ := not_or.1 taken
    have degraded : targetDegraded (.recipeWrite n r) s = true := by simpa using target
    have empty : s.store.queue = [] := not_not.1 busy
    let failed : State := recordFailure (.recipeWrite n r) (some n) .degradedTarget (pushOp (.recipeWrite n r) s)
    have state : (s.dir n).state = .degraded := by simpa [targetDegraded, StoreOp.slot?] using degraded
    have unwritable : writableSlot (releaseHead failed) = none := writableSlot_none_iff.2 fun m hm => .inl (by
      have same : s.line.slot = some m := hm
      rw [slot] at same
      cases same
      exact state)
    have queue : (releaseHead failed).store.queue = [] := by
      show (s.store.queue ++ [_]).tail = []
      rw [empty]
      rfl
    have made : enqueue (.recipeWrite n r) s =
        { releaseHead failed with store := { (releaseHead failed).store with head := .absent } } := by
      rw [enqueue_degraded empty rfl degraded]
      show dealHead 63 (takePlaces 24 (releaseHead failed)) = _
      rw [takePlaces_unwritable unwritable, dealHead, queue]
    rw [made]
    exact ⟨quiet, rfl, noticed_refl s _ rfl, fun h => absurd h fun h => h.elim (· state) (· empty)⟩

theorem storeRefuses_iff (s : State) : storeRefuses s = true ↔ s.line.slot ≠ none ∧ 8 ≤ s.store.queue.length := by
  rw [storeRefuses, Bool.and_eq_true, storeFull_iff, Option.isSome_iff_ne_none]

/-- A clamped recipe in force and, for an order with a slot, queued. -/
theorem putRecipe_put (r : Recipe) (s : State) : ∃ raised,
    putRecipe r s = { s with recipe := r, store := (putRecipe r s).store, ports := (putRecipe r s).ports } ∧
      Noticed raised s (putRecipe r s) ∧ (s.line.slot = none → (putRecipe r s).store = s.store) ∧
      ∀ n, s.line.slot = some n → (s.dir n).state ≠ .degraded ∨ s.store.queue ≠ [] →
        (putRecipe r s).store.queue = s.store.queue ++ [.recipeWrite n r] := by
  unfold putRecipe
  dsimp only
  cases slot : s.line.slot with
  | none => exact ⟨quiet, rfl, noticed_refl s _ rfl, fun _ => rfl, fun n h => (nomatch h)⟩
  | some n =>
    obtain ⟨raised, rest, noticed, queue⟩ := enqueue_recipe (r := r) (s := { s with recipe := r }) slot
    dsimp only
    generalize enqueue (.recipeWrite n r) { s with recipe := r } = t at rest noticed queue
    refine ⟨raised, rest, noticed, fun h => (nomatch h), fun m h => ?_⟩
    cases h
    exact queue

/-- Settles O47: the checks in their order, then the clamped recipe comes into force and is queued for a slot. -/
theorem recipeWritten : Obligations.RecipeWritten := by
  intro p s bytes h hbytes
  let given : Recipe := Recipe.ofBytes bytes
  have body (P : Ports) (found : Found .recipeWrite p [] s P) : recipeWriteBody p { s with ports := P } =
      if (s.port p).toStation then answer .recipeWrite p .fifoDir { s with ports := P }
      else if bytes.length ≠ 128 then answer .recipeWrite p .fifoCount { s with ports := P }
      else if storeRefuses s then answer .recipeWrite p .busy { s with ports := P }
      else respond p Req.recipeWrite.role.code .ok
        (clampReport (clampedIds 1 given.fields.rows given.clamp.fields.rows))
        (putRecipe given.clamp { s with ports := P }) := by
    have words : (({ s with ports := P } : State).port p).wholeWords = bytes := (Found.wholeWords found).trans hbytes.symm
    have dir : (({ s with ports := P } : State).port p).toStation = (s.port p).toStation := found.toStation
    unfold recipeWriteBody
    dsimp only
    rw [words, dir] <;> rfl
  refine ⟨fun toStation => ?_, fun toPart count => ?_, fun toPart count => ⟨fun slot full => ?_, fun free => ?_⟩⟩
  · refine request_refused (r := .recipeWrite) (body := recipeWriteBody p) rfl h fun P found => ?_
    rw [body P found, if_pos toStation]
    rfl
  · refine request_refused (r := .recipeWrite) (body := recipeWriteBody p) rfl h fun P found => ?_
    rw [body P found, toPart, if_neg (by decide), if_pos count]
    rfl
  · refine request_refused (r := .recipeWrite) (body := recipeWriteBody p) rfl h fun P found => ?_
    rw [body P found, toPart, if_neg (by decide), if_neg (not_not_intro count),
      if_pos ((storeRefuses_iff s).2 ⟨slot, full⟩)]
    rfl
  · have takes : ¬ storeRefuses s = true := fun refuses => by
      obtain ⟨slot, full⟩ := (storeRefuses_iff s).1 refuses
      exact free.elim slot (not_lt.2 full)
    obtain ⟨raised, put, noticed, unstored, queued⟩ := putRecipe_put given.clamp (received .recipeWrite p [] s)
    have made : recipeWriteBody p (received .recipeWrite p [] s) =
        respond p Req.recipeWrite.role.code .ok
          (clampBytes ((recipeRows.map FieldRow.id).filter fun id => decide (given.clamp.byId id ≠ given.byId id)))
          (putRecipe given.clamp (received .recipeWrite p [] s)) := by
      have found : Found .recipeWrite p [] s (received .recipeWrite p [] s).ports := ⟨rfl⟩
      have all := body _ found
      rw [← received_eq, toPart, if_neg (by decide), if_neg (not_not_intro count), if_neg takes, recipe_report] at all
      exact all
    obtain ⟨t, ht, rest, answered⟩ := request_made (i := .recipeWrite p []) (r := .recipeWrite)
      (body := recipeWriteBody p) rfl h made noticed
    have line : (received .recipeWrite p [] s).line = s.line := by rw [received_eq]
    have store : (received .recipeWrite p [] s).store = s.store := by rw [received_eq]
    have dir (n : Fin 4) : (received .recipeWrite p [] s).dir n = s.dir n := by rw [State.dir, store]; rfl
    generalize putRecipe given.clamp (received .recipeWrite p [] s) = u at put unstored queued rest
    have recipe : t.recipe = given.clamp := by rw [rest, put]
    have stored : t.store = u.store := by rw [rest]
    refine ⟨t, raised, ht, ?_, fun row hrow => ?_, ?_, fun none => ?_, fun n slot sound => ?_⟩
    · rw [recipe]
      conv_lhs => rw [rest, put, received_eq]
      rw [stored]
    · rw [recipe]
      exact clamp_byId given hrow
    · rw [recipe]
      exact answered
    · rw [stored, unstored (by rw [line]; exact none), store]
    · rw [stored, recipe, ← store]
      exact queued n (by rw [line]; exact slot) (by rw [dir, store]; exact sound)

end Sys2Proof.Writing

/-! ## RECIPE_TUNE (R12) -/

namespace Sys2Proof.Tuning

open Sys2Proof.Machine Sys2Proof.Safety Sys2Proof.Starting Sys2Proof.Reporting Sys2Proof.Porting Sys2Proof.Answering
  Sys2Proof.Writing Sys2Proof.Running

/-! ### The tune as it is read (R12) -/

theorem readTune_eq (ids : List Nat) (bs : List Byte) :
    readTune ids bs = ids.mapIdx fun j id => (id, (natOfBytes ((bs.drop (2 * j)).take 2) : Int)) := by
  induction ids generalizing bs with
  | nil => rfl
  | cons id rest ih =>
    rw [readTune, ih, List.mapIdx_cons]
    simp only [Nat.mul_zero, List.drop_zero, List.drop_drop, Nat.mul_add, Nat.mul_one, Nat.add_comm 2]

/-- The value that a tune record gives the field `id`. -/
def tuneGiven (bytes : List Byte) (ids : List Nat) (id : Nat) : Int :=
  natOfBytes ((bytes.drop (8 + 2 * ids.idxOf id)).take 2)

/-- The value that the tune takes for the field `id`. -/
def tuneValue (bytes : List Byte) (ids : List Nat) (id : Nat) : Int :=
  match softRow id with
  | some row => row.clamp 0 (tuneGiven bytes ids id)
  | none => tuneGiven bytes ids id

theorem readTune_map (bytes : List Byte) {ids : List Nat} (once : ids.Nodup) :
    readTune ids (bytes.drop 8) = ids.map fun id => (id, tuneGiven bytes ids id) := by
  rw [readTune_eq]
  refine List.ext_getElem (by simp) fun j h1 h2 => ?_
  have inside : j < ids.length := by simpa using h1
  rw [List.getElem_mapIdx, List.getElem_map, tuneGiven, once.idxOf_getElem j inside, List.drop_drop]

theorem clampTune_map (bytes : List Byte) {ids : List Nat} (once : ids.Nodup) :
    clampTune (readTune ids (bytes.drop 8)) = ids.map fun id => (id, tuneValue bytes ids id) := by
  rw [readTune_map bytes once, clampTune, List.map_map]
  refine List.map_congr_left fun id _ => ?_
  simp only [Function.comp_apply, tuneValue]
  cases softRow id <;> rfl

theorem tuneClamped_map (ids : List Nat) (f g : Nat → Int) :
    tuneClamped (ids.map fun id => (id, f id)) (ids.map fun id => (id, g id)) =
      ids.filter fun id => decide (g id ≠ f id) := by
  induction ids with
  | nil => rfl
  | cons id rest ih =>
    unfold tuneClamped at ih ⊢
    rw [List.map_cons, List.map_cons, List.zip_cons_cons, List.filterMap_cons, ih, List.filter_cons]
    by_cases same : f id = g id
    · simp [same]
    · simp [same, Ne.symm same]

/-! ### The soft fields (R6) -/

theorem softRows_range : ∀ row ∈ recipeRows, row.soft = true → row.hiFromRepeat = false := by decide

theorem row_unique {x y : FieldRow} (hx : x ∈ recipeRows) (hy : y ∈ recipeRows) (same : x.id = y.id) : x = y := by
  obtain ⟨i, placeX, idX⟩ := row_place hx
  obtain ⟨j, placeY, idY⟩ := row_place hy
  have : i = j := Fin.ext (by omega)
  rw [← placeX, ← placeY, this]

theorem softRow_some {row : FieldRow} (h : row ∈ recipeRows) (soft : row.soft = true) : softRow row.id = some row := by
  unfold softRow
  cases found : recipeRows.find? (fun x => x.id == row.id && x.soft) with
  | none =>
    have := List.find?_eq_none.1 found row h
    simp [soft] at this
  | some x =>
    have keys := List.find?_some found
    simp only [Bool.and_eq_true, beq_iff_eq] at keys
    rw [row_unique (List.mem_of_find?_eq_some found) h keys.1]

theorem softRow_none_iff (id : Nat) : (softRow id).isNone = true ↔ ∀ row ∈ recipeRows, row.id = id → row.soft = false := by
  unfold softRow
  rw [Option.isNone_iff_eq_none, List.find?_eq_none]
  simp

theorem tuneValue_soft {bytes : List Byte} {ids : List Nat} {row : FieldRow} (h : row ∈ recipeRows)
    (soft : row.soft = true) :
    tuneValue bytes ids row.id = max row.lo (min row.hi (tuneGiven bytes ids row.id)) := by
  rw [tuneValue, softRow_some h soft]
  show row.clamp 0 _ = _
  rw [FieldRow.clamp, softRows_range row h soft, if_neg (by decide), clampInt_eq (recipeRows_range row h).1, min_comm]

/-! ### The tune in the recipe (R14) -/

theorem setField_byId (r : Recipe) {id : Nat} (low : 1 ≤ id) (high : id ≤ 50) (v : Int) (j : Nat) :
    (r.setField id v).byId j = if j = id then v else r.byId j := by
  have place : id - 1 < 50 := by omega
  have made : r.setField id v = ⟨r.fields.set ⟨id - 1, place⟩ v⟩ := by
    rw [Recipe.setField, dif_pos place, if_neg (by omega)]
  rw [made]
  by_cases inside : 1 ≤ j ∧ j ≤ 50
  · obtain ⟨i, rfl⟩ : ∃ i : Fin 50, j = i.val + 1 := ⟨⟨j - 1, by omega⟩, by simp; omega⟩
    rw [byId_succ, byId_succ, table_get_set]
    by_cases same : i.val + 1 = id
    · rw [if_pos same, if_pos (Fin.ext (by simp; omega))]
    · rw [if_neg same, if_neg fun h => same (by rw [← h]; simp; omega)]
  · rw [if_neg (by omega)]
    rcases Nat.eq_zero_or_pos j with rfl | pos
    · rfl
    · obtain ⟨k, rfl⟩ : ∃ k, j = k + 1 := ⟨j - 1, by omega⟩
      have beyond : 50 ≤ k := by omega
      show (0 :: (r.fields.set _ v).rows).getD (k + 1) 0 = (0 :: r.fields.rows).getD (k + 1) 0
      rw [List.getD_cons_succ, List.getD_cons_succ, List.getD_eq_default _ _ (by rw [Table.size]; exact beyond),
        List.getD_eq_default _ _ (by rw [Table.size]; exact beyond)]

theorem tuned_byId (r : Recipe) {ids : List Nat} (value : Nat → Int) (places : ∀ id ∈ ids, 1 ≤ id ∧ id ≤ 50) (j : Nat) :
    (r.tuned (ids.map fun id => (id, value id))).byId j = if j ∈ ids then value j else r.byId j := by
  induction ids generalizing r with
  | nil => rfl
  | cons id rest ih =>
    obtain ⟨low, high⟩ := places id List.mem_cons_self
    show ((r.setField id (value id)).tuned (rest.map fun id => (id, value id))).byId j = _
    rw [ih _ fun x hx => places x (List.mem_cons_of_mem _ hx), setField_byId r low high]
    by_cases later : j ∈ rest
    · rw [if_pos later, if_pos (List.mem_cons_of_mem _ later)]
    · rw [if_neg later]
      by_cases same : j = id
      · rw [if_pos same, same, if_pos List.mem_cons_self]
      · rw [if_neg same, if_neg fun h => (List.mem_cons.1 h).elim same later]

/-! ### Staged tunes (R12) -/

section
variable {f : Nat → Option (Nat × Int)} (hf : ∀ id x, f id = some x → x.1 = id)
include hf

theorem filterMap_rising {l : List Nat} (rising : l.Pairwise (· < ·)) :
    (l.filterMap f).Pairwise (fun x y => x.1 < y.1) := by
  rw [List.pairwise_filterMap]
  refine rising.imp fun {a b} less x hx y hy => ?_
  rw [hf a x hx, hf b y hy]
  exact less

theorem find_filterMap {l : List Nat} (rising : l.Pairwise (· < ·)) (id : Nat) :
    (l.filterMap f).find? (fun x => x.1 == id) = if id ∈ l then f id else none := by
  induction l with
  | nil => rfl
  | cons a rest ih =>
    obtain ⟨first, later⟩ := List.pairwise_cons.1 rising
    rw [List.filterMap_cons]
    by_cases same : a = id
    · subst same
      have gone : a ∉ rest := fun h => absurd (first a h) (lt_irrefl a)
      rw [if_pos List.mem_cons_self]
      cases value : f a with
      | none =>
        dsimp only
        rw [ih later, if_neg gone]
      | some x =>
        dsimp only
        rw [List.find?_cons_of_pos (by simpa using hf a x value)]
    · have mem : id ∈ a :: rest ↔ id ∈ rest := by simp [Ne.symm same]
      cases value : f a with
      | none =>
        dsimp only
        rw [ih later]
        simp only [mem]
      | some x =>
        dsimp only
        rw [List.find?_cons_of_neg (by rw [hf a x value]; simpa using same), ih later]
        simp only [mem]

end

theorem find_map (ids : List Nat) (value : Nat → Int) (id : Nat) :
    (ids.map fun j => (j, value j)).find? (fun x => x.1 == id) = if id ∈ ids then some (id, value id) else none := by
  induction ids with
  | nil => rfl
  | cons a rest ih =>
    rw [List.map_cons]
    by_cases same : a = id
    · rw [List.find?_cons_of_pos (by simpa using same), same, if_pos List.mem_cons_self]
    · rw [List.find?_cons_of_neg (by simpa using same), ih]
      simp [Ne.symm same]

/-- The entry that a merged tune has for a field. -/
def mergedField (staged newer : Tune) (id : Nat) : Option (Nat × Int) :=
  match newer.find? (·.1 == id), staged.find? (·.1 == id) with
  | some x, _ => some x
  | none, some x => some x
  | none, none => none

theorem mergeTune_eq (staged newer : Tune) : mergeTune staged newer = (List.range 51).filterMap (mergedField staged newer) :=
  rfl

theorem mergedField_eq (staged newer : Tune) (id : Nat) :
    mergedField staged newer id = (newer.find? (·.1 == id)).or (staged.find? (·.1 == id)) := by
  unfold mergedField
  cases newer.find? (·.1 == id) <;> cases staged.find? (·.1 == id) <;> rfl

theorem mergedField_key {staged newer : Tune} (id : Nat) (x : Nat × Int) (h : mergedField staged newer id = some x) :
    x.1 = id := by
  rw [mergedField_eq, Option.or_eq_some_iff] at h
  rcases h with h | ⟨-, h⟩
  · simpa using List.find?_some h
  · simpa using List.find?_some h

theorem range_rising (n : Nat) : (List.range n).Pairwise (· < ·) := List.pairwise_lt_range

/-! ### The request -/

theorem takeTune_ports (tune : Tune) (s : State) (P : Ports) :
    takeTune tune { s with ports := P } = { takeTune tune s with ports := P } := by
  unfold takeTune
  split <;> rfl

/-- A tune staged or applied leaves all but the staged tune, the recipe and the lists of the channels. -/
theorem takeTune_eq (tune : Tune) (s : State) : takeTune tune s = { s with
    line := { s.line with stagedTune := (takeTune tune s).line.stagedTune }, recipe := (takeTune tune s).recipe
    register := { s.register with units := (takeTune tune s).register.units }
    emboss := { s.emboss with channel := (takeTune tune s).emboss.channel } } := by
  unfold takeTune
  split <;> rfl

theorem presentIds_once (mask : Nat) : (presentIds mask).Nodup := List.nodup_range.filter _

/-- Settles O48: the checks in their order, then the clamped tune is staged in RUN, or written field by field. -/
theorem recipeTuned : Obligations.RecipeTuned := by
  intro p s bytes ids h hbytes hids
  have present : presentIds (natOfBytes (bytes.take 8)) = ids := hids.symm
  have once : ids.Nodup := present ▸ presentIds_once _
  have body (P : Ports) (found : Found .recipeTune p [] s P) : recipeTuneBody p { s with ports := P } =
      if (s.port p).toStation then answer .recipeTune p .fifoDir { s with ports := P }
      else if bytes.length < 8 ∨ bytes.length ≠ 8 + 2 * ids.length then answer .recipeTune p .fifoCount { s with ports := P }
      else if ids.any (fun id => (softRow id).isNone) then answer .recipeTune p .range { s with ports := P }
      else respond p Req.recipeTune.role.code .ok
        (clampReport (tuneClamped (readTune ids (bytes.drop 8)) (clampTune (readTune ids (bytes.drop 8)))))
        (if ids.isEmpty then { s with ports := P }
          else takeTune (clampTune (readTune ids (bytes.drop 8))) { s with ports := P }) := by
    have words : (({ s with ports := P } : State).port p).wholeWords = bytes := (Found.wholeWords found).trans hbytes.symm
    have dir : (({ s with ports := P } : State).port p).toStation = (s.port p).toStation := found.toStation
    unfold recipeTuneBody
    dsimp only
    rw [words, dir, present]
  refine ⟨fun toStation => ?_, fun toPart count => ?_, fun toPart whole count => ⟨fun id hid hard => ?_, fun soft => ?_⟩⟩
  · refine request_refused (r := .recipeTune) (body := recipeTuneBody p) rfl h fun P found => ?_
    rw [body P found, if_pos toStation]
    rfl
  · refine request_refused (r := .recipeTune) (body := recipeTuneBody p) rfl h fun P found => ?_
    rw [body P found, toPart, if_neg (by decide), if_pos count]
    rfl
  · refine request_refused (r := .recipeTune) (body := recipeTuneBody p) rfl h fun P found => ?_
    rw [body P found, toPart, if_neg (by decide), if_neg (by omega),
      if_pos (List.any_eq_true.2 ⟨id, hid, (softRow_none_iff id).2 hard⟩)]
    rfl
  · have known : ¬ ids.any (fun id => (softRow id).isNone) = true := fun any => by
      obtain ⟨id, hid, none⟩ := List.any_eq_true.1 any
      obtain ⟨row, hrow, same, isSoft⟩ := soft id hid
      rw [(softRow_none_iff id).1 none row hrow same] at isSoft
      cases isSoft
    let tune : Tune := ids.map fun id => (id, tuneValue bytes ids id)
    let clamped : List Nat := ids.filter fun id => decide (tuneValue bytes ids id ≠ tuneGiven bytes ids id)
    let z : State := if ids.isEmpty then s else takeTune tune s
    obtain ⟨t, ht, rest, answered⟩ := request_answered (i := .recipeTune p []) (r := .recipeTune)
        (body := recipeTuneBody p)
        (result := clampBytes clamped) z rfl h fun P found => by
      rw [body P found, toPart, if_neg (by decide), if_neg (by omega), if_neg known, clampTune_map bytes once,
        readTune_map bytes once, tuneClamped_map]
      refine congrArg (respond p Req.recipeTune.role.code .ok (clampBytes clamped)) ?_
      simp only [z]
      split
      · rfl
      · exact takeTune_ports tune s P
    refine ⟨t, clamped, ht, answered, List.filter_sublist, ?_, fun none => ?_, fun given value meant => ?_⟩
    · by_cases empty : ids.isEmpty = true
      · have same : z = s := if_pos empty
        rw [same] at rest
        rw [rest]
      · have taken : z = takeTune tune s := if_neg empty
        rw [taken, takeTune_eq] at rest
        rw [rest]
    · have same : z = s := if_pos (by rw [none]; rfl)
      rw [same] at rest
      exact rest
    · have meaning (id : Nat) (hid : id ∈ ids) : given id = tuneGiven bytes ids id ∧ value id = tuneValue bytes ids id := by
        obtain ⟨row, hrow, rfl, isSoft⟩ := soft id hid
        obtain ⟨isGiven, isValue⟩ := meant (ids.idxOf row.id) row.id row
          (by rw [List.getElem?_eq_getElem (List.idxOf_lt_length_of_mem hid), List.getElem_idxOf]) hrow rfl
        refine ⟨isGiven, ?_⟩
        rw [isValue, tuneValue_soft hrow isSoft, isGiven]
        rfl
      refine ⟨fun id hid => ?_, fun stopped many => ?_, fun run many => ?_⟩
      · obtain ⟨isGiven, isValue⟩ := meaning id hid
        rw [isGiven, isValue]
        simp [clamped, hid]
      · have taken : z = applyTune tune s :=
          (if_neg (by simpa using many)).trans (if_neg (by rw [stopped]; decide))
        rw [taken] at rest
        have recipe : t.recipe = s.recipe.tuned tune := by rw [rest]; rfl
        have fields (id : Nat) : t.recipe.byId id = if id ∈ ids then tuneValue bytes ids id else s.recipe.byId id := by
          rw [recipe]
          refine tuned_byId s.recipe _ (fun id hid => ?_) id
          obtain ⟨row, hrow, rfl, -⟩ := soft id hid
          obtain ⟨i, -, place⟩ := row_place hrow
          omega
        refine ⟨by rw [rest]; rfl, fun id hid => ?_, fun id hid => ?_, fun k => ?_⟩
        · rw [fields, if_pos hid, (meaning id hid).2]
        · rw [fields, if_neg hid]
        · rw [← shorten_eq, recipe, rest]
          simp [State.unit, applyTune]
      · have taken : z = { s with line := { s.line with stagedTune := some (mergeTune (s.line.stagedTune.getD []) tune) } } :=
          (if_neg (by simpa using many)).trans (if_pos run)
        rw [taken] at rest
        have merged := mergeTune_eq (s.line.stagedTune.getD []) tune
        refine ⟨by rw [rest], by rw [rest], by rw [rest], mergeTune (s.line.stagedTune.getD []) tune, by rw [rest], ?_,
          fun id hid => ?_, fun id high hid => ?_⟩
        · rw [merged]
          exact filterMap_rising mergedField_key (range_rising 51)
        · obtain ⟨row, hrow, rfl, -⟩ := soft id hid
          obtain ⟨i, -, place⟩ := row_place hrow
          have within : row.id ∈ List.range 51 := List.mem_range.2 (by omega)
          rw [merged, find_filterMap mergedField_key (range_rising 51), if_pos within, mergedField_eq, find_map, if_pos hid, (meaning _ hid).2]
          rfl
        · have within : id ∈ List.range 51 := List.mem_range.2 (by omega)
          rw [merged, find_filterMap mergedField_key (range_rising 51), if_pos within, mergedField_eq, find_map, if_neg hid]
          rfl

end Sys2Proof.Tuning

/-! ## Opening an order (R3, R4, R5) -/

namespace Sys2Proof.Opening

open Sys2Proof.Machine Sys2Proof.Safety Sys2Proof.Starting Sys2Proof.Reporting Sys2Proof.Batching Sys2Proof.Porting
  Sys2Proof.Answering Sys2Proof.Cutting Sys2Proof.Storing Sys2Proof.Following Sys2Proof.Ending Sys2Proof.Journalling
  Sys2Proof.Writing

/-! ### The lowest slot that a search takes -/

theorem which_lowest {α : Type} {f : α → Bool} {t : Table α 4} {n : Fin 4} (holds : f (t.get n) = true)
    (first : ∀ m, m < n → f (t.get m) = false) : (t.which f).head? = some n := by
  have sorted : (allRows 4).Pairwise (· < ·) := by decide
  have all : ∀ j : Fin 4, j ∈ allRows 4 := by decide
  have mem : n ∈ (allRows 4).filter fun i => f (t.get i) := List.mem_filter.2 ⟨all n, holds⟩
  unfold Table.which
  cases found : (allRows 4).filter fun i => f (t.get i) with
  | nil =>
    rw [found] at mem
    cases mem
  | cons i rest =>
    have taken : f (t.get i) = true := by
      have : i ∈ (allRows 4).filter fun i => f (t.get i) := by rw [found]; exact List.mem_cons_self
      exact (List.mem_filter.1 this).2
    have rising := found ▸ sorted.filter fun i => f (t.get i)
    rw [found] at mem
    rcases List.mem_cons.1 mem with rfl | later
    · rfl
    · have less := (List.pairwise_cons.1 rising).1 n later
      rw [first i less] at taken
      cases taken

theorem which_none {α : Type} {f : α → Bool} {t : Table α 4} (no : ∀ m, f (t.get m) = false) :
    (t.which f).head? = none := by
  unfold Table.which
  rw [List.filter_eq_nil_iff.2 fun i _ => by rw [no i]; decide]
  rfl

/-! ### What the watches leave on the ports -/

/-- The ports' slots are as they were and no notice is taken from them. -/
structure SlotsKept (s t : State) : Prop where
  request : ∀ q, (t.port q).request = (s.port q).request
  response : ∀ q, (t.port q).response = (s.port q).response
  pending : ∀ q n, Pending q n s → Pending q n t

theorem SlotsKept.refl (s : State) : SlotsKept s s := ⟨fun _ => rfl, fun _ => rfl, fun _ _ => id⟩

theorem SlotsKept.trans {s t u : State} (a : SlotsKept s t) (b : SlotsKept t u) : SlotsKept s u :=
  ⟨fun q => (b.request q).trans (a.request q), fun q => (b.response q).trans (a.response q),
    fun q n h => b.pending q n (a.pending q n h)⟩

theorem SlotsKept.of_eq {s t : State} (h : t.ports = s.ports) : SlotsKept s t := by
  have same (q : Port) : t.port q = s.port q := congrArg (fun P : Ports => P.get q) h
  exact ⟨fun q => by rw [same], fun q => by rw [same], fun q n hp => by rw [Pending, same]; exact hp⟩

theorem SlotsKept.of_onlyNotices {s t : State} (h : OnlyNotices s t) : SlotsKept s t := by
  refine ⟨fun q => ?_, fun q => ?_, fun q n hp => pending_of_onlyNotices h hp⟩
  · obtain ⟨x, own⟩ := slots_of_onlyNotices h q
    rw [own]
  · obtain ⟨x, own⟩ := slots_of_onlyNotices h q
    rw [own]

theorem reachWatch_changed (p : Port) (s : State) : ∃ x, PortChanged p x s (reachWatch p s) ∧
    x.request = (s.port p).request ∧ x.response = (s.port p).response ∧
    ∀ n : Notice, (s.port p).pending &&& n.bit = n.bit → x.pending &&& n.bit = n.bit := by
  refine ⟨_, (portChanged_refl p s).reachWatch, rfl, rfl, fun n h => ?_⟩
  dsimp only
  rw [BitVec.and_comm, BitVec.and_or_distrib_left, BitVec.and_comm, h]
  ext i
  simp
  tauto

theorem reachWatch_kept (p : Port) (s : State) : SlotsKept s (reachWatch p s) ∧ SameButPorts s (reachWatch p s) := by
  obtain ⟨x, changed, request, response, pending⟩ := reachWatch_changed p s
  refine ⟨⟨fun q => ?_, fun q => ?_, fun q n hp => ?_⟩, changed.rest⟩
  all_goals
    by_cases same : q = p
    · subst same
      first
      | rw [changed.own]; exact request
      | rw [changed.own]; exact response
      | rw [Pending, changed.own]; exact pending n hp
    · first
      | rw [changed.others q same]
      | rw [Pending, changed.others q same]; exact hp

theorem reachWatches_kept (s : State) : SlotsKept s (reachWatches s) ∧ SameButPorts s (reachWatches s) :=
  List.foldlRecOn (motive := fun t => SlotsKept s t ∧ SameButPorts s t) allPorts _ ⟨.refl s, rfl⟩
    fun t ⟨kept, same⟩ p _ => by
      obtain ⟨more, ports⟩ := reachWatch_kept p t
      refine ⟨kept.trans more, ?_⟩
      unfold SameButPorts at *
      rw [ports, same]

/-! ### The run state (R5) -/

/-- The state of a run that opens, its hold causes and notices apart. -/
def opened (batches : List Batch) (highest : Nat) (s : State) : State :=
  { s with
    line := { s.line with breakFlag := false, stagedTune := none, holds := ⟨false, false, false⟩ }
    web := s.web.opened s.geometry.dK, clock := .idleAt s.geometry.dK, capture := .initial, register := .initial
    emboss := .initial, map := .initial, roll := s.roll.opened highest
    shade := { ShadeClassifier.initial with batches := batches }, label := .initial }

theorem initRun_opened (batches : List Batch) (highest : Nat) (s : State) :
    initRun batches highest s = { opened batches highest s with ports := (initRun batches highest s).ports } ∧
      SlotsKept s (initRun batches highest s) := by
  by_cases parked : s.emboss.nip.state = .parked
  · have made : initRun batches highest s = reachWatches (opened batches highest s) := by
      unfold initRun
      rw [if_pos parked]
      rfl
    obtain ⟨kept, same⟩ := reachWatches_kept (opened batches highest s)
    rw [made]
    exact ⟨same, SlotsKept.trans (t := opened batches highest s) (.of_eq rfl) kept⟩
  · let raised : State := s.raise .emboss .nip
    have made : initRun batches highest s = reachWatches (opened batches highest raised) := by
      unfold initRun
      rw [if_neg parked]
      rfl
    have kept : SlotsKept s raised := .of_onlyNotices (onlyNotices_raise .emboss .nip s)
    have eq : ∃ P, raised = { s with ports := P } := ⟨_, rfl⟩
    obtain ⟨P, eq⟩ := eq
    rw [made, eq]
    rw [eq] at kept
    obtain ⟨more, same⟩ := reachWatches_kept (opened batches highest { s with ports := P })
    generalize reachWatches (opened batches highest { s with ports := P }) = t at more same
    exact ⟨same, kept.trans (SlotsKept.trans (t := opened batches highest { s with ports := P }) (.of_eq rfl) more)⟩

theorem table_replicate_get {α : Type} {n : Nat} (a : α) (i : Fin n) : (Table.replicate n a).get i = a := by
  simp [Table.get, Table.replicate]

/-- A state whose run blocks are those of an opened run. -/
theorem opened_initialised {batches : List Batch} {highest : Nat} {s t : State} {H : HoldCauses} {S : LineState}
    {store : OrderStore} {P : Ports} {nv : NonVolatile}
    (ht : t = { opened batches highest s with
      line := { (opened batches highest s).line with state := S, holds := H }, store := store, nv := nv, ports := P }) :
    RunInitialised s.geometry.dK highest t := by
  subst ht
  have channels (ch : Channel) : Capture.initial.get ch = ChannelRecord.initial := by
    cases ch with
    | unit k => exact table_replicate_get ..
    | mk0 | mke | idx | mkw => rfl
  have units (k : Fin 7) : RegisterControl.initial.units.get k = RegisterChannel.initial := table_replicate_get ..
  refine ⟨⟨rfl, rfl, rfl, rfl⟩, ⟨rfl, rfl, rfl, rfl⟩, fun ch => ?_, fun k => ?_, ⟨⟨rfl, rfl, rfl, rfl, rfl⟩, rfl⟩, ⟨rfl, rfl⟩,
    ⟨rfl, rfl⟩, ⟨rfl, rfl, fun i => ?_⟩, rfl, rfl, ⟨rfl, rfl, rfl⟩, ⟨rfl, rfl⟩⟩
  · show ChannelIdle (Capture.initial.get ch)
    rw [channels]
    exact ⟨rfl, rfl, rfl, rfl, rfl, rfl⟩
  · show ChannelOff (RegisterControl.initial.units.get k)
    rw [units]
    exact ⟨rfl, rfl, rfl, rfl, rfl⟩
  · show ((s.roll.records.map fun r => RollRecord.freed r.revision).get i).state = .free
    rw [table_get_map]
    rfl

/-! ### An order enters SETUP (R4, R5) -/

theorem pending_of_has {q : Port} {n : Notice} {raised : Raised} {s t : State} (noticed : Noticed raised s t)
    (has : Has raised q n) : Pending q n t := by
  rw [Pending, noticed q]
  dsimp only
  rw [BitVec.and_comm, BitVec.and_or_distrib_left, BitVec.and_comm n.bit (raised q), show raised q &&& n.bit = n.bit from has]
  ext i
  simp
  tauto

/-- What the run of a state `v` leaves as it enters SETUP. -/
structure InSetup (batches : List Batch) (highest : Nat) (v t : State) : Prop where
  made : ∃ H P, t = { opened batches highest v with
    line := { (opened batches highest v).line with state := .setup, holds := H }, ports := P }
  slots : SlotsKept v t
  lines : ∀ q, Pending q .line t

theorem enterSetup_inSetup (batches : List Batch) (highest : Nat) {v : State} (line : v.line.state ≠ .setup) :
    InSetup batches highest v (enterLineState .setup (initRun batches highest v)) := by
  obtain ⟨made, kept⟩ := initRun_opened batches highest v
  generalize initRun batches highest v = u at made kept
  have enters : u.line.state ≠ .setup := by
    rw [made]
    exact line
  obtain ⟨raised, noticed, lines⟩ := enterLineState_lineNoticed enters
  have entered := enterLineState_eq .setup u
  generalize enterLineState .setup u = t at entered noticed
  refine ⟨⟨t.line.holds, t.ports, ?_⟩, kept.trans (.of_onlyNotices ⟨raised, noticed⟩),
    fun q => pending_of_has noticed (lines q)⟩
  rw [entered, made]

theorem InSetup.initialised {batches : List Batch} {highest : Nat} {v t : State} (h : InSetup batches highest v t) :
    RunInitialised v.geometry.dK highest t := by
  obtain ⟨H, P, made⟩ := h.made
  exact opened_initialised (store := v.store) (nv := v.nv) made

/-- The store and the ports aside, a run stays initialised. -/
theorem RunInitialised.of_storePorts {dK highest : Nat} {s t : State} (h : RunInitialised dK highest s)
    (same : StorePorts s t) : RunInitialised dK highest t := by
  have eq : ∃ S P, t = { s with store := S, ports := P } := ⟨_, _, same⟩
  obtain ⟨S, P, rfl⟩ := eq
  exact ⟨h.web, h.clock, h.channels, h.units, h.emboss, h.functions, h.map, h.roll, h.labels, h.counter, h.totals, h.line⟩

/-! ### ORDER_OPEN (R3) -/

/-- The state that an order opened without a read starts from. -/
def named (order : Nat) (slot : Option (Fin 4)) (s : State) : State :=
  { s with
    recipe := .default
    line := { s.line with order := some order, run := some 1, slot := slot, journalling := slot.isSome } }

theorem named_slots {order : Nat} {slot : Option (Fin 4)} {s : State} : SlotsKept s (named order slot s) :=
  .of_eq rfl

theorem openFresh_inSetup (order : Nat) (slot : Option (Fin 4)) {s : State} (line : s.line.state ≠ .setup) :
    InSetup [] 0 (named order slot s) (openFresh order slot s) :=
  enterSetup_inSetup [] 0 (v := named order slot s) line

/-- What an order opened without a read is, whatever the store does. -/
structure FreshOpened (order : Nat) (slot : Option (Fin 4)) (s t : State) : Prop where
  run : RunInitialised s.geometry.dK 0 t
  recipe : t.recipe = Recipe.default
  batches : t.shade.batches = []
  geometry : t.geometry = s.geometry
  nv : t.nv = s.nv
  line : t.line.state = .setup ∧ t.line.order = some order ∧ t.line.run = some 1 ∧ t.line.slot = slot ∧
    t.line.journalling = slot.isSome

theorem FreshOpened.of_storePorts {order : Nat} {slot : Option (Fin 4)} {s t u : State} (h : FreshOpened order slot s t)
    (same : StorePorts t u) : FreshOpened order slot s u := by
  have run := RunInitialised.of_storePorts h.run same
  have eq : ∃ S P, u = { t with store := S, ports := P } := ⟨_, _, same⟩
  obtain ⟨S, P, rfl⟩ := eq
  exact ⟨run, h.recipe, h.batches, h.geometry, h.nv, h.line⟩

theorem openFresh_freshOpened (order : Nat) (slot : Option (Fin 4)) {s : State} (line : s.line.state ≠ .setup) :
    FreshOpened order slot s (openFresh order slot s) := by
  have setup := openFresh_inSetup order slot line
  have run := setup.initialised
  obtain ⟨H, P, made⟩ := setup.made
  generalize openFresh order slot s = t at run made
  subst made
  exact ⟨run, rfl, rfl, rfl, rfl, rfl, rfl, rfl, rfl, rfl⟩

/-- An open that is answered, after the state `made` in which LINE is pending everywhere. -/
theorem open_answered {p : Port} {args : List Byte} {s made : State} (h : Admitted .orderOpen p args s)
    (body : orderOpenBody p args (received .orderOpen p args s) = answerOk .orderOpen p made)
    (slots : SlotsKept (received .orderOpen p args s) made) (lines : ∀ q, Pending q .line made) :
    ∃ t, exec (.orderOpen p args) s = .next t ∧ SameButPorts made t ∧ (t.port p).request = none ∧
      (t.port p).response = some ⟨0x10#8, .ok, []⟩ ∧ ∀ q, (t.port q).pending &&& Notice.line.bit = Notice.line.bit := by
  have idle : (made.port p).request = none := by
    rw [slots.request, (received_changed .orderOpen p args s).own]
    exact h.slots.1
  have changed := ((portChanged_refl p made).respond 0x10#8 .ok []).takeInput .orderOpen
  rw [answered_none idle] at changed
  refine ⟨takeInput .orderOpen p (answerOk .orderOpen p made), ?_, changed.rest, ?_, ?_, fun q => ?_⟩
  · show Host.Outcome.next (takeRequest .orderOpen p args (orderOpenBody p args) s) = _
    rw [takeRequest_admitted _ h, body]
  · exact (congrArg PortState.request changed.own).trans idle
  · exact congrArg PortState.response changed.own
  · have kept : ∀ q, Pending q .line (takeInput .orderOpen p (answerOk .orderOpen p made)) :=
      pending_of_portChanged changed rfl lines
    exact kept q

theorem slotHolding_some {order : Nat} {n : Fin 4} {s : State} (used : (s.dir n).state ≠ .empty)
    (holds : (s.dir n).order = some order) (kept : (s.dir n).erasePending = false)
    (first : ∀ m, m < n → (s.dir m).state = .empty ∨ (s.dir m).order ≠ some order ∨ (s.dir m).erasePending = true) :
    slotHolding order s = some n := by
  refine which_lowest (t := s.store.directory) ?_ fun m hm => ?_
  · show ((s.dir n).state != .empty && (s.dir n).order == some order && !(s.dir n).erasePending) = true
    simp [used, holds, kept]
  · show ((s.dir m).state != .empty && (s.dir m).order == some order && !(s.dir m).erasePending) = false
    rcases first m hm with h | h | h <;> simp [h]

theorem slotHolding_none {order : Nat} {s : State}
    (no : ∀ n, (s.dir n).state = .empty ∨ (s.dir n).order ≠ some order ∨ (s.dir n).erasePending = true) :
    slotHolding order s = none := by
  refine which_none (t := s.store.directory) fun m => ?_
  show ((s.dir m).state != .empty && (s.dir m).order == some order && !(s.dir m).erasePending) = false
  rcases no m with h | h | h <;> simp [h]

theorem emptySlot_some {n : Fin 4} {s : State} (empty : (s.dir n).state = .empty) (kept : (s.dir n).erasePending = false)
    (first : ∀ m, m < n → (s.dir m).state ≠ .empty ∨ (s.dir m).erasePending = true) : emptySlot s = some n := by
  refine which_lowest (t := s.store.directory) ?_ fun m hm => ?_
  · show ((s.dir n).state == .empty && !(s.dir n).erasePending) = true
    simp [empty, kept]
  · show ((s.dir m).state == .empty && !(s.dir m).erasePending) = false
    rcases first m hm with h | h <;> simp [h]

theorem emptySlot_none {s : State} (no : ∀ n, (s.dir n).state ≠ .empty ∨ (s.dir n).erasePending = true) :
    emptySlot s = none := by
  refine which_none (t := s.store.directory) fun m => ?_
  show ((s.dir m).state == .empty && !(s.dir m).erasePending) = false
  rcases no m with h | h <;> simp [h]

/-- A claimed slot has its header and the default recipe in the store queue. -/
structure Claimed (order : Nat) (n : Fin 4) (s t : State) : Prop where
  rest : StorePorts (openFresh order (some n) s) t
  queue : t.store.queue = s.store.queue ++ [.headerWrite n .active, .recipeWrite n Recipe.default]
  entry : t.dir n = ⟨.active, some order, 1, 0, false, false⟩
  others : ∀ m, m ≠ n → t.dir m = s.dir m
  notices : OnlyNotices (openFresh order (some n) s) t

theorem claimSlot_claimed {order : Nat} {n : Fin 4} {s : State} (empty : (s.dir n).state = .empty)
    (kept : (s.dir n).erasePending = false) : Claimed order n s (claimSlot order n s) := by
  let run : State := openFresh order (some n) s
  have store : run.store = s.store := Limits.openFresh_store order (some n) s
  have dir (m : Fin 4) : run.dir m = s.dir m := by rw [State.dir, store]; rfl
  let marked : State := modifyDir n (claimEntry order) run
  have content : headerContent n (claimEntry order) run = marked := if_neg (by rw [dir, empty]; decide)
  have entry (m : Fin 4) : marked.dir m = if m = n then claimEntry order (s.dir m) else s.dir m := by
    rw [modifyDir_dir, dir]
  obtain ⟨first, header⟩ := enqueue_plain (op := .headerWrite n .active) (s := marked) rfl
    (.inl (by simp [targetDegraded, StoreOp.slot?, entry, claimEntry]))
  have made : claimSlot order n s = pushOp (.recipeWrite n .default) (enqueue (.headerWrite n .active) marked) := by
    show enqueue _ (enqueue _ (headerContent n (claimEntry order) run)) = _
    rw [content, Limits.enqueue_behind]
    rw [header.store]
    simp
  have queued : marked.store.queue = s.store.queue := congrArg (fun x => x.queue) store
  rw [made]
  have written (m : Fin 4) : (pushOp (.recipeWrite n .default) (enqueue (.headerWrite n .active) marked)).dir m =
      marked.dir m := by
    show (enqueue (.headerWrite n .active) marked).store.directory.get m = _
    rw [header.store]
    rfl
  refine ⟨StorePorts.trans (t := marked) rfl (header.rest.trans rfl), ?_, ?_, fun m hm => ?_,
    OnlyNotices.trans (t := marked) ⟨quiet, noticed_refl run _ rfl⟩
      (OnlyNotices.trans ⟨first, header.noticed⟩ ⟨quiet, noticed_refl _ _ rfl⟩)⟩
  · show (enqueue (.headerWrite n .active) marked).store.queue ++ [_] = _
    rw [header.store, ← queued]
    simp
  · rw [written, entry, if_pos rfl, claimEntry, kept]
  · rw [written, entry, if_neg hm]

/-- An order resumed: the line in OPENING, the read queued, and the request waiting. -/
theorem resumeSlot_resumed {p : Port} {order : Nat} {n : Fin 4} {s : State} (line : s.line.state = .noOrder)
    (holds : s.line.holds = ⟨false, false, false⟩) :
    resumeSlot p order n s = { s with
        line := { s.line with state := .opening, order := some order, slot := some n }
        store := readQueued (.slotRead n) s.store, ports := (resumeSlot p order n s).ports } ∧
      PortsHold p { s.port p with
        request := some ⟨0x10#8, .opening, false⟩, pending := (s.port p).pending ||| Notice.line.bit } (everywhere .line)
        s (resumeSlot p order n s) := by
  let opening : State := { s with line := { s.line with state := .opening, order := some order, slot := some n } }
  have entered : enterLineState .opening { s with line := { s.line with order := some order, slot := some n } } =
      opening.raiseAll .line := by
    have differs : s.line.state ≠ .opening := by rw [line]; decide
    refine (if_neg differs).trans ?_
    exact if_pos holds.symm
  have eq : ∃ P, opening.raiseAll .line = { opening with ports := P } := ⟨_, rfl⟩
  have raised := raiseAll_noticed (s := s) (u := opening) rfl .line
  obtain ⟨P, eq⟩ := eq
  have made : resumeSlot p order n s = { keepExecuting p 0x10#8 .opening { opening with ports := P } with
      store := readQueued (.slotRead n) s.store } := by
    rw [resumeSlot, entered, eq, enqueue_isRead rfl]
    rfl
  rw [eq] at raised
  have held := keepExecuting_hold p 0x10#8 .opening { opening with ports := P }
  rw [made]
  refine ⟨rfl, fun q => (held q).trans ?_⟩
  have own (q : Port) : ({ opening with ports := P } : State).port q =
      { s.port q with pending := (s.port q).pending ||| Notice.line.bit } := raised q
  rw [own, own]
  simp [quiet, everywhere]

/-- Settles O45: the refusals in their order, then the lowest slot that holds the order is resumed, the lowest EMPTY one
claimed, or the order opened unstored. -/
theorem orderOpens : Obligations.OrderOpens := by
  intro p args s order flag h horder hflag
  have fourth : argNat args 0 4 = order := by rw [horder]; rfl
  have fifth : argNat args 4 1 = flag := by rw [hflag]; exact Mapping.argNat_rest h.length
  have noOrder : s.line.state = .noOrder := by simpa [Req.role] using h.state
  have body (P : Ports) : orderOpenBody p args { s with ports := P } =
      if ¬ (1 ≤ order ∧ order ≤ 999999) ∨ 1 < flag then answer .orderOpen p .range { s with ports := P }
      else if geometryReadPending s then answer .orderOpen p .busy { s with ports := P }
      else match slotHolding order s with
        | some n => if s.storeFull then answer .orderOpen p .busy { s with ports := P }
          else resumeSlot p order n { s with ports := P }
        | none => match emptySlot s with
          | some n => if 7 ≤ s.storeCount then answer .orderOpen p .busy { s with ports := P }
            else answerOk .orderOpen p (claimSlot order n { s with ports := P })
          | none => if flag = 1 then answerOk .orderOpen p (openFresh order none { s with ports := P })
            else answer .orderOpen p .noSlot { s with ports := P } := by
    unfold orderOpenBody
    rw [fourth, fifth] <;> rfl
  have receivedSame := received_eq .orderOpen p args s
  have notSetup : (received .orderOpen p args s).line.state ≠ .setup := by
    rw [receivedSame]
    exact fun h => nomatch noOrder.symm.trans h
  refine ⟨fun out => ?_, fun low high small => ?_⟩
  · refine request_refused (r := .orderOpen) (body := orderOpenBody p args) rfl h fun P _ => ?_
    rw [body, if_pos (by omega)]
    rfl
  · have inRange : ¬ (¬ (1 ≤ order ∧ order ≤ 999999) ∨ 1 < flag) := by omega
    refine ⟨fun reading => ?_, fun read => ?_⟩
    · refine request_refused (r := .orderOpen) (body := orderOpenBody p args) rfl h fun P _ => ?_
      rw [body, if_neg inRange, if_pos ((geometryReadPending_iff s).2 reading)]
      rfl
    · have notReading : ¬ geometryReadPending s = true := fun h => read ((geometryReadPending_iff s).1 h)
      refine ⟨fun n used holds kept first => ?_, fun noHolder => ?_⟩
      · have holder := slotHolding_some used holds kept first
        refine ⟨fun full => ?_, fun room noHold => ?_⟩
        · refine request_refused (r := .orderOpen) (body := orderOpenBody p args) rfl h fun P _ => ?_
          rw [body, if_neg inRange, if_neg notReading, holder]
          exact if_pos ((storeFull_iff s).2 full)
        · have free : ¬ s.storeFull = true := fun full => absurd ((storeFull_iff s).1 full) (not_le.2 room)
          let z : State := { s with
            line := { s.line with state := .opening, order := some order, slot := some n }
            store := readQueued (.slotRead n) s.store }
          obtain ⟨t, ht, rest, handled⟩ := request_waits (i := .orderOpen p args) (r := .orderOpen)
            (body := orderOpenBody p args) (e := ⟨0x10#8, .opening, false⟩) (raised := everywhere .line) z rfl h
            fun P _ => by
              have taken : orderOpenBody p args { s with ports := P } = resumeSlot p order n { s with ports := P } := by
                rw [body, if_neg inRange, if_neg notReading, holder]
                exact if_neg free
              rw [taken]
              exact resumeSlot_resumed (s := { s with ports := P }) noOrder noHold
          have store : t.store = readQueued (.slotRead n) s.store := by rw [rest]
          refine ⟨t, ht, ?_, by rw [store]; rfl, fun empty => ?_, handled⟩
          · rw [store]
            exact rest
          · rw [store]
            exact if_pos empty
      · have holder := slotHolding_none noHolder
        refine ⟨fun n empty kept first => ?_, fun noEmpty => ⟨fun unstored => ?_, fun stored => ?_⟩⟩
        · have claims := emptySlot_some empty kept first
          refine ⟨fun full => ?_, fun room => ?_⟩
          · refine request_refused (r := .orderOpen) (body := orderOpenBody p args) rfl h fun P _ => ?_
            rw [body, if_neg inRange, if_neg notReading, holder]
            dsimp only
            rw [claims]
            exact if_pos full
          · have taken : orderOpenBody p args (received .orderOpen p args s) =
                answerOk .orderOpen p (claimSlot order n (received .orderOpen p args s)) := by
              rw [receivedSame, body, if_neg inRange, if_neg notReading, holder]
              dsimp only
              rw [claims]
              exact if_neg (not_le.2 room)
            have store : (received .orderOpen p args s).store = s.store := by rw [receivedSame]
            have dir (m : Fin 4) : (received .orderOpen p args s).dir m = s.dir m := by rw [State.dir, store]; rfl
            have claimed := claimSlot_claimed (order := order) (n := n) (s := received .orderOpen p args s)
              (by rw [dir]; exact empty) (by rw [dir]; exact kept)
            have setup := openFresh_inSetup order (some n) notSetup
            have fresh := (openFresh_freshOpened order (some n) notSetup).of_storePorts claimed.rest
            have slots : SlotsKept (received .orderOpen p args s) (claimSlot order n (received .orderOpen p args s)) :=
              (named_slots.trans setup.slots).trans (.of_onlyNotices claimed.notices)
            obtain ⟨t, ht, same, request, response, lines⟩ := open_answered h taken slots fun q =>
              pending_of_onlyNotices claimed.notices (setup.lines q)
            have all := fresh.of_storePorts (.of_ports same)
            obtain ⟨state, number, run, slot, journalling⟩ := all.line
            have tStore : t.store = (claimSlot order n (received .orderOpen p args s)).store := by rw [same]
            have tDir (m : Fin 4) : t.dir m = (claimSlot order n (received .orderOpen p args s)).dir m := by
              rw [State.dir, tStore]
              rfl
            have tRun := all.run
            have tGeometry := all.geometry
            have tNv := all.nv
            rw [receivedSame] at tRun tGeometry tNv
            refine ⟨t, ht, tRun, all.recipe, all.batches, tGeometry, tNv, state, number, run, slot, journalling, ?_, ?_,
              fun m hm => ?_, request, response, lines⟩
            · rw [tStore, claimed.queue, store]
            · rw [tDir, claimed.entry]
            · rw [tDir, claimed.others m hm, dir]
        · have taken : orderOpenBody p args (received .orderOpen p args s) =
              answerOk .orderOpen p (openFresh order none (received .orderOpen p args s)) := by
            rw [receivedSame, body, if_neg inRange, if_neg notReading, holder]
            dsimp only
            rw [emptySlot_none noEmpty]
            exact if_pos unstored
          have setup := openFresh_inSetup order none notSetup
          have fresh := openFresh_freshOpened order none notSetup
          obtain ⟨t, ht, same, request, response, lines⟩ := open_answered h taken (named_slots.trans setup.slots)
            setup.lines
          have all := fresh.of_storePorts (.of_ports same)
          obtain ⟨state, number, run, slot, journalling⟩ := all.line
          have tRun := all.run
          have tGeometry := all.geometry
          have tNv := all.nv
          rw [receivedSame] at tRun tGeometry tNv
          refine ⟨t, ht, tRun, all.recipe, all.batches, tGeometry, tNv, ?_, state, number, run, slot, journalling, request,
            response, lines⟩
          rw [same]
          show (openFresh order none (received .orderOpen p args s)).store = _
          rw [Limits.openFresh_store, receivedSame]
        · refine request_refused (r := .orderOpen) (body := orderOpenBody p args) rfl h fun P _ => ?_
          rw [body, if_neg inRange, if_neg notReading, holder]
          dsimp only
          rw [emptySlot_none noEmpty]
          exact if_neg (by omega)

end Sys2Proof.Opening

/-! ## The end of the SLOT_READ of an order that is resumed (R4, R5, R174) -/

namespace Sys2Proof.Resuming

open Sys2Proof.Machine Sys2Proof.Safety Sys2Proof.Starting Sys2Proof.Reporting Sys2Proof.Batching Sys2Proof.Porting
  Sys2Proof.Answering Sys2Proof.Cutting Sys2Proof.Storing Sys2Proof.Following Sys2Proof.Ending Sys2Proof.Journalling
  Sys2Proof.Writing Sys2Proof.Opening

/-! ### The slot's contents (R174) -/

theorem batchesInOrder_mapIdx (start : Nat) {bs : List Batch} (numbered : ∀ j b, bs[j]? = some b → b.number = j + start) :
    batchesInOrder start (bs.mapIdx fun j b => (j + start, StoreCell.written b)) = true := by
  induction bs generalizing start with
  | nil => rfl
  | cons b rest ih =>
    have first := numbered 0 b rfl
    have later := ih (start + 1) fun j c hc => by
      rw [numbered (j + 1) c hc]
      omega
    have shift : (fun (j : Nat) (b : Batch) => (j + 1 + start, StoreCell.written b)) =
        fun j b => (j + (start + 1), StoreCell.written b) := by
      funext j b
      rw [show j + 1 + start = j + (start + 1) from by omega]
    rw [List.mapIdx_cons, shift, batchesInOrder, later]
    simp [first]

theorem contents_mapIdx {α : Type} (place : Nat → Nat) (xs : List α) (later : Cells α) :
    contents (xs.mapIdx (fun j x => (place j, StoreCell.written x)) ++ later) = xs ++ contents later := by
  induction xs generalizing place with
  | nil => rfl
  | cons x rest ih =>
    rw [List.mapIdx_cons, List.cons_append, contents, ih fun j => place (j + 1)]
    rfl

theorem verifiedFrom_mapIdx {α : Type} (start : Nat) (xs : List α) (later : Cells α) :
    xs.length ≤ verifiedFrom start (xs.mapIdx (fun j x => (j + start, StoreCell.written x)) ++ later) := by
  induction xs generalizing start with
  | nil => exact Nat.zero_le _
  | cons x rest ih =>
    have shift : (fun (j : Nat) (x : α) => (j + 1 + start, StoreCell.written x)) =
        fun j x => (j + (start + 1), StoreCell.written x) := by
      funext j x
      rw [show j + 1 + start = j + (start + 1) from by omega]
    rw [List.mapIdx_cons, List.cons_append, shift, verifiedFrom, if_pos (Nat.zero_add _)]
    exact Nat.succ_le_succ (ih (start + 1))

/-- A slot whose records verify, its batches in order and its journal whole (R174). -/
theorem readSlot_verified {count : Nat} {c : SlotContent} {h : Header} {r : Recipe} {bs : List Batch} {xs : List Summary}
    {later : Cells Summary} (header : c.header = .written h) (recipe : c.recipe = .written r)
    (batches : c.batches = bs.mapIdx (fun j b => (j + 1, StoreCell.written b)))
    (numbered : ∀ j b, bs[j]? = some b → b.number = j + 1)
    (journal : c.journal = xs.mapIdx (fun j x => (j, StoreCell.written x)) ++ later)
    (counted : xs.length = max count h.count) :
    readSlot count c = some
      { recipe := r, batches := bs.map (fun b => { b with save := .saved })
        highest := xs.foldl (fun m x => max m x.roll) 0, run := h.run } := by
  have ordered : batchesInOrder 1 c.batches = true := by
    rw [batches]
    exact batchesInOrder_mapIdx 1 numbered
  have whole : max count h.count ≤ verifiedFrom 0 c.journal := by
    rw [← counted, journal]
    exact verifiedFrom_mapIdx 0 xs later
  have table : contents c.batches = bs := by
    rw [batches, ← List.append_nil (bs.mapIdx _), contents_mapIdx (fun j => j + 1)]
    exact List.append_nil bs
  have summaries : (contents c.journal).take (max count h.count) = xs := by
    rw [journal, contents_mapIdx (fun j => j), ← counted, List.take_left]
  unfold readSlot
  rw [header, recipe]
  dsimp only
  rw [ordered, decide_eq_true whole, table, summaries]
  rfl

theorem readSlot_broken (count : Nat) {c : SlotContent} (h : c.header = .broken ∨ c.recipe = .broken) :
    readSlot count c = none := by
  unfold readSlot
  rcases h with h | h
  · rw [h]
  · rw [h]
    cases c.header <;> rfl

/-! ### The order in SETUP and its answer (R4) -/

theorem openingPort_eq {p : Port} {code : Byte} {d : Bool} {s : State}
    (waits : (s.port p).request = some ⟨code, .opening, d⟩)
    (alone : ∀ q, q ≠ p → ∀ k d, (s.port q).request ≠ some ⟨k, .opening, d⟩) : openingPort s = some p := by
  have own : (((s.port p).request.map Executing.waiting) == some .opening) = true := by rw [waits]; rfl
  have other (q : Port) (hq : q ≠ p) : (((s.port q).request.map Executing.waiting) == some .opening) = false := by
    cases request : (s.port q).request with
    | none => rfl
    | some e =>
      refine beq_eq_false_iff_ne.2 fun h => alone q hq e.code e.discard ?_
      have waiting : e.waiting = .opening := Option.some.inj h
      rw [request, ← waiting]
  unfold openingPort allPorts
  cases p with
  | press => simp only [List.find?_cons, own]
  | emboss => simp only [List.find?_cons, own, other .press (by decide)]
  | winder => simp only [List.find?_cons, own, other .press (by decide), other .emboss (by decide)]
  | quality =>
    simp only [List.find?_cons, own, other .press (by decide), other .emboss (by decide), other .winder (by decide)]

/-- What a resumed order is as its answer has been made. -/
structure Resumed (p : Port) (batches : List Batch) (highest : Nat) (status : Status) (v t : State) : Prop where
  made : ∃ H P, t = { opened batches highest v with
    line := { (opened batches highest v).line with state := .setup, holds := H }, ports := P }
  run : RunInitialised v.geometry.dK highest t
  request : (t.port p).request = none
  response : (t.port p).response = some ⟨0x10#8, status, []⟩
  pending : ∀ q n, Pending q n v → Pending q n t

theorem answerOpening_resumed {p : Port} {code : Byte} {batches : List Batch} {highest : Nat} (status : Status) {v : State}
    (line : v.line.state ≠ .setup) (waits : (v.port p).request = some ⟨code, .opening, false⟩)
    (alone : ∀ q, q ≠ p → ∀ k d, (v.port q).request ≠ some ⟨k, .opening, d⟩) :
    Resumed p batches highest status v (answerOpening status (enterLineState .setup (initRun batches highest v))) := by
  have setup := enterSetup_inSetup batches highest line
  have run := setup.initialised
  obtain ⟨H, P, made⟩ := setup.made
  have slots := setup.slots
  generalize enterLineState .setup (initRun batches highest v) = w at run made slots ⊢
  have request : (w.port p).request = some ⟨code, .opening, false⟩ := by rw [slots.request]; exact waits
  have port : openingPort w = some p := openingPort_eq request fun q hq k d => by
    rw [slots.request]
    exact alone q hq k d
  have answered : answerOpening status w = respond p 0x10#8 status [] w := by
    rw [answerOpening, port]
    rfl
  have changed := (portChanged_refl p w).respond 0x10#8 status []
  rw [answered]
  have own : PortState.answered 0x10#8 status [] (w.port p) =
      { w.port p with request := none, response := some ⟨0x10#8, status, []⟩ } := by
    unfold PortState.answered
    rw [request]
    exact if_neg Bool.false_ne_true
  rw [own] at changed
  refine ⟨⟨H, (respond p 0x10#8 status [] w).ports, ?_⟩, RunInitialised.of_storePorts run (.of_ports changed.rest), ?_, ?_,
    fun q n h => ?_⟩
  · rw [changed.rest, made]
  · rw [changed.own]
  · rw [changed.own]
  · by_cases same : q = p
    · subst same
      rw [Pending, changed.own]
      exact slots.pending q n h
    · rw [Pending, changed.others q same]
      exact slots.pending q n h

/-! ### The ACTIVE header (R4, R172) -/

/-- Nothing waits for a place of the store queue. -/
theorem takePlaces_idle {s : State} (saved : ∀ b ∈ s.shade.batches, b.save ≠ .unsaved)
    (free : ∀ i, (s.record i).state = .free) (fuel : Nat) : takePlaces fuel s = s := by
  have unsaved : lowestUnsaved s = none := by
    rw [lowestUnsaved, List.filter_eq_nil_iff.2 fun b hb => by simpa using saved b hb]
    rfl
  have waiting : lowestWaiting s = none := by
    rw [lowestWaiting, Table.which, List.filter_eq_nil_iff.2 fun i _ => ?_]
    · rfl
    · have := free i
      unfold State.record at this
      simp [this]
  cases fuel with
  | zero => rfl
  | succ fuel =>
    rw [takePlaces]
    split
    · rfl
    · rw [unsaved, waiting]
      cases journalSlot s <;> cases writableSlot s <;> rfl

/-- The header of a resumed order in the place that the read released, or, of a DEGRADED slot, given up. -/
structure HeaderResumed (n : Fin 4) (u t : State) : Prop where
  rest : StorePorts u t
  notices : OnlyNotices u t
  sound : (u.dir n).state ≠ .degraded → t.store.queue = [.headerWrite n .active] ∧
    t.dir n = { u.dir n with state := .active, run := u.line.run.getD 0 }
  degraded : (u.dir n).state = .degraded → t.store.queue = [] ∧ ∀ m, t.dir m = u.dir m

theorem dealHead_plain {op : StoreOp} {later : List StoreOp} {s : State} (fuel : Nat) (plain : PlainWrite op = true)
    (queue : s.store.queue = op :: later) (sound : targetDegraded op s = false) :
    ∃ H E P, dealHead (fuel + 1) s = { s with store := { s.store with head := H, sampled := E }, ports := P } ∧
      OnlyNotices s (dealHead (fuel + 1) s) := by
  have write := isRead_of_plain plain
  have full := appendIsFull_of_plain plain s
  by_cases enabled : s.store.enabled = true
  · obtain ⟨c, started⟩ := startHead_plain plain (sampleEnable s)
    have made : dealHead (fuel + 1) s = startHead op (sampleEnable s) := dealHead_starts fuel queue ⟨sound, full⟩ enabled
    rw [made, started]
    exact ⟨.running c, s.store.enabled, s.ports, rfl, quiet, noticed_refl s _ rfl⟩
  · let waiting : State := { sampleEnable s with store := { (sampleEnable s).store with head := .waiting } }
    have made : dealHead (fuel + 1) s = waiting.raiseAll .store := by
      rw [dealHead, queue]
      simp only [write, sound, full, enabled, Bool.false_eq_true, if_false]
      rfl
    have raised := raiseAll_noticed (s := s) (u := waiting) rfl .store
    have eq : ∃ P, waiting.raiseAll .store = { waiting with ports := P } := ⟨_, rfl⟩
    obtain ⟨P, eq⟩ := eq
    rw [made]
    rw [eq] at raised ⊢
    exact ⟨.waiting, s.store.enabled, P, rfl, _, raised⟩

/-- A header that takes the released place and is given up at once. -/
theorem givenUp_store {n : Fin 4} {u failed : State} (h : failed =
      recordFailure (.headerWrite n .active) (some n) .degradedTarget (pushOp (.headerWrite n .active) (releaseHead u))) :
    ({ releaseHead failed with store := { (releaseHead failed).store with head := .absent } } : State) =
      { u with store := { u.store with
        queue := (u.store.queue.tail ++ [StoreOp.headerWrite n .active]).tail, head := .absent
        lastFailure := some ⟨.headerWrite n .active, some n, .degradedTarget⟩ } } := by
  subst h
  rfl

theorem resumeHeader_resumed {n : Fin 4} {u : State} (queue : u.store.queue = [.slotRead n])
    (line : u.line.state = .setup) (saved : ∀ b ∈ u.shade.batches, b.save ≠ .unsaved)
    (free : ∀ i, (u.record i).state = .free) :
    HeaderResumed n u (advanceClosing (dealHead headFuel (takePlaces 24 (resumeHeader n (releaseHead u))))) := by
  have released : (releaseHead u).store.queue = [] := by
    show u.store.queue.tail = []
    rw [queue]
    rfl
  have notDrained {x : State} (h : x.line = u.line) : ¬ Drained x := fun d => by
    have := d.closing
    rw [h, line] at this
    cases this
  by_cases degraded : (u.dir n).state = .degraded
  · let pushed : State := pushOp (.headerWrite n .active) (releaseHead u)
    have content : resumeHeader n (releaseHead u) = pushed :=
      congrArg (pushOp (.headerWrite n .active)) (if_pos degraded)
    have pushedQueue : pushed.store.queue = [.headerWrite n .active] := by
      show (releaseHead u).store.queue ++ [_] = _
      rw [released]
      rfl
    let failed : State := recordFailure (.headerWrite n .active) (some n) .degradedTarget pushed
    have unstarted : failUnstarted (.headerWrite n .active) pushed = failed := if_neg fun h => nomatch h.2.2
    have empty : (releaseHead failed).store.queue = [] := by
      show pushed.store.queue.tail = []
      rw [pushedQueue]
      rfl
    have dealt : dealHead headFuel pushed =
        { releaseHead failed with store := { (releaseHead failed).store with head := .absent } } := by
      rw [show headFuel = 63 + 1 from rfl, dealHead_degraded 63 pushedQueue rfl (beq_iff_eq.2 degraded), unstarted,
        takePlaces_idle (s := releaseHead failed) saved free, dealHead, empty]
    have shaped := dealt.trans (givenUp_store (n := n) (u := u) (failed := failed) rfl)
    have none : (u.store.queue.tail ++ [StoreOp.headerWrite n .active]).tail = [] := by rw [queue]; rfl
    rw [none] at shaped
    generalize hS : ({ u.store with
      queue := [], head := .absent
      lastFailure := some ⟨.headerWrite n .active, some n, .degradedTarget⟩ } : OrderStore) = S at shaped
    have idle : S.queue = [] := by rw [← hS]
    have directory : S.directory = u.store.directory := by rw [← hS]
    rw [content, takePlaces_idle (s := pushed) saved free, shaped,
      advanceClosing_notDrained (s := { u with store := S }) (notDrained rfl)]
    refine ⟨rfl, ⟨quiet, noticed_refl u _ rfl⟩, fun sound => absurd degraded sound, fun _ => ⟨idle, fun m => ?_⟩⟩
    show S.directory.get m = _
    rw [directory]
    rfl
  · let mark : DirectoryEntry → DirectoryEntry := fun d => { d with state := .active, run := u.line.run.getD 0 }
    let pushed : State := pushOp (.headerWrite n .active) (modifyDir n mark (releaseHead u))
    have content : resumeHeader n (releaseHead u) = pushed :=
      congrArg (pushOp (.headerWrite n .active)) (if_neg degraded)
    have pushedQueue : pushed.store.queue = [.headerWrite n .active] := by
      show (releaseHead u).store.queue ++ [_] = _
      rw [released]
      rfl
    have entry : pushed.dir n = mark (u.dir n) := by
      show (modifyDir n mark (releaseHead u)).dir n = _
      rw [modifyDir_dir, if_pos rfl]
      rfl
    obtain ⟨H, E, P, dealt, notices⟩ := dealHead_plain (op := .headerWrite n .active) 63 rfl pushedQueue
      (by simp [targetDegraded, StoreOp.slot?, entry, mark])
    rw [show (63 : Nat) + 1 = headFuel from rfl] at dealt notices
    have before : OnlyNotices u pushed := ⟨quiet, noticed_refl u _ rfl⟩
    have shape : ∃ S : OrderStore, dealHead headFuel pushed = { u with store := S, ports := P } ∧
        S.queue = [.headerWrite n .active] ∧ S.directory.get n = mark (u.dir n) := by
      rw [dealt]
      exact ⟨{ pushed.store with head := H, sampled := E }, rfl, pushedQueue, entry⟩
    obtain ⟨S, shaped, queued, entered⟩ := shape
    rw [shaped] at notices
    rw [content, takePlaces_idle (s := pushed) saved free, shaped,
      advanceClosing_notDrained (s := { u with store := S, ports := P }) (notDrained rfl)]
    exact ⟨rfl, before.trans notices, fun _ => ⟨queued, entered⟩, fun h => absurd h degraded⟩

/-! ### The read's end -/

theorem slotReadEnd_effects {s : State} {n : Fin 4} {c : InFlight} {rest : List StoreOp} (v : Bool)
    (queue : s.store.queue = .slotRead n :: rest) (head : s.store.head = .running c) :
    exec (.slotReadEnd v) s = .next (endHead (slotReadEffects n v) (resumeHeader n) s) := by
  show Host.Outcome.next (slotReadEnd v s) = _
  rw [slotReadEnd, inProgress_running queue head]

/-- What the end leaves when its effects have resumed the order from the state `v`. -/
structure OrderResumed (n : Fin 4) (p : Port) (batches : List Batch) (highest : Nat) (status : Status) (v t : State) : Prop where
  run : RunInitialised v.geometry.dK highest t
  line : t.line.state = .setup ∧ t.line.order = v.line.order ∧ t.line.slot = v.line.slot ∧
    t.line.journalling = v.line.journalling ∧ t.line.run = v.line.run
  recipe : t.recipe = v.recipe
  batches : t.shade.batches = batches
  geometry : t.geometry = v.geometry
  nv : t.nv = v.nv
  request : (t.port p).request = none
  response : (t.port p).response = some ⟨0x10#8, status, []⟩
  pending : ∀ q m, Pending q m v → Pending q m t
  sound : (v.dir n).state ≠ .degraded → t.store.queue = [.headerWrite n .active] ∧
    t.dir n = { v.dir n with state := .active, run := v.line.run.getD 0 }
  degraded : (v.dir n).state = .degraded → t.store.queue = [] ∧ t.dir n = v.dir n

theorem endHead_resumed {n : Fin 4} {p : Port} {batches : List Batch} {highest : Nat} {status : Status} {v s : State}
    {effects : State → State} (resumed : Resumed p batches highest status v (effects s))
    (queue : v.store.queue = [.slotRead n]) (saved : ∀ b ∈ batches, b.save ≠ .unsaved) :
    OrderResumed n p batches highest status v (endHead effects (resumeHeader n) s) := by
  show OrderResumed n p batches highest status v
    (advanceClosing (dealHead headFuel (takePlaces 24 (resumeHeader n (releaseHead (effects s))))))
  generalize effects s = u at resumed ⊢
  obtain ⟨H, P, made⟩ := resumed.made
  have header := resumeHeader_resumed (n := n) (u := u) (by rw [made]; exact queue) (by rw [made])
    (by rw [made]; exact saved) resumed.run.roll.2.2
  generalize advanceClosing (dealHead headFuel (takePlaces 24 (resumeHeader n (releaseHead u)))) = t at header ⊢
  have rest : ∃ S P, t = { u with store := S, ports := P } := ⟨_, _, header.rest⟩
  have run := RunInitialised.of_storePorts resumed.run header.rest
  obtain ⟨x, own⟩ := slots_of_onlyNotices header.notices p
  have dir : u.dir n = v.dir n := by rw [made]; rfl
  have lineRun : u.line.run = v.line.run := by rw [made]; rfl
  refine ⟨run, ?_, ?_, ?_, ?_, ?_, ?_, ?_, fun q m h => ?_, fun sound => ?_, fun degraded => ?_⟩
  · obtain ⟨S, Q, rfl⟩ := rest
    rw [made]
    exact ⟨rfl, rfl, rfl, rfl, rfl⟩
  · obtain ⟨S, Q, rfl⟩ := rest
    rw [made]
    rfl
  · obtain ⟨S, Q, rfl⟩ := rest
    rw [made]
    rfl
  · obtain ⟨S, Q, rfl⟩ := rest
    rw [made]
    rfl
  · obtain ⟨S, Q, rfl⟩ := rest
    rw [made]
    rfl
  · rw [own]
    exact resumed.request
  · rw [own]
    exact resumed.response
  · exact pending_of_onlyNotices header.notices (resumed.pending q m h)
  · rw [← dir, ← lineRun]
    exact header.sound (by rw [dir]; exact sound)
  · obtain ⟨empty, entries⟩ := header.degraded (by rw [dir]; exact degraded)
    exact ⟨empty, (entries n).trans dir⟩

/-- Settles O43: a read that verifies resumes the order from the slot's contents, one that fails from the default recipe
and a DEGRADED slot, and the ACTIVE header takes the released place. -/
theorem slotReadEnds : Obligations.SlotReadEnds := by
  refine ⟨fun s n c p code h r bs xs later queue head opening waits alone header recipe batches numbered journal counted => ?_,
    fun s n c p code v queue head opening waits alone slot fails => ?_⟩
  · let highest : Nat := xs.foldl (fun m x => max m x.roll) 0
    let saved : List Batch := bs.map fun b => { b with save := .saved }
    let status : Status := if (s.dir n).state = .degraded then .okDegraded else .ok
    let v : State := { s with recipe := r, line := { s.line with run := some (bump 255 h.run), journalling := true } }
    have effect : slotReadEffects n true s = answerOpening status (enterLineState .setup (initRun saved highest v)) := by
      unfold slotReadEffects
      rw [readSlot_verified header recipe batches numbered journal counted]
      rfl
    have resumed : Resumed p saved highest status v (slotReadEffects n true s) := by
      rw [effect]
      exact answerOpening_resumed status (v := v) (fun h => nomatch opening.symm.trans h) waits alone
    have all := endHead_resumed (v := v) resumed queue fun b hb => by
      obtain ⟨x, -, rfl⟩ := List.mem_map.1 hb
      exact fun h => nomatch h
    obtain ⟨state, order, slot, journalling, run⟩ := all.line
    have number : bump 255 h.run = min 255 (h.run + 1) := bump_eq_min ..
    refine ⟨_, slotReadEnd_effects true queue head, all.run, state, order, slot, journalling, ?_, all.recipe, all.batches,
      all.geometry, all.nv, all.request, all.response, fun _ sound => ?_, fun degraded => (all.degraded degraded).2⟩
    · rw [run, ← number]
    · rw [← number]
      exact all.sound sound
  · let noted : State := recordFailure (.slotRead n) (some n) .verify s
    let failure : State := degradeSlot n noted
    let v' : State := { failure with
      recipe := .default, line := { failure.line with run := some (bump 255 (s.dir n).run), journalling := true } }
    have failed : SlotFailed n s noted failure := degradeSlot_failed rfl rfl rfl fun _ _ => rfl
    have notices : OnlyNotices s failure := degradeSlot_onlyNotices n noted
    have effect : slotReadEffects n v s =
        answerOpening .okDegraded (enterLineState .setup (initRun [] 0 v')) := by
      unfold slotReadEffects
      rcases fails with rfl | broken
      · rfl
      · rw [readSlot_broken _ broken]
        cases v <;> rfl
    have failedLine : failure.line = { s.line with holds := failure.line.holds } := failed.line
    have requests (q : Port) : (v'.port q).request = (s.port q).request := by
      obtain ⟨x, own⟩ := slots_of_onlyNotices notices q
      show (failure.port q).request = _
      rw [own]
    have resumed : Resumed p [] 0 .okDegraded v' (slotReadEffects n v s) := by
      rw [effect]
      refine answerOpening_resumed (code := code) .okDegraded (v := v') ?_ ?_ fun q hq k d => ?_
      · show failure.line.state ≠ .setup
        rw [failedLine]
        exact fun h => nomatch opening.symm.trans h
      · rw [requests]
        exact waits
      · rw [requests]
        exact alone q hq k d
    have all := endHead_resumed (n := n) (v := v') resumed (by
      show failure.store.queue = _
      rw [failed.queue]
      exact queue) fun b hb => nomatch hb
    obtain ⟨state, order, -, journalling, run⟩ := all.line
    obtain ⟨empty, entry⟩ := all.degraded failed.degraded.state
    have same : v'.dir n = failure.dir n := rfl
    have nv := all.nv.trans failed.nv
    have geometry : v'.geometry.dK = s.geometry.dK := by
      show failure.geometry.dK = _
      have side := failed.side
      generalize failure = w at side
      rw [side]
    have initialised := all.run
    rw [geometry] at initialised
    have degraded : Degraded n s (endHead (slotReadEffects n v) (resumeHeader n) s) :=
      ⟨by rw [entry, same]; exact failed.degraded.state, by rw [entry, same]; exact failed.degraded.order,
        by rw [entry, same]; exact failed.degraded.run, by rw [entry, same]; exact failed.degraded.count,
        by rw [entry, same]; exact failed.degraded.full, fun q => all.pending q .store (failed.degraded.notice q),
        by rw [nv]; rfl, fun m _ => by rw [nv]; rfl⟩
    refine ⟨_, slotReadEnd_effects v queue head, initialised, degraded, state, ?_, journalling, ?_, all.recipe, all.batches,
      nv, empty, all.request, all.response⟩
    · rw [order]
      show failure.line.order = _
      rw [failedLine]
    · rw [run]
      exact congrArg some (bump_eq_min ..)

end Sys2Proof.Resuming

/-! ## LABEL_DONE and LABEL_SKIP (R155, R158 to R160) -/

namespace Sys2Proof.Labelling

open Sys2Proof.Machine Sys2Proof.Safety Sys2Proof.Starting Sys2Proof.Reporting Sys2Proof.Batching Sys2Proof.Porting
  Sys2Proof.Answering Sys2Proof.Cutting Sys2Proof.Storing Sys2Proof.Following Sys2Proof.Ending Sys2Proof.Journalling
  Sys2Proof.Writing

/-! ### The record that a report changes (R158, R159) -/

theorem reportRecord_record (i : Fin 24) (f : RollRecord → RollRecord) (s : State) (j : Fin 24) :
    (reportRecord i f s).record j =
      if j = i then { f (s.record i) with revision := bump max32 (s.record i).revision } else s.record j := by
  show (s.roll.records.set i _).get j = _
  rw [table_get_set]
  by_cases same : j = i
  · rw [if_pos same.symm, if_pos same]
  · rw [if_neg (Ne.symm same), if_neg same]
    rfl

/-! ### The head leaves the queue (R155) -/

/-- The blocks that a label report leaves to the roll former, the label queue, the line's hold causes and the ports. -/
def LabelSide (s t : State) : Prop :=
  t = { s with
    line := { s.line with holds := t.line.holds }, roll := { s.roll with records := t.roll.records }
    label := { s.label with entries := t.label.entries }, ports := t.ports }

theorem LabelSide.trans {s t u : State} (a : LabelSide s t) (b : LabelSide t u) : LabelSide s u := by
  unfold LabelSide at *
  rw [b, a]

theorem evalHolds_labelSide (s : State) : LabelSide s (evalHolds s) := by
  have eq := evalHolds_eq s
  generalize evalHolds s = t at eq
  have eq : ∃ H P, t = { s with line := { s.line with holds := H }, ports := P } := ⟨_, _, eq⟩
  obtain ⟨H, P, rfl⟩ := eq
  rfl

theorem oldestGraded_graded {s : State} {j : Fin 24} (h : oldestGraded s = some j) : (s.record j).state = .graded := by
  have mem := (leastBy_least (rank := fun _ => 0) (List.pairwise_of_forall fun _ _ => le_rfl) h).1
  have := (List.mem_filter.1 mem).2
  exact beq_iff_eq.1 this

/-- The head has left the queue: at most one roll has joined its tail, and no other record than its own has changed. -/
structure HeadRemoved (i : Fin 24) (rest : List LabelEntry) (s t : State) : Prop where
  side : LabelSide s t
  entries : ∃ more : List LabelEntry, t.label.entries = rest ++ more ∧ more.length ≤ 1
  record : t.record i = s.record i
  noticed : ∃ raised, Noticed raised s t ∧ (t.label.entries ≠ [] → Has raised .quality .label)

/-- A waiting roll joins the tail. -/
theorem pushLabel_joined {i j : Fin 24} {s : State} (other : j ≠ i) :
    LabelSide s (pushLabel j s) ∧ (∃ e, (pushLabel j s).label.entries = s.label.entries ++ [e]) ∧
      (pushLabel j s).record i = s.record i ∧ OnlyNotices s (pushLabel j s) := by
  let marked : State := modifyRecord j (fun r => { r with state := .labelPending }) s
  let e : LabelEntry := ⟨j, (s.record j).saleNumber.getD 0⟩
  let joined : State := { marked with label := { marked.label with entries := marked.label.entries ++ [e] } }
  have made : pushLabel j s = if s.label.entries.isEmpty then joined.raise .quality .label else joined := rfl
  have rest := modifyRecord_eq j (fun r => { r with state := .labelPending }) s
  have eq : ∃ R, marked = { s with roll := { s.roll with records := R } } := ⟨_, rest⟩
  have record : marked.record i = s.record i := modifyRecord_other j i _ s other
  have joinedRecord : joined.record i = s.record i := record
  have notices : OnlyNotices s joined := by
    obtain ⟨R, eq⟩ := eq
    exact ⟨quiet, noticed_refl s joined (show marked.ports = s.ports by rw [eq])⟩
  have side : LabelSide s joined := by
    obtain ⟨R, eq⟩ := eq
    show LabelSide s { marked with label := _ }
    rw [eq]
    rfl
  have entries : joined.label.entries = s.label.entries ++ [e] := by
    obtain ⟨R, eq⟩ := eq
    show marked.label.entries ++ [e] = _
    rw [eq]
  rw [made]
  split
  · have raised := onlyNotices_raise .quality .label joined
    have eq : ∃ P, joined.raise .quality .label = { joined with ports := P } := ⟨_, rfl⟩
    obtain ⟨P, eq⟩ := eq
    rw [eq] at raised ⊢
    exact ⟨LabelSide.trans (t := joined) side rfl, ⟨e, entries⟩, joinedRecord, notices.trans raised⟩
  · exact ⟨side, ⟨e, entries⟩, joinedRecord, notices⟩

/-- The queue's head is announced when there is one (R155). -/
def announced (s : State) : State := if s.label.entries.isEmpty then s else s.raise .quality .label

theorem announced_announced (s : State) : LabelSide s (announced s) ∧
    (announced s).label.entries = s.label.entries ∧ (∀ i, (announced s).record i = s.record i) ∧
    ∃ raised, Noticed raised s (announced s) ∧ (s.label.entries ≠ [] → Has raised .quality .label) := by
  by_cases empty : s.label.entries = []
  · have made : announced s = s := if_pos (List.isEmpty_iff.2 empty)
    rw [made]
    exact ⟨rfl, rfl, fun _ => rfl, quiet, noticed_refl s s rfl, fun h => absurd empty h⟩
  · have made : announced s = s.raise .quality .label := if_neg (by simpa using empty)
    have noticed : Noticed (on .quality .label) s (s.raise .quality .label) := raise_noticed .quality .label s
    have eq : ∃ P, s.raise .quality .label = { s with ports := P } := ⟨_, rfl⟩
    obtain ⟨P, eq⟩ := eq
    rw [made]
    rw [eq] at noticed ⊢
    exact ⟨rfl, rfl, fun _ => rfl, _, noticed, fun _ => BitVec.and_self⟩

theorem removeHead_removed {i : Fin 24} {e : LabelEntry} {rest : List LabelEntry} {s : State}
    (queue : s.label.entries = e :: rest) (labelled : (s.record i).state = .labelled) :
    HeadRemoved i rest s (removeHead s) := by
  let first : State := { s with label := { s.label with entries := s.label.entries.tail } }
  let second : State := match oldestGraded first with
    | some j => pushLabel j first
    | none => first
  have made : removeHead s =
      evalHolds (if second.label.entries.isEmpty then second else second.raise .quality .label) := rfl
  have tail : first.label.entries = rest := by
    show s.label.entries.tail = rest
    rw [queue]
    rfl
  have joined : LabelSide s second ∧ (∃ more : List LabelEntry, second.label.entries = rest ++ more ∧ more.length ≤ 1) ∧
      second.record i = s.record i ∧ OnlyNotices s second := by
    have start : LabelSide s first := rfl
    have silent : OnlyNotices s first := ⟨quiet, noticed_refl s _ rfl⟩
    cases oldest : oldestGraded first with
    | none =>
      have same : second = first := by simp only [second, oldest]
      rw [same]
      exact ⟨start, ⟨[], by rw [tail, List.append_nil], Nat.zero_le _⟩, rfl, silent⟩
    | some j =>
      have same : second = pushLabel j first := by simp only [second, oldest]
      have other : j ≠ i := fun h => by
        have graded : (s.record j).state = .graded := oldestGraded_graded oldest
        rw [h, labelled] at graded
        cases graded
      obtain ⟨side, ⟨x, entries⟩, record, notices⟩ := pushLabel_joined (s := first) other
      rw [same]
      exact ⟨start.trans side, ⟨[x], by rw [entries, tail], le_rfl⟩, record, silent.trans notices⟩
  clear_value second
  obtain ⟨side, ⟨more, entries, few⟩, record, notices⟩ := joined
  obtain ⟨announcedSide, sameEntries, sameRecord, x, raised, has⟩ := announced_announced second
  have whole : removeHead s = evalHolds (announced second) := made
  generalize announced second = u at announcedSide sameEntries sameRecord raised whole
  have heldSide := evalHolds_labelSide u
  obtain ⟨y, held⟩ := onlyNotices_evalHolds u
  obtain ⟨z, before⟩ := notices
  have heldEntries : (evalHolds u).label.entries = second.label.entries := by
    rw [evalHolds_eq]
    exact sameEntries
  rw [whole]
  refine ⟨(side.trans announcedSide).trans heldSide, ⟨more, heldEntries.trans entries, few⟩,
    (evalHolds_record i u).trans ((sameRecord i).trans record), both z (both x y),
    noticed_both before (noticed_both raised held), fun some => ?_⟩
  rw [both_comm]
  exact has_both_left (has_both_left (has (by rw [← heldEntries]; exact some)) y) z

/-! ### The path to the journal (R160) -/

theorem journalSlot_of_eq {s t : State} (store : t.store = s.store) (line : t.line = { s.line with holds := t.line.holds }) :
    journalSlot t = journalSlot s := by
  have slot : t.line.slot = s.line.slot := by rw [line]
  have state : t.line.state = s.line.state := by rw [line]
  have journalling : t.line.journalling = s.line.journalling := by rw [line]
  have dir (n : Fin 4) : t.dir n = s.dir n := by rw [State.dir, store]; rfl
  unfold journalSlot writableSlot
  rw [slot, state, journalling]
  simp only [dir]

theorem journalSlot_sound {s : State} {n : Fin 4} (h : journalSlot s = some n) : (s.dir n).state ≠ .degraded := by
  unfold journalSlot at h
  cases writable : writableSlot s with
  | none => rw [writable] at h; cases h
  | some m =>
    rw [writable] at h
    dsimp only at h
    split at h
    · cases h
      exact writableSlot_not_degraded writable
    · cases h

/-- A record on the way to the journal: the journal state apart, it is as it was. -/
structure OnJournalPath (i : Fin 24) (s t : State) : Prop where
  record : ∃ j r, t.record i = { s.record i with journal := some j, revision := r }
  label : t.label = s.label

theorem modifyRecord_journal (i : Fin 24) (x : JournalState) (s : State) :
    OnJournalPath i s (modifyRecord i (fun r => { r with journal := some x }) s) := by
  obtain ⟨r, written⟩ := modifyRecord_written i (fun r => { r with journal := some x }) s
  refine ⟨⟨x, r, written⟩, ?_⟩
  rw [modifyRecord_eq]

theorem OnJournalPath.trans {i : Fin 24} {s t u : State} (a : OnJournalPath i s t) (b : OnJournalPath i t u) :
    OnJournalPath i s u := by
  obtain ⟨⟨x, m, first⟩, label⟩ := a
  obtain ⟨⟨y, n, second⟩, label'⟩ := b
  exact ⟨⟨y, n, by rw [second, first]⟩, label'.trans label⟩

/-- An append that starts. -/
theorem startHead_append (n : Fin 4) (i : Fin 24) (s : State) : OnJournalPath i s (startHead (.journalAppend n i) s) := by
  have started := modifyRecord_journal i .writing s
  have made : startHead (.journalAppend n i) s =
      { modifyRecord i (fun r => { r with journal := some .writing }) s with
        store := { (modifyRecord i (fun r => { r with journal := some .writing }) s).store with
          head := .running (.summary (s.record i).summary) } } := rfl
  rw [made]
  generalize modifyRecord i (fun r => { r with journal := some .writing }) s = t at started
  exact ⟨started.record, started.label⟩

/-- A change of the store's queue and head. -/
theorem onJournalPath_store {i : Fin 24} {x : JournalState} {s t : State} (journal : (s.record i).journal = some x)
    (record : t.record i = s.record i) (label : t.label = s.label) : OnJournalPath i s t :=
  ⟨⟨x, (s.record i).revision, by rw [record, ← journal]⟩, label⟩

/-- An append that joins the queue: it waits behind others, waits for STORE_EN, or starts. -/
theorem enqueue_append {n : Fin 4} {i : Fin 24} {s : State} {x : JournalState} (journal : (s.record i).journal = some x)
    (sound : (s.dir n).state ≠ .degraded) (room : (s.dir n).count < 1024) :
    OnJournalPath i s (enqueue (.journalAppend n i) s) ∧ (enqueue (.journalAppend n i) s).store.queue ≠ [] := by
  have filled (op : StoreOp) : s.store.queue ++ [op] ≠ [] := List.append_ne_nil_of_right_ne_nil _ (List.cons_ne_nil _ _)
  by_cases empty : s.store.queue = []
  · have slot : targetDegraded (.journalAppend n i) s = false := beq_eq_false_iff_ne.2 sound
    have full : appendIsFull (.journalAppend n i) s = false := decide_eq_false (not_le.2 room)
    let sampled : State := sampleEnable (pushOp (.journalAppend n i) s)
    have path : OnJournalPath i s sampled := onJournalPath_store journal rfl rfl
    have queue : sampled.store.queue ≠ [] := filled _
    rw [Limits.enqueue_write empty rfl slot full]
    split
    · show OnJournalPath i s (startHead (.journalAppend n i) sampled) ∧ _
      exact ⟨path.trans (startHead_append n i sampled), by rw [Limits.startHead_queue]; exact queue⟩
    · let waiting : State := { sampled with store := { sampled.store with head := .waiting } }
      have eq : ∃ P, waiting.raiseAll .store = { waiting with ports := P } := ⟨_, rfl⟩
      obtain ⟨P, eq⟩ := eq
      show OnJournalPath i s (waiting.raiseAll .store) ∧ (waiting.raiseAll .store).store.queue ≠ []
      rw [eq]
      exact ⟨onJournalPath_store journal rfl rfl, queue⟩
  · rw [Limits.enqueue_behind empty]
    exact ⟨onJournalPath_store journal rfl rfl, filled _⟩

theorem takeJournalPath_moved (i : Fin 24) (s : State) : MovedOn s (takeJournalPath i s) := by
  unfold takeJournalPath
  split
  · exact movedOn_releaseUnjournalled i s
  · split
    · exact (movedOn_modifyRecord i (f := fun r => { r with journal := some .queued }) s fun _ => id).trans
        (movedOn_enqueue (op := .journalAppend _ i) (fun _ _ h => by cases h) _)
    · exact movedOn_modifyRecord i s fun _ => id

theorem takeJournalPath_open {i : Fin 24} {n : Fin 4} {s : State} (slot : journalSlot s = some n)
    (room : (s.dir n).count < 1024) : OnJournalPath i s (takeJournalPath i s) := by
  have sound := journalSlot_sound slot
  unfold takeJournalPath
  rw [slot]
  dsimp only
  split
  · let queued : State := modifyRecord i (fun r => { r with journal := some .queued }) s
    have marked : OnJournalPath i s queued := modifyRecord_journal i .queued s
    have dir (m : Fin 4) : queued.dir m = s.dir m := by
      show (modifyRecord i _ s).store.directory.get m = _
      rw [modifyRecord_eq]
      rfl
    obtain ⟨x, r, record⟩ := marked.record
    exact marked.trans (enqueue_append (x := x) (by rw [record]) (by rw [dir]; exact sound) (by rw [dir]; exact room)).1
  · exact modifyRecord_journal i .waiting s

theorem takeJournalPath_closed {i : Fin 24} {s : State} (slot : journalSlot s = none) :
    takeJournalPath i s = releaseUnjournalled i s := by
  unfold takeJournalPath
  rw [slot]

/-! ### The outcome of a label (R158, R159) -/

/-- What the outcome writes in the head's record. -/
def labelOutcome (r : Req) (x : RollRecord) : RollRecord :=
  if r = .labelSkip then { x with outcome := some .skipped } else { x.attempted with outcome := some .applied }

/-- The head has left the queue with its outcome, by a record that the roll former and the store now hold. -/
structure LabelFinished (i : Fin 24) (f : RollRecord → RollRecord) (rest : List LabelEntry) (s t : State) : Prop where
  entries : ∃ more : List LabelEntry, t.label.entries = rest ++ more ∧ more.length ≤ 1
  noticed : ∃ raised, Noticed raised s t ∧ (t.label.entries ≠ [] → Has raised .quality .label)
  web : t.web = s.web
  map : t.map = s.map
  closed : journalSlot s = none → (t.record i).state = .free ∧
    t.label.unjournalled = min 65535 (s.label.unjournalled + 1)
  journalled : ∀ n, journalSlot s = some n → (s.dir n).count < 1024 →
    (∃ j r, t.record i = { f (s.record i) with state := .labelled, journal := some j, revision := r }) ∧
    t.label.unjournalled = s.label.unjournalled

theorem finishLabel_finished {i : Fin 24} {f : RollRecord → RollRecord} {e : LabelEntry} {rest : List LabelEntry} {s : State}
    (queue : s.label.entries = e :: rest) : LabelFinished i f rest s (finishLabel i f s) := by
  let reported : State := reportRecord i (fun r => { f r with state := .labelled }) s
  have record : reported.record i =
      { f (s.record i) with state := .labelled, revision := bump max32 (s.record i).revision } := by
    show (reportRecord i _ s).record i = _
    rw [reportRecord_record, if_pos rfl]
  have removed : HeadRemoved i rest reported (removeHead reported) :=
    removeHead_removed (e := e) queue (by rw [record])
  have made : finishLabel i f s = advanceClosing (takeJournalPath i (removeHead reported)) := rfl
  rw [made]
  have reportedSide : LabelSide s reported := rfl
  have silent : Noticed quiet s reported := noticed_refl s _ rfl
  clear_value reported
  generalize removeHead reported = b at removed
  have bSide := reportedSide.trans removed.side
  have bStore : b.store = s.store := by rw [bSide]
  have bLine : b.line = { s.line with holds := b.line.holds } := by rw [bSide]
  have slots : journalSlot b = journalSlot s := journalSlot_of_eq bStore bLine
  have moved := takeJournalPath_moved i b
  have opens (n : Fin 4) (slot : journalSlot s = some n) (room : (s.dir n).count < 1024) :
      OnJournalPath i b (takeJournalPath i b) :=
    takeJournalPath_open (slots.trans slot) (by rw [State.dir, bStore]; exact room)
  have closes (slot : journalSlot s = none) : takeJournalPath i b = releaseUnjournalled i b :=
    takeJournalPath_closed (slots.trans slot)
  have closing := advanceClosing_side (takeJournalPath i b)
  have after := movedOn_advanceClosing (takeJournalPath i b)
  generalize takeJournalPath i b = c at moved opens closes closing after
  generalize advanceClosing c = d at closing after
  have all := moved.trans after
  have dLabel : d.label = c.label := by rw [closing]
  have dRecord : d.record i = c.record i := by rw [State.record, closing]; rfl
  have unjournalled : b.label.unjournalled = s.label.unjournalled := by rw [bSide]
  obtain ⟨more, entries, few⟩ := removed.entries
  obtain ⟨x, raised, has⟩ := removed.noticed
  obtain ⟨y, later⟩ := all.notices
  refine ⟨⟨more, all.labels.trans entries, few⟩, ⟨both (both quiet x) y, noticed_both (noticed_both silent raised) later,
    fun some => ?_⟩, ?_, ?_, fun none => ⟨?_, ?_⟩, fun n slot room => ⟨?_, ?_⟩⟩
  · refine has_both_left ?_ y
    rw [both_comm]
    exact has_both_left (has (by rw [← all.labels]; exact some)) quiet
  · rw [all.side, bSide]
  · rw [all.side, bSide]
  · rw [dRecord, closes none]
    exact freeRecord_same i b
  · rw [dLabel, closes none]
    show bump max16 (freeRecord i b).label.unjournalled = _
    have kept : (freeRecord i b).label = b.label := by rw [freeRecord, evalHolds_eq, modifyRecord_eq]
    rw [kept, unjournalled]
    exact bump_eq_min ..
  · obtain ⟨j, r, path⟩ := (opens n slot room).record
    exact ⟨j, r, by rw [dRecord, path, removed.record, record]⟩
  · rw [dLabel, (opens n slot room).label, unjournalled]

/-! ### The reports -/

/-- A label report, by its code and its argument bytes. -/
def LabelReport (r : Req) (p : Port) (args : List Byte) (roll : Nat) (out : Byte) (body : State → State) : Prop :=
  (∀ s, exec (requestInstr r p args) s = .next (takeRequest r p args body s)) ∧
    ∀ s : State, body s =
      if 1 < out.toNat then answer r p .range s
      else match labelHead s with
        | none => answer r p .notFound s
        | some e =>
          if e.roll ≠ roll then answer r p .notHead s
          else if out.toNat = 0 then answerOk r p (finishLabel e.record (labelOutcome r) s)
          else answerOk r p (reportRecord e.record RollRecord.attempted s)

theorem labelReport_of {r : Req} {p : Port} {roll : Nat} {out : Byte} {args : List Byte}
    (h : r = .labelDone ∧ args.length = 5 ∧ natOfBytes (args.take 4) = roll ∧ args.drop 4 = [out] ∨
      r = .labelSkip ∧ args.length = 4 ∧ natOfBytes args = roll ∧ out = 0#8) :
    ∃ body, LabelReport r p args roll out body := by
  rcases h with ⟨rfl, length, number, outcome⟩ | ⟨rfl, length, number, rfl⟩
  · have last : argNat args 4 1 = out.toNat := by
      show natOfBytes ((args.drop 4).take 1) = _
      rw [outcome]
      simp [natOfBytes]
    have first : argNat args 0 4 = roll := number
    refine ⟨labelDoneBody p args, fun s => rfl, fun s => ?_⟩
    unfold labelDoneBody
    rw [last, first]
    rfl
  · have first : argNat args 0 4 = roll := (argNat_whole length).trans number
    refine ⟨labelSkipBody p args, fun s => rfl, fun s => ?_⟩
    unfold labelSkipBody
    rw [first]
    rfl

/-- Settles O38: the refusals in their order, FAILED with its attempt, and the outcome with which the head leaves the queue
for the journal. -/
theorem labelReports : Obligations.LabelReports := by
  intro r p roll out args s hr h
  obtain ⟨body, hexec, hbody⟩ := labelReport_of (p := p) hr
  refine ⟨fun high => ?_, fun low empty => ?_, fun e rest low queue => ?_⟩
  · refine request_refused (hexec s) h fun P _ => ?_
    rw [hbody, if_pos high]
    rfl
  · refine request_refused (hexec s) h fun P _ => ?_
    have none : labelHead { s with ports := P } = none := by
      show s.label.entries.head? = _
      rw [empty]
      rfl
    rw [hbody, if_neg (not_lt.2 low), none]
    rfl
  · have head (x : State) (hx : x.label = s.label) : labelHead x = some e := by
      rw [labelHead, hx, queue]
      rfl
    refine ⟨fun other => ?_, fun same failed => ?_, fun same applied => ?_⟩
    · refine request_refused (hexec s) h fun P _ => ?_
      rw [hbody, if_neg (not_lt.2 low), head { s with ports := P } rfl]
      exact if_pos other
    · obtain ⟨t, ht, blocks, answered⟩ := request_answered (reportRecord e.record RollRecord.attempted s) (hexec s) h
        fun P _ => by
          rw [hbody, if_neg (not_lt.2 low), head { s with ports := P } rfl]
          exact (if_neg (not_not_intro same)).trans (if_neg (by omega))
      refine ⟨t, ht, blocks.trans ?_, answered⟩
      have attempts : bump 255 (s.record e.record).attempts = min 255 ((s.record e.record).attempts + 1) := bump_eq_min ..
      have revision : bump max32 (s.record e.record).revision = min 4294967295 ((s.record e.record).revision + 1) :=
        bump_eq_min ..
      rw [← attempts, ← revision]
      rfl
    · let before : State := received r p args s
      have beforeEq : before = { s with ports := before.ports } := received_eq r p args s
      have made : body before = answerOk r p (finishLabel e.record (labelOutcome r) before) := by
        rw [hbody, if_neg (not_lt.2 low), head before (by rw [beforeEq])]
        exact (if_neg (not_not_intro same)).trans (if_pos applied)
      have finished : LabelFinished e.record (labelOutcome r) rest before (finishLabel e.record (labelOutcome r) before) :=
        finishLabel_finished (e := e) (by rw [beforeEq]; exact queue)
      obtain ⟨raised, noticed, has⟩ := finished.noticed
      obtain ⟨t, ht, blocks, answered⟩ := request_made (hexec s) h (made := finishLabel e.record (labelOutcome r) before)
        made noticed
      generalize finishLabel e.record (labelOutcome r) before = v at finished blocks has
      have label : t.label = v.label := by rw [blocks]
      have record : t.record e.record = v.record e.record := by rw [State.record, blocks]; rfl
      have slot : journalSlot before = journalSlot s := journalSlot_of_eq (by rw [beforeEq]) (by rw [beforeEq])
      have dir (n : Fin 4) : before.dir n = s.dir n := by rw [State.dir, beforeEq]; rfl
      have own : before.record e.record = s.record e.record := by rw [State.record, beforeEq]; rfl
      have count : before.label.unjournalled = s.label.unjournalled := by rw [beforeEq]
      obtain ⟨more, entries, few⟩ := finished.entries
      refine ⟨t, raised, more, ht, answered, label ▸ entries, few, fun some => has (label ▸ some), ?_, ?_, fun closed => ?_,
        fun n opens room => ?_⟩
      · rw [blocks]
        exact finished.web.trans (by rw [beforeEq])
      · rw [blocks]
        exact finished.map.trans (by rw [beforeEq])
      · obtain ⟨free, counted⟩ := finished.closed (slot.trans closed)
        exact ⟨record ▸ free, by rw [label, counted, count]⟩
      · obtain ⟨⟨j, revision, path⟩, kept⟩ := finished.journalled n (slot.trans opens) (by rw [dir]; exact room)
        rw [record, path, label, kept, count, own]
        have attempts : bump 255 (s.record e.record).attempts = min 255 ((s.record e.record).attempts + 1) := bump_eq_min ..
        by_cases skip : r = .labelSkip
        · simp [labelOutcome, skip]
        · simp [labelOutcome, skip, RollRecord.attempted, attempts]

end Sys2Proof.Labelling

/-! ## A key edge on MK0 (R29, R33, R40 to R42, R45, R46, R49) -/

namespace Sys2Proof.Keying

open Sys2Proof.Machine Sys2Proof.Safety Sys2Proof.Starting Sys2Proof.Porting Sys2Proof.Answering Sys2Proof.Running
  Sys2Proof.Marking

/-! ### The units of a frame that opens (R45, R46) -/

theorem strayed_eq (n : Nat) (c : ChannelRecord) : c.strayed n = { c with strays := min 65535 (c.strays + n) } := rfl

theorem armChannel_eq (w v x : Int) (c : ChannelRecord) : c.arm w v x = { c with
    centre := some x
    window := if x - v ≤ w ∧ c.lastAccepted ≠ some w then .opened else .armed } := rfl

/-- The first pending position within the bounds, with those before it outside them. -/
theorem find_inside {x v : Int} {before after : List Pos} {p : Pos} (inside : Inside x v p)
    (first : ∀ y ∈ before, ¬ Inside x v y) :
    (before ++ p :: after).find? (fun p => decide (x - v ≤ p ∧ p ≤ x + v)) = some p :=
  List.find?_eq_some_iff_append.2 ⟨decide_eq_true inside, before, after, rfl, fun y hy => by
    rw [decide_eq_false (p := x - v ≤ y ∧ y ≤ x + v) (first y hy)]; rfl⟩

theorem find_outside {x v : Int} {edges : List Pos} (outside : ∀ y ∈ edges, ¬ Inside x v y) :
    edges.find? (fun p => decide (x - v ≤ p ∧ p ≤ x + v)) = none :=
  List.find?_eq_none.2 fun y hy held => outside y hy (of_decide_eq_true (p := x - v ≤ y ∧ y ≤ x + v) held)

/-- One unit at the opening of a frame: its channel and its result alone (R45, R46). -/
theorem openUnit_opened (c0 : Pos) (k : Fin 7) {s : State} {f : Frame} (frame : s.capture.frame = some f)
    (empty : f.results.get k = none) :
    ∃ d result, openUnit c0 k s = { s with capture := { s.capture with
        units := s.capture.units.set k d, frame := some { f with results := f.results.set k result } } } ∧
      UnitOpened s.recipe s.web.w (unitCentre s.recipe c0 k) (s.channel (.unit k)) d result := by
  have blank (units : Table ChannelRecord 7) : ({ s.capture with units := units } : Capture) = { s.capture with
      units := units, frame := some { f with results := f.results.set k none } } := by
    rw [← empty, Whole.set_get_self, ← frame]
  unfold openUnit
  dsimp only
  by_cases enabled : (s.channel (.unit k)).enabled = true
  · rw [if_neg (by rw [enabled]; exact Bool.false_ne_true)]
    cases hit : (s.channel (.unit k)).edges.find? (fun p => decide
        (unitCentre s.recipe c0 k - s.recipe.window ≤ p ∧ p ≤ unitCentre s.recipe c0 k + s.recipe.window)) with
    | some p =>
      dsimp only
      refine ⟨(({ s.channel (.unit k) with edges := [] }.strayed ((s.channel (.unit k)).edges.length - 1)).accept p).shut,
        some p, ?_, fun h => absurd (enabled.symm.trans h) (by decide), fun before q after _ split inside first => ?_,
        fun _ outside => absurd (hit.symm.trans (find_outside outside)) (by simp),
        fun _ outside => absurd (hit.symm.trans (find_outside outside)) (by simp)⟩
      · show setResult k p (putChannel _ _ s) = _
        unfold setResult
        rw [putChannel_frame, frame]
        rfl
      · obtain rfl : q = p := Option.some.inj ((find_inside inside first).symm.trans (split ▸ hit))
        refine ⟨rfl, ?_⟩
        rw [strayed_eq, split]
        simp [ChannelRecord.accept, ChannelRecord.shut, Nat.add_comm, Nat.add_assoc]
    | none =>
      dsimp only
      have outside := List.find?_eq_none.1 hit
      refine ⟨_, none, congrArg (fun c => ({ s with capture := c } : State)) (blank _),
        fun h => absurd (enabled.symm.trans h) (by decide),
        fun before p after _ split inside _ => ?_, fun _ _ below => ⟨rfl, if_pos below⟩,
        fun _ _ above => ⟨rfl, if_neg (not_lt.2 above)⟩⟩
      exact outside p (by rw [split]; simp) (decide_eq_true (p := _ ∧ _) inside) |>.elim
  · rw [if_pos (by rw [eq_false_of_ne_true enabled]; rfl)]
    refine ⟨s.channel (.unit k), none, ?_, fun _ => ⟨rfl, rfl⟩, fun _ _ _ h => absurd h enabled,
      fun h => absurd h enabled, fun h => absurd h enabled⟩
    have same : s.capture.units.set k (s.channel (.unit k)) = s.capture.units := Whole.set_get_self _ k
    rw [same, ← blank]

/-- The units of a list, one after the other, at the opening of a frame (R45, R46). -/
theorem openUnits_opened (c0 : Pos) (ks : List (Fin 7)) (distinct : ks.Nodup) (s : State) (f : Frame)
    (frame : s.capture.frame = some f) (empty : ∀ k ∈ ks, f.results.get k = none) :
    ∃ units g, ks.foldl (fun s k => openUnit c0 k s) s = { s with capture := { s.capture with
        units := units, frame := some g } } ∧ g.c0 = f.c0 ∧
      (∀ k ∈ ks, UnitOpened s.recipe s.web.w (unitCentre s.recipe c0 k) (s.channel (.unit k)) (units.get k)
        (g.results.get k)) ∧
      ∀ k, k ∉ ks → units.get k = s.capture.units.get k ∧ g.results.get k = f.results.get k := by
  induction ks generalizing s f with
  | nil => exact ⟨s.capture.units, f, by rw [← frame]; rfl, rfl, fun _ h => (nomatch h), fun _ _ => ⟨rfl, rfl⟩⟩
  | cons k ks ih =>
    obtain ⟨fresh, distinct⟩ := List.nodup_cons.1 distinct
    obtain ⟨d, result, made, opened⟩ := openUnit_opened c0 k frame (empty k List.mem_cons_self)
    have others (j : Fin 7) (h : j ≠ k) : (f.results.set k result).get j = f.results.get j :=
      (table_get_set ..).trans (if_neg (Ne.symm h))
    obtain ⟨units, g, after, place, each, rest⟩ := ih distinct (openUnit c0 k s)
      { f with results := f.results.set k result } (by rw [made]) fun j hj =>
        (others j fun e => fresh (e ▸ hj)).trans (empty j (List.mem_cons_of_mem k hj))
    rw [made] at after each rest
    refine ⟨units, g, ?_, place, fun j hj => ?_, fun j hj => ?_⟩
    · rw [List.foldl_cons, made, after]
    · by_cases same : j = k
      · subst same
        obtain ⟨unit, outcome⟩ := rest j fresh
        rw [unit, outcome, table_get_set, table_get_set, if_pos rfl, if_pos rfl]
        exact opened
      · have unit := each j ((List.mem_cons.1 hj).resolve_left same)
        have before : (s.capture.units.set k d).get j = s.capture.units.get j :=
          (table_get_set ..).trans (if_neg (Ne.symm same))
        rwa [State.channel, Capture.get, before] at unit
    · obtain ⟨other, absent⟩ := not_or.1 (fun h => hj (List.mem_cons.2 h))
      obtain ⟨unit, outcome⟩ := rest j absent
      exact ⟨unit.trans ((table_get_set ..).trans (if_neg (Ne.symm other))), outcome.trans (others j other)⟩

/-- An accepted key capture opens a frame for every unit (R45). -/
theorem openFrame_opened (c0 : Pos) (s : State) :
    ∃ units g, openFrame c0 s = { s with capture := { s.capture with units := units, frame := some g } } ∧ g.c0 = c0 ∧
      ∀ k, UnitOpened s.recipe s.web.w (c0 + s.recipe.unitOffset k) (s.channel (.unit k)) (units.get k)
        (g.results.get k) := by
  obtain ⟨units, g, made, place, each, -⟩ := openUnits_opened c0 (allRows 7) allRows_seven_nodup
    { s with capture := { s.capture with frame := some ⟨c0, Table.replicate 7 none⟩ } } _ rfl
    fun k _ => table_get_replicate ..
  exact ⟨units, g, made, place, fun k => each k (mem_allRows_seven k)⟩

/-! ### The phased channels follow k0 (R49) -/

/-- A phased channel arms its window from a starting limit (R49). -/
theorem armPhased_armed {ch : Channel} {limit k0 : Pos} {s : State} (key : s.clock.k0 = some k0)
    (positive : 0 < s.recipe.repeatLength) :
    PhasedArmed s.recipe (pathDistance s.geometry ch) k0 limit s.web.w (s.channel ch)
      ((armPhased ch limit s).channel ch) := by
  obtain ⟨whole, low, high⟩ := leastCentre_spec positive (pathDistance s.geometry ch) k0 limit
  refine ⟨_, whole, low, high, ?_⟩
  rw [armPhased_eq key, channel_putChannel_same]
  rfl

/-- One phased channel follows a k0 that has changed (R49). -/
theorem phasedFollow_followed {before : Option Pos} {ch : Channel} {s : State} {k0 : Pos} (key : s.clock.k0 = some k0)
    (moved : before ≠ some k0) :
    PhasedFollowed s.recipe (pathDistance s.geometry ch) before k0 s.web.w (s.channel ch)
      ((phasedFollow before ch s).channel ch) := by
  refine ⟨fun enabled absent positive => ?_, fun enabled present _ armed positive => ?_, fun stands => ?_⟩
  · have made : phasedFollow before ch s = armPhased ch ((s.web.w : Int) - s.recipe.window) s := by
      rw [phasedFollow, if_neg (by rw [enabled]; exact Bool.false_ne_true), if_pos (by rw [absent]; rfl)]
    rw [made]
    exact armPhased_armed key positive
  · have made : phasedFollow before ch s = armPhased ch (s.channel ch).limit s := by
      unfold phasedFollow
      dsimp only
      rw [if_neg (by rw [enabled]; exact Bool.false_ne_true), if_neg (by simpa using present), armed]
    rw [made]
    exact armPhased_armed key positive
  · have made : phasedFollow before ch s = s := by
      unfold phasedFollow
      dsimp only
      rcases stands with disabled | same | ⟨present, notArmed⟩
      · exact if_pos (by rw [disabled]; rfl)
      · exact absurd same moved
      · split
        · rfl
        · rw [if_neg (by simpa using present)]
          cases window : (s.channel ch).window with
          | armed => exact absurd window notArmed
          | opened | closed => rfl
    rw [made]

/-- A phased channel whose k0 stands keeps its window (R49). -/
theorem phasedFollowed_same (r : Recipe) (distance : Nat) (k0 : Pos) (w : Nat) (c : ChannelRecord) :
    PhasedFollowed r distance (some k0) k0 w c c :=
  ⟨fun _ h => (nomatch h), fun _ _ h => absurd rfl h, fun _ => rfl⟩

/-- Both phased channels follow k0 (R49). -/
theorem phasedFollowAll_followed {before : Option Pos} {s : State} {k0 : Pos} (key : s.clock.k0 = some k0) :
    PhasedFollowed s.recipe s.geometry.dE before k0 s.web.w (s.channel .mke) ((phasedFollowAll before s).channel .mke) ∧
      PhasedFollowed s.recipe s.geometry.dW before k0 s.web.w (s.channel .mkw)
        ((phasedFollowAll before s).channel .mkw) := by
  unfold phasedFollowAll
  by_cases same : s.clock.k0 = before
  · rw [if_pos same, ← same, key]
    exact ⟨phasedFollowed_same .., phasedFollowed_same ..⟩
  · rw [if_neg same]
    have moved : before ≠ some k0 := fun h => same (key.trans h.symm)
    have entry := phasedFollow_followed (ch := .mke) key moved
    have first := phasedFollow_mke before s
    have second := phasedFollow_mkw before (phasedFollow before .mke s)
    have winder := phasedFollow_followed (before := before) (ch := .mkw) (s := phasedFollow before .mke s)
      (by rw [first]; exact key) moved
    constructor
    · rw [second]
      exact entry
    · obtain ⟨c, shape⟩ : ∃ c, phasedFollow before .mke s = { s with capture := { s.capture with mke := c } } :=
        ⟨_, first⟩
      rw [shape] at winder ⊢
      exact winder

end Sys2Proof.Keying

/-! ## The clock at a key capture (R29, R33, R34) -/

namespace Sys2Proof.Keying

open Sys2Proof.Machine Sys2Proof.Safety Sys2Proof.Starting Sys2Proof.Porting Sys2Proof.Answering Sys2Proof.Running
  Sys2Proof.Marking

/-- The staged tune at a repeat boundary (R13, R14). -/
theorem applyStaged_applied (s : State) : TuneApplied s (applyStaged s) := by
  have rest := applyStaged_eq s
  cases staged : s.line.stagedTune with
  | none =>
    have same := applyStaged_none staged
    rw [same]
    refine ⟨?_, by rw [staged], fun _ => ⟨rfl, rfl⟩, rfl, fun h => absurd staged h, fun h => absurd staged h⟩
    rw [← staged]
  | some tune =>
    obtain ⟨recipe, units, emboss⟩ := applyStaged_some staged
    refine ⟨congrArg State.line rest, by rw [staged]; exact recipe, fun h => (nomatch staged.symm.trans h),
      congrArg State.register rest, fun _ k => ?_, fun _ => ?_⟩
    · rw [recipe, ← shorten_eq]
      exact units k
    · have after := congrArg State.emboss rest
      rw [recipe, ← shorten_eq, ← emboss]
      exact after

/-- What a later change of the clock, the capture unit and the ports leaves of a tune that was applied. -/
theorem tuneApplied_of_eq {s t u v : State} (h : TuneApplied s t) (line : u.line = s.line) (recipe : u.recipe = s.recipe)
    (register : u.register = s.register) (emboss : u.emboss = s.emboss) (line' : v.line = t.line)
    (recipe' : v.recipe = t.recipe) (register' : v.register = t.register) (emboss' : v.emboss = t.emboss) :
    TuneApplied u v := by
  have units (k : Fin 7) : v.unit k = t.unit k ∧ u.unit k = s.unit k := by
    rw [State.unit, State.unit, State.unit, State.unit, register, register']
    exact ⟨rfl, rfl⟩
  refine ⟨by rw [line, line']; exact h.line, by rw [line, recipe, recipe']; exact h.recipe, fun unstaged => ?_,
    by rw [register, register']; exact h.register, fun staged k => ?_, fun staged => ?_⟩
  · rw [register, emboss, register', emboss']
    exact h.unstaged (line ▸ unstaged)
  · rw [(units k).1, (units k).2, recipe']
    exact h.units (line ▸ staged) k
  · rw [emboss, emboss', recipe']
    exact h.emboss (line ▸ staged)

/-! ### Measured repeats and stretch (R33, R34) -/

/-- What a key capture at `c`, not the first and not in SEEK, makes of the measured repeats (R33, R34). -/
structure Measured (c : Pos) (misses : Nat) (newly : Bool) (s t : State) : Prop where
  rest : t = { s with
    clock := { s.clock with
      previousKey := some c, measured := t.clock.measured, stretch := t.clock.stretch, stretchOver := t.clock.stretchOver }
    ports := t.ports }
  first : s.clock.previousKey = none → t.clock.measured = s.clock.measured ∧ t.clock.stretch = s.clock.stretch ∧
    t.clock.stretchOver = s.clock.stretchOver ∧ newly = false
  again : ∀ b, s.clock.previousKey = some b →
    t.clock.measured = (s.clock.measured ++ [roundNearest (c - b) (misses + 1)]).drop (s.clock.measured.length + 1 - 8) ∧
    t.clock.stretch = some (meanNearest t.clock.measured - s.recipe.repeatLength) ∧
    t.clock.stretchOver = decide (s.recipe.stretchTolerance < mag (meanNearest t.clock.measured - s.recipe.repeatLength)) ∧
    newly = (t.clock.stretchOver && !s.clock.stretchOver)
  noticed : Noticed (onIf newly .press .stretch) s t

theorem measure_seek (c : Pos) (misses : Nat) (s : State) :
    Machine.measure c true misses s = { s with clock := { s.clock with previousKey := some c } } := rfl

theorem measure_measured (c : Pos) (misses : Nat) (s : State) :
    ∃ newly, Measured c misses newly s (Machine.measure c false misses s) := by
  unfold Machine.measure
  cases before : s.clock.previousKey with
  | none => exact ⟨false, rfl, fun _ => ⟨rfl, rfl, rfl, rfl⟩, fun b h => (nomatch before.symm.trans h), noticed_refl s _ rfl⟩
  | some p =>
    let list := pushMeasured (roundNearest (c - p) (misses + 1)) s.clock.measured
    let stretch := meanNearest list - s.recipe.repeatLength
    let exceeded := decide (s.recipe.stretchTolerance < mag stretch)
    let u : State := { s with clock := { s.clock with measured := list, stretch := some stretch, stretchOver := exceeded } }
    have made : checkStretch { s with clock := { s.clock with measured := list } } =
      if (exceeded && !s.clock.stretchOver) = true then u.raise .press .stretch else u := rfl
    have noticed := raise_noticed_if (exceeded && !s.clock.stretchOver) .press .stretch u
    obtain ⟨P, ports⟩ : ∃ P, (if (exceeded && !s.clock.stretchOver) = true then u.raise .press .stretch else u) =
        { u with ports := P } := by
      split
      · exact ⟨_, rfl⟩
      · exact ⟨_, rfl⟩
    rw [ports] at made noticed
    dsimp only
    rw [show checkStretch _ = _ from made]
    refine ⟨exceeded && !s.clock.stretchOver, rfl, fun h => (nomatch before.symm.trans h), fun b h => ?_, fun q => noticed q⟩
    obtain rfl : p = b := Option.some.inj (before.symm.trans h)
    refine ⟨?_, rfl, rfl, rfl⟩
    show lastN 8 _ = _
    rw [lastN, List.length_append]
    rfl

/-! ### The capture reaches the clock (R29) -/

/-- A capture is late when a coasting boundary was made within the window in which it was accepted (R29). -/
theorem isLate_iff {r : Recipe} {clock : RepeatClock} {c : ChannelRecord} {x : Pos} (notSeek : c.state ≠ .seek)
    (centre : c.centre = some x) :
    isLate r clock c = true ↔ ∃ b, clock.lastCoast = some b ∧ x - r.window ≤ b := by
  unfold isLate
  cases state : c.state with
  | seek => exact absurd state notSeek
  | track | coast =>
    rw [centre]
    cases clock.lastCoast with
    | none => simp
    | some b => simp

theorem isLate_seek {r : Recipe} {clock : RepeatClock} {c : ChannelRecord} (seek : c.state = .seek) :
    isLate r clock c = false := by
  unfold isLate
  rw [seek]

/-- What the clock makes of a key capture at `c`, `late` or not, before the repeat is measured (R29, R31, R32). -/
def captured (c : Pos) (late : Bool) (s : State) : State :=
  if late then { s with clock := s.clock.rephase c }
  else boundaryAt c { s with clock := { s.clock.rephase c with index := bump max32 s.clock.index } }

theorem keyCapture_eq {c : Pos} {channel : ChannelRecord} {s : State} (running : s.clock.state = .running) :
    keyCapture c channel s =
      Machine.measure c (channel.state == .seek) channel.run (captured c (isLate s.recipe s.clock channel) s) := by
  rw [keyCapture, if_neg (not_not.2 running), captured]
  dsimp only
  split
  · rfl
  · rfl

/-- A capture that is late re-phases the clock alone; any other makes a boundary and applies the staged tune (R29). -/
structure Captured (c : Pos) (late : Bool) (s t : State) : Prop where
  clock : t.clock = { s.clock with
    phase := 0, origin := c, k0 := some c, index := if late then s.clock.index else min 4294967295 (s.clock.index + 1)
    rpoEnd := if late then s.clock.rpoEnd else some (c + s.recipe.pulseWidth) }
  phaseOnly : late = true → t.line = s.line ∧ t.recipe = s.recipe ∧ t.register = s.register ∧ t.emboss = s.emboss
  tuned : late = false → TuneApplied s t
  rest : t = { s with
    line := t.line, recipe := t.recipe, clock := t.clock
    register := { s.register with units := t.register.units }
    emboss := { s.emboss with channel := t.emboss.channel } }

theorem captured_captured (c : Pos) (late : Bool) (s : State) : Captured c late s (captured c late s) := by
  cases late with
  | true => exact ⟨rfl, fun _ => ⟨rfl, rfl, rfl, rfl⟩, fun h => (nomatch h), rfl⟩
  | false =>
    let u : State := { s with clock := { s.clock.rephase c with
      index := bump max32 s.clock.index, rpoEnd := some (c + s.recipe.pulseWidth) } }
    have rest := applyStaged_eq u
    have tuned := applyStaged_applied u
    show Captured c false s (applyStaged u)
    refine ⟨(congrArg State.clock rest).trans ?_, fun h => (nomatch h), fun _ => tuneApplied_of_eq tuned rfl rfl rfl rfl rfl rfl rfl rfl, ?_⟩
    · rw [← bump_max32]
      rfl
    obtain ⟨a, b, d, e, same⟩ : ∃ a b d e, applyStaged u = { u with
        line := a, recipe := b, register := { u.register with units := d }, emboss := { u.emboss with channel := e } } :=
      ⟨_, _, _, _, rest⟩
    rw [same]

end Sys2Proof.Keying

/-! ## FirstKeyEdge (R29, R33, R40 to R42, R45, R46, R49) -/

namespace Sys2Proof.Keying

open Sys2Proof.Machine Sys2Proof.Safety Sys2Proof.Starting Sys2Proof.Porting Sys2Proof.Answering Sys2Proof.Running
  Sys2Proof.Marking

/-- MK0's record after an acceptance at `c`: TRACK, the next window one repeat on (R40, R41). -/
def tracked (c : Pos) (s : State) : ChannelRecord :=
  { s.channel .mk0 with
    state := .track, lastAccepted := some c, run := 0, window := .armed, centre := some (c + s.recipe.repeatLength) }

theorem trackAt_tracked (c : Pos) (s : State) : trackAt s.recipe .mk0 c (s.channel .mk0) = tracked c s := by
  unfold trackAt
  rw [armChannel_eq, if_neg (fun h => h.2 rfl)]
  rfl

/-- The part with MK0's record that an accepted edge leaves. -/
def withKey (s : State) : State := putChannel .mk0 (tracked s.web.w s) s

/-- Beyond MK0's record, what the clock and its tune change. -/
def KeyReached (s v : State) : Prop :=
  v = { withKey s with
    line := v.line, recipe := v.recipe, clock := v.clock
    register := { s.register with units := v.register.units }
    emboss := { s.emboss with channel := v.emboss.channel }, ports := v.ports }

theorem Captured.reached {c : Pos} {late : Bool} {s u : State} (h : Captured c late (withKey s) u) : KeyReached s u := by
  obtain ⟨a, b, d, e, f, shape⟩ : ∃ a b d e f, u = { withKey s with
      line := a, recipe := b, clock := d, register := { s.register with units := e }
      emboss := { s.emboss with channel := f } } := ⟨_, _, _, _, _, h.rest⟩
  rw [shape]
  rfl

theorem KeyReached.clocked {s u v : State} (h : KeyReached s u) {clock : RepeatClock} {ports : Ports}
    (rest : v = { u with clock := clock, ports := ports }) : KeyReached s v := by
  obtain ⟨a, b, c, d, e, P, shape⟩ : ∃ a b c d e P, u = { withKey s with
      line := a, recipe := b, clock := c, register := { s.register with units := d }
      emboss := { s.emboss with channel := e }, ports := P } := ⟨_, _, _, _, _, _, h⟩
  rw [rest, shape]
  rfl

/-- What an accepted key capture leaves: MK0 tracks, and a frame is open with the units and the phased channels that
follow (R40, R45, R49); `v` is the part once the clock has taken the capture. -/
structure KeyAccepted (s v t : State) : Prop where
  key : t.channel .mk0 = tracked s.web.w s
  opened : ∃ f, t.capture.frame = some f ∧ f.c0 = s.web.w
  frame : FrameOpened s t
  rest : t = { v with capture := t.capture }

theorem KeyReached.blocks {s v : State} (h : KeyReached s v) :
    v.web = s.web ∧ v.geometry = s.geometry ∧ v.capture = { s.capture with mk0 := tracked s.web.w s } := by
  rw [h]
  exact ⟨rfl, rfl, rfl⟩

theorem frameOpened_accepted {s v : State} (reached : KeyReached s v) (key : v.clock.k0 = some (s.web.w : Int)) :
    KeyAccepted s v (phasedFollowAll s.clock.k0 (openFrame s.web.w v)) := by
  obtain ⟨web, geometry, capture⟩ := reached.blocks
  obtain ⟨units, g, made, place, each⟩ := openFrame_opened s.web.w v
  rw [made]
  generalize hu : ({ v with capture := { v.capture with units := units, frame := some g } } : State) = u
  have rest := phasedFollowAll_eq s.clock.k0 u
  have keyed : u.clock.k0 = some (s.web.w : Int) := by rw [← hu]; exact key
  obtain ⟨entry, winder⟩ := phasedFollowAll_followed (before := s.clock.k0) keyed
  have path : u.recipe = v.recipe ∧ u.geometry = s.geometry ∧ u.web = s.web ∧ u.channel .mke = s.channel .mke ∧
      u.channel .mkw = s.channel .mkw := by
    subst hu
    refine ⟨rfl, geometry, web, ?_, ?_⟩
    · show v.capture.mke = s.capture.mke
      rw [capture]
    · show v.capture.mkw = s.capture.mkw
      rw [capture]
  obtain ⟨recipe, geometry, place', mke, mkw⟩ := path
  rw [recipe, geometry, place', mke] at entry
  rw [recipe, geometry, place', mkw] at winder
  have units' (k : Fin 7) : v.channel (.unit k) = s.channel (.unit k) := by
    show v.capture.units.get k = _
    rw [capture]
    rfl
  obtain ⟨a, b, shape⟩ : ∃ a b, phasedFollowAll s.clock.k0 u = { u with capture := { u.capture with
      mke := a, mkw := b } } := ⟨_, _, rest⟩
  rw [shape] at entry winder ⊢
  subst hu
  refine ⟨?_, ⟨g, rfl, place⟩, ⟨⟨g, rfl, place, fun k => ?_⟩, entry, winder, ?_⟩, rfl⟩
  case refine_1 =>
    show v.capture.mk0 = _
    rw [capture]
  case refine_3 =>
    show v.capture.idx = s.capture.idx
    rw [capture]
  have opened := each k
  rw [units' k, web] at opened
  exact opened

theorem acceptKey_eq (s : State) (running : s.clock.state = .running) :
    acceptKey s = phasedFollowAll s.clock.k0 (openFrame s.web.w
      (Machine.measure s.web.w ((s.channel .mk0).state == .seek) (s.channel .mk0).run
        (captured s.web.w (isLate s.recipe s.clock (s.channel .mk0)) (withKey s)))) := by
  unfold acceptKey
  dsimp only
  rw [trackAt_tracked, keyCapture_eq (s := putChannel .mk0 (tracked s.web.w s) s) running]
  rfl

/-- A key edge reaches the blocks named here and no other. -/
theorem KeyAccepted.others {s v t : State} (h : KeyAccepted s v t) (reached : KeyReached s v) :
    t.line = v.line ∧ t.recipe = v.recipe ∧ t.clock = v.clock ∧ t.register = v.register ∧ t.emboss = v.emboss ∧
      t.ports = v.ports ∧
      t = { s with
        line := t.line, recipe := t.recipe, clock := t.clock, capture := t.capture
        register := { s.register with units := t.register.units }
        emboss := { s.emboss with channel := t.emboss.channel }, ports := t.ports } := by
  obtain ⟨a, b, c, d, e, P, shape⟩ : ∃ a b c d e P, v = { withKey s with
      line := a, recipe := b, clock := c, register := { s.register with units := d }
      emboss := { s.emboss with channel := e }, ports := P } := ⟨_, _, _, _, _, _, reached⟩
  obtain ⟨capture, after⟩ : ∃ capture, t = { v with capture := capture } := ⟨_, h.rest⟩
  subst shape
  subst after
  exact ⟨rfl, rfl, rfl, rfl, rfl, rfl, rfl⟩

/-- Settles O10: MK0's record, the clock and its tune, the repeat measured, then the frame and the phased channels. -/
theorem firstKeyEdge : Obligations.FirstKeyEdge := by
  refine ⟨fun falling s enabled debt polarity seek running => ?_,
    fun falling s x late enabled debt polarity notSeek running window centre lower upper last lateIff => ?_⟩
  · have taken := markEdge_taken (ch := .mk0) enabled debt polarity
    have made : takeEdge .mk0 s = acceptKey s := if_pos (.inl seek)
    rw [made, acceptKey_eq s running, isLate_seek seek, seek, show (KeyState.seek == .seek) = true from rfl,
      measure_seek] at taken
    have clocked := captured_captured s.web.w false (withKey s)
    have ports := congrArg State.ports clocked.rest
    generalize captured s.web.w false (withKey s) = u at taken clocked ports
    generalize hv : ({ u with clock := { u.clock with previousKey := some (s.web.w : Int) } } : State) = v at taken
    have reached : KeyReached s v := clocked.reached.clocked hv.symm
    obtain ⟨vline, vrecipe, vclock, vregister, vemboss, vports⟩ : v.line = u.line ∧ v.recipe = u.recipe ∧
        v.clock = { u.clock with previousKey := some (s.web.w : Int) } ∧ v.register = u.register ∧
        v.emboss = u.emboss ∧ v.ports = s.ports := by
      subst hv
      exact ⟨rfl, rfl, rfl, rfl, rfl, ports⟩
    rw [clocked.clock] at vclock
    have accepted := frameOpened_accepted reached (by rw [vclock])
    generalize phasedFollowAll s.clock.k0 (openFrame s.web.w v) = t at taken accepted
    obtain ⟨tline, trecipe, tclock, tregister, temboss, tports, whole⟩ := accepted.others reached
    have applied : TuneApplied s t := tuneApplied_of_eq (clocked.tuned rfl) rfl rfl rfl rfl (tline.trans vline)
      (trecipe.trans vrecipe) (tregister.trans vregister) (temboss.trans vemboss)
    refine ⟨t, taken, accepted.key, tclock.trans vclock, accepted.opened, accepted.frame, applied.line, applied.recipe,
      applied, ?_⟩
    rw [tports, vports] at whole
    exact whole
  · have taken := markEdge_taken (ch := .mk0) enabled debt polarity
    have accepts := (accepts_iff centre).2 ⟨window, lower, upper, last⟩
    have made : takeEdge .mk0 s = acceptKey s := if_pos (.inr accepts)
    have same : isLate s.recipe s.clock (s.channel .mk0) = late :=
      Bool.eq_iff_iff.2 ((isLate_iff notSeek centre).trans lateIff.symm)
    rw [made, acceptKey_eq s running, same, beq_eq_false_iff_ne.2 notSeek] at taken
    have clocked := captured_captured s.web.w late (withKey s)
    have ports := congrArg State.ports clocked.rest
    generalize captured s.web.w late (withKey s) = u at taken clocked ports
    obtain ⟨newly, measured⟩ := measure_measured s.web.w (s.channel .mk0).run u
    generalize Machine.measure s.web.w false (s.channel .mk0).run u = v at taken measured
    have reached : KeyReached s v := clocked.reached.clocked measured.rest
    obtain ⟨vline, vrecipe, vregister, vemboss⟩ : v.line = u.line ∧ v.recipe = u.recipe ∧ v.register = u.register ∧
        v.emboss = u.emboss := by
      rw [measured.rest]
      exact ⟨rfl, rfl, rfl, rfl⟩
    have vclock := congrArg State.clock measured.rest
    dsimp only at vclock
    rw [clocked.clock] at vclock
    have accepted := frameOpened_accepted reached (by rw [vclock])
    generalize phasedFollowAll s.clock.k0 (openFrame s.web.w v) = t at taken accepted
    obtain ⟨tline, trecipe, tclock, tregister, temboss, tports, whole⟩ := accepted.others reached
    have first := measured.first
    have again := measured.again
    rw [clocked.clock] at first again
    refine ⟨t, newly, taken, accepted.key, ?_, ?_, ?_, fun q => ?_, accepted.opened, accepted.frame, fun h => ?_,
      fun h => ?_, whole⟩
    · rw [tclock]
      exact vclock
    · rw [tclock]
      exact first
    · rw [tclock, trecipe, vrecipe]
      exact again
    · have noticed := measured.noticed q
      rw [State.port, State.port, ports] at noticed
      rw [State.port, State.port, tports]
      exact noticed
    · obtain ⟨line, recipe, register, emboss⟩ := clocked.phaseOnly h
      exact ⟨tline.trans (vline.trans line), trecipe.trans (vrecipe.trans recipe),
        tregister.trans (vregister.trans register), temboss.trans (vemboss.trans emboss)⟩
    · have applied : TuneApplied s t := tuneApplied_of_eq (clocked.tuned h) rfl rfl rfl rfl (tline.trans vline)
        (trecipe.trans vrecipe) (tregister.trans vregister) (temboss.trans vemboss)
      exact ⟨applied.line, applied.recipe, applied⟩

end Sys2Proof.Keying

/-! ## What a channel's events tell (R53, R61) -/

namespace Sys2Proof.Judging

open Sys2Proof.Machine Sys2Proof.Safety Sys2Proof.Starting Sys2Proof.Porting Sys2Proof.Answering Sys2Proof.Running

/-- The events of a channel's step tell of a change of state and of a posting, and of an entry into ACQUIRE as `a`
says. -/
structure Told (a : Bool) (c : RegisterChannel) (x : ChannelStep) : Prop where
  changed : x.1.state ≠ c.state → x.2.changed = true
  posted : x.1.sequence ≠ c.sequence → x.2.posted = true
  acquired : x.2.acquired = a

variable {a : Bool} {k : ChannelSettings} {c : RegisterChannel} {x : ChannelStep}

theorem told_silent {c d : RegisterChannel} (state : d.state = c.state) (sequence : d.sequence = c.sequence) :
    Told false c (d, .none) :=
  ⟨fun h => absurd state h, fun h => absurd sequence h, rfl⟩

/-- A step that keeps the state, the sequence and the events tells the same. -/
theorem Told.kept {y : ChannelStep} (h : Told a c x) (state : y.1.state = x.1.state)
    (sequence : y.1.sequence = x.1.sequence) (events : y.2 = x.2) : Told a c y :=
  ⟨fun moved => events ▸ h.changed (state ▸ moved), fun moved => events ▸ h.posted (sequence ▸ moved),
    events ▸ h.acquired⟩

theorem enterState_told {st : RegisterState} (other : st ≠ .acquire) (h : Told a c x) : Told a c (enterState st x) := by
  unfold enterState
  split
  · exact h
  · refine ⟨fun _ => rfl, h.posted, ?_⟩
    show (x.2.acquired || st == .acquire) = a
    rw [h.acquired, beq_eq_false_iff_ne.2 other, Bool.or_false]

theorem postTrim_told (frame : Nat) (correction : Int) (h : Told a c x) : Told a c (postTrim frame correction x) :=
  ⟨h.changed, fun _ => rfl, h.acquired⟩

theorem postWithLimit_told (frame : Nat) (correction : Int) (h : Told a c x) :
    Told a c (postWithLimit k frame correction x) := by
  have posted : Told a c (if cutToLimit k.trimLimit x.1.trim correction = 0 then withhold x
      else postTrim frame (cutToLimit k.trimLimit x.1.trim correction) x) := by
    split
    · exact h.kept rfl rfl rfl
    · exact postTrim_told frame _ h
  unfold postWithLimit
  dsimp only
  split
  · exact enterState_told (by decide) posted
  · exact posted

theorem postInLimit_told (frame : Nat) (correction : Int) (h : Told a c x) : Told a c (postInLimit frame correction x) := by
  unfold postInLimit
  split
  · exact h.kept rfl rfl rfl
  · exact enterState_told (by decide) (postTrim_told frame correction h)

theorem evaluate_told (frame : Nat) (h : Told a c x) : Told a c (evaluate k frame x) := by
  unfold evaluate
  split
  · have posted : Told a c (if evaluationCorrection k x.1.samples = 0 then x
        else if x.1.state = .limit then postInLimit frame (evaluationCorrection k x.1.samples) x
        else postWithLimit k frame (evaluationCorrection k x.1.samples) x) := by
      split
      · exact h
      · split
        · exact postInLimit_told frame _ h
        · exact postWithLimit_told frame _ h
    exact posted.kept rfl rfl rfl
  · exact h

theorem holdOnMiss_told (second : Bool) (h : Told a c x) : Told a c (holdOnMiss second x) := by
  unfold holdOnMiss
  split
  · exact enterState_told (by decide) h
  · exact h

theorem lockedFrame_told (frame : Nat) (usable : Option Int) (second : Bool) (h : Told a c x) :
    Told a c (lockedFrame k frame usable second x) := by
  unfold lockedFrame
  dsimp only
  have gathered : Told a c (match usable with
      | some e => ({ x.1 with
          sinceEvaluation := bump max16 x.1.sinceEvaluation, samples := lastN k.depth (x.1.samples ++ [e]) }, x.2)
      | none => ({ x.1 with sinceEvaluation := bump max16 x.1.sinceEvaluation }, x.2)) := by
    cases usable <;> exact h.kept rfl rfl rfl
  split
  · exact holdOnMiss_told second (evaluate_told frame gathered)
  · exact evaluate_told frame (holdOnMiss_told second gathered)

theorem acquireUsable_told (frame : Nat) (e : Int) (h : Told a c x) : Told a c (acquireUsable k frame e x) := by
  have locked : Told a c (lockSample k e x) := by
    unfold lockSample
    dsimp only
    generalize (if mag e ≤ k.lockWindow then bump 3 x.1.lockCount else 0) = n
    split
    · exact enterState_told (by decide) (h.kept rfl rfl rfl)
    · exact h.kept rfl rfl rfl
  unfold acquireUsable acquireCorrection
  dsimp only
  split
  · exact postWithLimit_told frame _ locked
  · exact locked

theorem takeSample_told (frame : Nat) (reference : Pos) (e : Int) (c : RegisterChannel) :
    Told false c (takeSample k frame reference e c) := by
  unfold takeSample
  dsimp only
  split
  · cases state : c.state with
    | locked | limit => exact lockedFrame_told frame none false (told_silent state.symm rfl)
    | off | acquire | hold => exact told_silent state.symm rfl
  · cases state : c.state with
    | acquire => exact acquireUsable_told frame e (told_silent state.symm rfl)
    | locked | limit => exact lockedFrame_told frame (some e) false (told_silent state.symm rfl)
    | hold =>
      show Told _ _ (holdUsable ..)
      unfold holdUsable
      split
      · exact enterState_told (by decide) (told_silent state.symm rfl)
      · exact told_silent state.symm rfl
    | off => exact told_silent state.symm rfl

/-- A miss enters ACQUIRE as the eighth in HOLD alone (R63). -/
theorem takeMiss_told (frame : Nat) (c : RegisterChannel) :
    Told (decide (c.state = .hold ∧ 7 ≤ c.misses)) c (takeMiss k frame c) := by
  unfold takeMiss
  dsimp only
  cases state : c.state with
  | locked | limit => exact lockedFrame_told frame none _ (told_silent state.symm rfl)
  | hold =>
    show Told _ _ (holdMiss _)
    unfold holdMiss
    have misses : 8 ≤ bump 255 c.misses ↔ 7 ≤ c.misses := by
      rw [bump_eq_min]
      omega
    dsimp only
    by_cases eighth : 7 ≤ c.misses
    · rw [if_pos (misses.2 eighth), decide_eq_true ⟨rfl, eighth⟩]
      unfold enterState
      dsimp only
      rw [if_neg (by decide)]
      exact ⟨fun _ => rfl, fun moved => absurd rfl moved, rfl⟩
    · rw [if_neg (mt misses.1 eighth), decide_eq_false (fun h => eighth h.2)]
      exact told_silent state.symm rfl
  | off | acquire => exact told_silent state.symm rfl

theorem timeOut_told (frame : Nat) (h : Told a c x) : Told a c (timeOut k frame x) := by
  unfold timeOut
  split
  · have marked : Told a c ({ x.1 with outstanding := x.1.outstanding.map (fun t => { t with timedOut := true }) },
        { x.2 with timedOut := true }) := ⟨h.changed, h.posted, h.acquired⟩
    dsimp only
    split
    · split
      · exact marked
      · exact enterState_told (by decide) marked
    · exact enterState_told (by decide) marked
    · exact enterState_told (by decide) marked
    · exact marked
    · exact marked
  · exact h

/-- A frame enters ACQUIRE with the eighth miss in HOLD alone (R63). -/
theorem channelFrame_told (frame : Nat) (reference : Pos) (result : Option Int) (c : RegisterChannel) :
    Told (decide (result = none ∧ c.state = .hold ∧ 7 ≤ c.misses)) c (channelFrame k frame reference result c) := by
  unfold channelFrame
  split
  · rename_i off
    rw [decide_eq_false (fun h => by rw [off] at h; exact absurd h.2.1 (by decide))]
    exact told_silent rfl rfl
  · refine timeOut_told frame ?_
    cases result with
    | some e =>
      rw [decide_eq_false (fun h => nomatch h.1)]
      exact takeSample_told frame reference e c
    | none =>
      have same : decide ((none : Option Int) = none ∧ c.state = .hold ∧ 7 ≤ c.misses) =
          decide (c.state = .hold ∧ 7 ≤ c.misses) := by simp
      rw [same]
      exact takeMiss_told frame c

end Sys2Proof.Judging

/-! ## The nip at an emboss frame and at its reports (R78 to R80, R86 to R92) -/

namespace Sys2Proof.Judging

open Sys2Proof.Machine Sys2Proof.Safety Sys2Proof.Starting Sys2Proof.Batching Sys2Proof.Porting Sys2Proof.Answering
  Sys2Proof.Marking Sys2Proof.Returning

/-! ### What changes the nip (R86) -/

/-- The nip alone has changed, a change of its state being announced. -/
structure NipStep (s t : State) : Prop where
  rest : t = { s with emboss := { s.emboss with nip := t.emboss.nip }, ports := t.ports }
  only : OnlyNotices s t
  told : t.emboss.nip.state ≠ s.emboss.nip.state → Pending .emboss .nip t

theorem NipStep.refl (s : State) : NipStep s s := ⟨rfl, .refl s, fun h => absurd rfl h⟩

theorem NipStep.trans {s t u : State} (h : NipStep s t) (g : NipStep t u) : NipStep s u := by
  have rest : u = { s with emboss := { s.emboss with nip := u.emboss.nip }, ports := u.ports } := by
    obtain ⟨n, P, first⟩ : ∃ n P, t = { s with emboss := { s.emboss with nip := n }, ports := P } := ⟨_, _, h.rest⟩
    obtain ⟨m, Q, second⟩ : ∃ m Q, u = { t with emboss := { t.emboss with nip := m }, ports := Q } := ⟨_, _, g.rest⟩
    subst first
    subst second
    rfl
  refine ⟨rest, ?_, fun moved => ?_⟩
  · obtain ⟨x, hx⟩ := h.only
    obtain ⟨y, hy⟩ := g.only
    exact ⟨both x y, noticed_both hx hy⟩
  · by_cases still : u.emboss.nip.state = t.emboss.nip.state
    · exact pending_of_onlyNotices g.only (h.told (still ▸ moved))
    · exact g.told still

theorem modifyNip_step {f : Nip → Nip} {s : State} (state : (f s.emboss.nip).state = s.emboss.nip.state) :
    NipStep s (modifyNip f s) :=
  ⟨rfl, ⟨quiet, noticed_refl s _ rfl⟩, fun moved => absurd state moved⟩

theorem enterNip_nip (st : NipState) (s : State) : (enterNip st s).emboss.nip = { s.emboss.nip with state := st } := by
  rw [enterNip_eq]

theorem enterNip_step (st : NipState) (s : State) : NipStep s (enterNip st s) := by
  refine ⟨?_, enterNip_onlyNotices st s, fun moved => ?_⟩
  · conv_lhs => rw [enterNip_eq]
    rw [enterNip_nip]
  · rw [enterNip_nip] at moved
    rw [enterNip, if_neg (Ne.symm moved)]
    exact pending_raise ..

theorem orderNipOpen_step (reason : OrderReason) (s : State) : NipStep s (orderNipOpen reason s) :=
  (modifyNip_step (f := fun n => { n with orderReason := some reason, openCause := none }) rfl).trans (enterNip_step ..)

theorem embossAcquired_step (s : State) : NipStep s (embossAcquired s) := by
  unfold embossAcquired
  have reset : NipStep s (modifyNip (fun n => { n with closeRun := 0 }) s) := modifyNip_step rfl
  dsimp only
  split
  · exact reset.trans (orderNipOpen_step ..)
  · exact reset

theorem withdrawPermit_step (s : State) : NipStep s (withdrawPermit s) := by
  unfold withdrawPermit
  split
  · exact enterNip_step ..
  · exact .refl s

theorem countClose_step (result : Option Int) (s : State) : NipStep s (countClose result s) := by
  cases result with
  | none => exact .refl s
  | some e =>
    exact modifyNip_step (f := fun n => { n with
      closeRun := if mag e ≤ s.recipe.nipCloseWindow then bump 3 n.closeRun else 0 }) rfl

theorem closedSample_step (result : Option Int) (s : State) : NipStep s (closedSample result s) := by
  unfold closedSample
  cases result with
  | none => exact .refl s
  | some e =>
    dsimp only
    have counted : NipStep s (modifyNip (fun n => { n with verdict := .exceeded, toleranceRun := bump 2 n.toleranceRun }) s) :=
      modifyNip_step rfl
    split
    · exact modifyNip_step rfl
    · split
      · exact counted.trans (orderNipOpen_step ..)
      · exact counted

/-- What the nip does after its close run has counted (R87, R89). -/
def nipActs (result : Option Int) (s : State) : State :=
  match s.emboss.nip.state with
  | .opened => if s.emboss.channel.state = .locked ∧ s.emboss.nip.closeRun = 3 then enterNip .ready s else s
  | .ready =>
    match result with
    | some e => if s.recipe.nipCloseWindow < mag e then enterNip .opened s else withdrawPermit s
    | none => withdrawPermit s
  | .closed => closedSample result s
  | .opening | .parked => s

theorem nipFrame_eq (result : Option Int) (s : State) : nipFrame result s = nipActs result (countClose result s) := by
  unfold nipFrame nipActs
  rfl

theorem nipActs_step (result : Option Int) (s : State) : NipStep s (nipActs result s) := by
  unfold nipActs
  cases s.emboss.nip.state with
  | opened =>
    dsimp only
    split
    · exact enterNip_step ..
    · exact .refl s
  | ready =>
    cases result with
    | some e =>
      dsimp only
      split
      · exact enterNip_step ..
      · exact withdrawPermit_step s
    | none => exact withdrawPermit_step s
  | closed => exact closedSample_step ..
  | opening | parked => exact .refl s

theorem nipFrame_step (result : Option Int) (s : State) : NipStep s (nipFrame result s) := by
  rw [nipFrame_eq]
  exact (countClose_step result s).trans (nipActs_step ..)

/-! ### What it becomes (R86, R87, R89) -/

theorem withdrawPermit_nip {s : State} (ready : s.emboss.nip.state = .ready) :
    (withdrawPermit s).emboss.nip = { s.emboss.nip with
      state := if s.emboss.channel.state = .locked then .ready else .opened } := by
  unfold withdrawPermit
  by_cases locked : s.emboss.channel.state = .locked
  · rw [if_neg (fun h => h.2 locked), if_pos locked, ← ready]
  · rw [if_pos ⟨ready, locked⟩, if_neg locked, enterNip_nip]

theorem permit_nip {s : State} (opened : s.emboss.nip.state = .opened) :
    (if s.emboss.channel.state = .locked ∧ s.emboss.nip.closeRun = 3 then enterNip .ready s else s).emboss.nip =
      { s.emboss.nip with
        state := if s.emboss.channel.state = .locked ∧ s.emboss.nip.closeRun = 3 then .ready else .opened } := by
  split
  · exact enterNip_nip ..
  · rw [← opened]

/-- What an emboss frame makes of the nip once its close run has counted (R87, R89). -/
def actedNip (r : Recipe) (channel : RegisterState) (result : Option Int) (n : Nip) : Nip :=
  match n.state, result with
  | .opened, _ => { n with state := if channel = .locked ∧ n.closeRun = 3 then .ready else .opened }
  | .ready, some e => { n with state := if r.nipCloseWindow < mag e ∨ channel ≠ .locked then .opened else .ready }
  | .ready, none => { n with state := if channel = .locked then .ready else .opened }
  | .closed, some e =>
    if mag e ≤ r.embossTolerance then { n with verdict := .within, toleranceRun := 0 }
    else if n.toleranceRun = 0 then { n with verdict := .exceeded, toleranceRun := 1 }
    else { n with
      verdict := .exceeded, toleranceRun := 2, state := .opening, orderReason := some .tolerance, openCause := none }
  | .closed, none | .opening, _ | .parked, _ => n

section

variable {r : Recipe} {channel : RegisterState} {n : Nip}

theorem actedNip_opened (result : Option Int) (h : n.state = .opened) : actedNip r channel result n =
    { n with state := if channel = .locked ∧ n.closeRun = 3 then .ready else .opened } := by
  unfold actedNip
  split <;> simp_all

theorem actedNip_ready_sample (e : Int) (h : n.state = .ready) : actedNip r channel (some e) n =
    { n with state := if r.nipCloseWindow < mag e ∨ channel ≠ .locked then .opened else .ready } := by
  obtain ⟨state⟩ := n
  obtain rfl : state = .ready := h
  rfl

theorem actedNip_ready_miss (h : n.state = .ready) : actedNip r channel none n =
    { n with state := if channel = .locked then .ready else .opened } := by
  obtain ⟨state⟩ := n
  obtain rfl : state = .ready := h
  rfl

theorem actedNip_closed (e : Int) (h : n.state = .closed) : actedNip r channel (some e) n =
    if mag e ≤ r.embossTolerance then { n with verdict := .within, toleranceRun := 0 }
    else if n.toleranceRun = 0 then { n with verdict := .exceeded, toleranceRun := 1 }
    else { n with
      verdict := .exceeded, toleranceRun := 2, state := .opening, orderReason := some .tolerance, openCause := none } := by
  obtain ⟨state⟩ := n
  obtain rfl : state = .closed := h
  rfl

theorem actedNip_closed_miss (h : n.state = .closed) : actedNip r channel none n = n := by
  obtain ⟨state⟩ := n
  obtain rfl : state = .closed := h
  rfl

theorem actedNip_resting (result : Option Int) (h : n.state = .opening ∨ n.state = .parked) :
    actedNip r channel result n = n := by
  obtain ⟨state⟩ := n
  rcases h with h | h
  · obtain rfl : state = .opening := h
    rfl
  · obtain rfl : state = .parked := h
    rfl

/-- The close run is counted before the nip acts. -/
theorem actedNip_closeRun (result : Option Int) : (actedNip r channel result n).closeRun = n.closeRun := by
  unfold actedNip
  split
  · rfl
  · rfl
  · rfl
  · split
    · rfl
    · split
      · rfl
      · rfl
  · rfl
  · rfl
  · rfl

/-- The nip after a sample, by the state it had (R86, R87, R89). -/
theorem actedNip_sample (e : Int) :
    NipSample r channel e n (actedNip r channel (some e)
      { n with closeRun := if mag e ≤ r.nipCloseWindow then min 3 (n.closeRun + 1) else 0 }) := by
  generalize hm : ({ n with closeRun := if mag e ≤ r.nipCloseWindow then min 3 (n.closeRun + 1) else 0 } : Nip) = m
  have run : m.closeRun = if mag e ≤ r.nipCloseWindow then min 3 (n.closeRun + 1) else 0 := by rw [← hm]
  have same : m = { n with closeRun := m.closeRun } := by rw [← hm]
  clear hm
  refine ⟨(actedNip_closeRun _).trans run, fun h => ?_, fun h => ?_, fun h within => ?_, fun h beyond fresh => ?_,
    fun h beyond counted => ?_, fun h => ?_⟩
  all_goals
    rw [actedNip_closeRun]
    clear run
    generalize m.closeRun = x at same
    subst same
  · exact actedNip_opened _ h
  · exact actedNip_ready_sample e h
  · exact (actedNip_closed e (by exact h)).trans (if_pos within)
  · exact (actedNip_closed e (by exact h)).trans ((if_neg (not_le.2 beyond)).trans (if_pos fresh))
  · exact (actedNip_closed e (by exact h)).trans ((if_neg (not_le.2 beyond)).trans (if_neg (Nat.ne_of_gt counted)))
  · exact actedNip_resting _ h

/-- The nip as an entry of the emboss channel into ACQUIRE leaves it (R86, R89). -/
def acquiredNip (n : Nip) : Nip :=
  if n.state = .closed then { n with closeRun := 0, state := .opening, orderReason := some .acquire, openCause := none }
  else { n with closeRun := 0 }

/-- The nip after an unpaired frame, by the state it had (R86, R87, R89). -/
theorem actedNip_miss (acquired : Bool) :
    NipMiss channel (acquired = true) n (actedNip r channel none (if acquired then acquiredNip n else n)) := by
  generalize hm : (if acquired then acquiredNip n else n) = m
  have run : (acquired = true → m.closeRun = 0) ∧ (¬ acquired = true → m.closeRun = n.closeRun) := by
    subst hm
    refine ⟨fun h => ?_, fun h => ?_⟩
    · rw [if_pos h]
      unfold acquiredNip
      split
      · rfl
      · rfl
    · rw [if_neg h]
  have other (h : n.state ≠ .closed) : m = { n with closeRun := m.closeRun } := by
    subst hm
    cases acquired with
    | true =>
      show acquiredNip n = { n with closeRun := (acquiredNip n).closeRun }
      rw [acquiredNip, if_neg h]
    | false => rfl
  refine ⟨by rw [actedNip_closeRun]; exact run, fun h => ?_, fun h => ?_, fun h still => ?_, fun h moved => ?_,
    fun h => ?_⟩
  · have same := other (by rw [h]; decide)
    rw [actedNip_closeRun]
    generalize m.closeRun = x at same
    rw [same]
    exact actedNip_opened _ h
  · have same := other (by rw [h]; decide)
    rw [actedNip_closeRun]
    generalize m.closeRun = x at same
    rw [same]
    exact actedNip_ready_miss h
  · rw [if_neg still] at hm
    rw [← hm]
    exact actedNip_closed_miss h
  · rw [if_pos moved, acquiredNip, if_pos h] at hm
    rw [← hm]
    exact actedNip_resting none (.inl rfl)
  · have same := other (by rcases h with h | h <;> rw [h] <;> decide)
    rw [actedNip_closeRun]
    generalize m.closeRun = x at same
    rw [same]
    exact actedNip_resting none h

end

theorem closedSample_nip {e : Int} {s : State} (closed : s.emboss.nip.state = .closed) :
    (closedSample (some e) s).emboss.nip = actedNip s.recipe s.emboss.channel.state (some e) s.emboss.nip := by
  rw [actedNip_closed e closed]
  unfold closedSample
  dsimp only
  split
  · rfl
  · have count : bump 2 s.emboss.nip.toleranceRun = if s.emboss.nip.toleranceRun = 0 then 1 else 2 := by
      rw [bump_eq_min]
      split <;> omega
    show (if bump 2 s.emboss.nip.toleranceRun = 2 then orderNipOpen _ _ else _).emboss.nip = _
    by_cases first : s.emboss.nip.toleranceRun = 0
    · rw [if_pos first] at count
      rw [if_neg (by rw [count]; decide), if_pos first, ← count]
      rfl
    · rw [if_neg first] at count
      rw [if_pos count, if_neg first, orderNipOpen, enterNip_nip]
      show ({ s.emboss.nip with
        verdict := .exceeded, toleranceRun := bump 2 s.emboss.nip.toleranceRun, state := .opening
        orderReason := some .tolerance, openCause := none } : Nip) = _
      rw [count]

theorem nipActs_nip (result : Option Int) (s : State) :
    (nipActs result s).emboss.nip = actedNip s.recipe s.emboss.channel.state result s.emboss.nip := by
  unfold nipActs
  cases state : s.emboss.nip.state with
  | opened => exact (permit_nip state).trans (actedNip_opened result state).symm
  | ready =>
    cases result with
    | none => exact (withdrawPermit_nip state).trans (actedNip_ready_miss state).symm
    | some e =>
      rw [actedNip_ready_sample e state]
      dsimp only
      by_cases far : s.recipe.nipCloseWindow < mag e
      · rw [if_pos far, if_pos (.inl far), enterNip_nip]
      · rw [if_neg far, withdrawPermit_nip state]
        by_cases locked : s.emboss.channel.state = .locked
        · rw [if_pos locked, if_neg (not_or.2 ⟨far, not_not.2 locked⟩)]
        · rw [if_neg locked, if_pos (.inr locked)]
  | closed =>
    cases result with
    | some e => exact closedSample_nip state
    | none => exact (actedNip_closed_miss state).symm
  | opening => exact (actedNip_resting result (.inl state)).symm
  | parked => exact (actedNip_resting result (.inr state)).symm

theorem nipFrame_sample (e : Int) (s : State) :
    NipSample s.recipe s.emboss.channel.state e s.emboss.nip (nipFrame (some e) s).emboss.nip := by
  have counted : (countClose (some e) s).emboss.nip = { s.emboss.nip with
      closeRun := if mag e ≤ s.recipe.nipCloseWindow then min 3 (s.emboss.nip.closeRun + 1) else 0 } := by
    rw [← bump_eq_min]
    rfl
  rw [nipFrame_eq, nipActs_nip, counted]
  exact actedNip_sample e

theorem embossAcquired_nip (s : State) : (embossAcquired s).emboss.nip = acquiredNip s.emboss.nip := by
  unfold embossAcquired acquiredNip
  dsimp only
  by_cases closed : s.emboss.nip.state = .closed
  · rw [if_pos (by exact closed), if_pos closed, orderNipOpen, enterNip_nip]
    rfl
  · rw [if_neg (by exact closed), if_neg closed]
    rfl

/-- The nip after an unpaired frame (R86, R87, R89). -/
theorem nipFrame_miss (acquired : Bool) (s : State) :
    NipMiss s.emboss.channel.state (acquired = true) s.emboss.nip
      (nipFrame none (if acquired then embossAcquired s else s)).emboss.nip := by
  have nip : (if acquired then embossAcquired s else s).emboss.nip =
      if acquired then acquiredNip s.emboss.nip else s.emboss.nip := by
    cases acquired with
    | true => exact embossAcquired_nip s
    | false => rfl
  have channel : (if acquired then embossAcquired s else s).emboss.channel = s.emboss.channel := by
    cases acquired with
    | true =>
      show (embossAcquired s).emboss.channel = _
      rw [(embossAcquired_step s).rest]
    | false => rfl
  rw [nipFrame_eq, nipActs_nip, countClose, nip, channel]
  exact actedNip_miss acquired

end Sys2Proof.Judging

/-! ## NIP_CLOSED, NIP_OPENED and an emboss frame at IDX (R44, R78 to R80, R88, R91, R92) -/

namespace Sys2Proof.Judging

open Sys2Proof.Machine Sys2Proof.Safety Sys2Proof.Starting Sys2Proof.Batching Sys2Proof.Porting Sys2Proof.Answering
  Sys2Proof.Marking Sys2Proof.Returning Sys2Proof.Writing Sys2Proof.Keying

/-! ### The reports of the nip (R88, R91) -/

/-- What a report that takes the nip to `st`, changed by `f`, leaves (R88, R91, R92). -/
structure NipReported (st : NipState) (f : Nip → Nip) (s t : State) : Prop where
  rest : t = { s with map := t.map, emboss := { s.emboss with nip := t.emboss.nip }, ports := t.ports }
  nip : t.emboss.nip = { f s.emboss.nip with state := st }
  judged : s.emboss.nip.state ≠ st → EmbossJudged s t
  kept : s.emboss.nip.state = st → t.map = s.map
  noticed : Noticed (onIf (decide (s.emboss.nip.state ≠ st)) .emboss .nip) s t

theorem nipReported {st : NipState} {f : Nip → Nip} {s : State} (state : (f s.emboss.nip).state = s.emboss.nip.state) :
    NipReported st f s (judgeChange s.emboss.nip.state (enterNip st (modifyNip f s))) := by
  have entered := enterNip_eq st (modifyNip f s)
  have noticed := enterNip_noticed st (modifyNip f s)
  rw [show (modifyNip f s).emboss.nip.state = s.emboss.nip.state from state] at noticed
  generalize enterNip st (modifyNip f s) = u at entered noticed
  obtain ⟨P, entered⟩ : ∃ P, u = { s with
      emboss := { s.emboss with nip := { f s.emboss.nip with state := st } }, ports := P } := ⟨_, entered⟩
  have judge := judgeChange_eq s.emboss.nip.state u
  have after : u.emboss.nip.state = st := by rw [entered]
  obtain ⟨M, map⟩ : ∃ M, judgeChange s.emboss.nip.state u = { u with map := M } := ⟨_, judge⟩
  refine ⟨?_, ?_, fun moved => ?_, fun still => ?_, fun q => ?_⟩
  · rw [map, entered]
  · rw [map, entered]
  · have judged := judgeEmboss_judged u
    rw [judgeChange, if_neg (by rw [after]; exact Ne.symm moved)]
    generalize judgeEmboss u = t at judged
    subst entered
    exact ⟨judged.judges, judged.rests⟩
  · rw [judgeChange, if_pos (by rw [after]; exact still.symm), entered]
  · rw [map]
    exact noticed q

/-- A report of the nip that is taken (R88, R91). -/
theorem nipReport_taken {i : Instr} {r : Req} {p : Port} {s : State} {body : State → State} {st : NipState}
    {f : Nip → Nip} (hexec : exec i s = .next (takeRequest r p [] body s)) (h : Admitted r p [] s)
    (hbody : body (received r p [] s) =
      answerOk r p (judgeChange s.emboss.nip.state (enterNip st (modifyNip f (received r p [] s)))))
    (state : (f s.emboss.nip).state = s.emboss.nip.state) :
    ∃ t, exec i s = .next t ∧
      t = { s with map := t.map, emboss := { s.emboss with nip := t.emboss.nip }, ports := t.ports } ∧
      t.emboss.nip = { f s.emboss.nip with state := st } ∧ (s.emboss.nip.state ≠ st → EmbossJudged s t) ∧
      (s.emboss.nip.state = st → t.map = s.map) ∧
      Answered r p [] .ok [] (onIf (decide (s.emboss.nip.state ≠ st)) .emboss .nip) s t := by
  obtain ⟨P, found⟩ : ∃ P, received r p [] s = { s with ports := P } := ⟨_, received_eq r p [] s⟩
  have reported : NipReported st f (received r p [] s)
      (judgeChange s.emboss.nip.state (enterNip st (modifyNip f (received r p [] s)))) := by
    rw [found]
    exact nipReported (s := { s with ports := P }) state
  obtain ⟨rest, nip, judged, kept, noticed⟩ := reported
  have nipState : (received r p [] s).emboss.nip = s.emboss.nip := by rw [found]
  rw [nipState] at noticed nip judged kept
  obtain ⟨t, taken, ports, answered⟩ := request_made hexec h hbody noticed
  generalize judgeChange s.emboss.nip.state (enterNip st (modifyNip f (received r p [] s))) = u
    at rest nip judged kept ports
  rw [found] at rest judged kept
  obtain ⟨Q, ports⟩ : ∃ Q, t = { u with ports := Q } := ⟨_, ports⟩
  refine ⟨t, taken, ?_, ?_, fun moved => ?_, fun still => ?_, answered⟩
  · obtain ⟨M, N, R, rest⟩ : ∃ M N R, u = { s with
        map := M, emboss := { s.emboss with nip := N }, ports := R } := ⟨_, _, _, rest⟩
    subst ports
    subst rest
    rfl
  · rw [ports]
    exact nip
  · rw [ports]
    exact ⟨(judged moved).judges, (judged moved).rests⟩
  · rw [ports]
    exact kept still

/-! ### Emboss frames (R78 to R80) -/

/-- What an emboss frame at `ci` leaves, the emboss channel not OFF (R78 to R80, R92). -/
structure EmbossFramed (ci : Pos) (s t : State) : Prop where
  rest : t = { s with emboss := t.emboss, map := t.map, ports := t.ports }
  index : t.emboss.frameIndex = min 4294967295 (s.emboss.frameIndex + 1)
  capture : t.emboss.lastCi = some ci
  channel : t.emboss.channel.state ≠ s.emboss.channel.state → Pending .emboss .emb t
  nip : t.emboss.nip.state ≠ s.emboss.nip.state → Pending .emboss .nip t
  sample : ∀ (h : HeldCapture) (e : Int), s.emboss.held = some h → pairedWith s.recipe ci s.emboss.held = some h.position →
    e = embossError s.recipe ci h.position → EmbossSample s t h e
  miss : pairedWith s.recipe ci s.emboss.held = none → EmbossMiss s t
  judged : EmbossJudged s t

theorem putEmboss_told {a : Bool} {x : ChannelStep} {s : State} (told : Told a s.emboss.channel x)
    (moved : x.1.state ≠ s.emboss.channel.state) : Pending .emboss .emb (putEmboss x s) := by
  unfold putEmboss
  rw [if_pos (by rw [told.changed moved, Bool.or_true, Bool.true_or])]
  exact pending_raise ..

theorem embossFrame_framed (ci : Pos) {s : State} (on : s.emboss.channel.state ≠ .off) :
    EmbossFramed ci s (embossFrame ci s) := by
  have unfolded : embossFrame ci s = _ := if_neg on
  dsimp only at unfolded
  rw [unfolded]
  clear unfolded
  generalize hce : pairedWith s.recipe ci s.emboss.held = ce
  let n := bump max32 s.emboss.frameIndex
  have told := channelFrame_told (k := embossSettings s) n (ce.getD 0) (ce.map (embossError s.recipe ci)) s.emboss.channel
  have taken (reference : Pos) (result : Option Int) :=
    channelFrame_taken (embossSettings s) n reference result s.emboss.channel
  generalize hs1 : recordEmbossFrame ci ce s = s1
  have recorded : s1.emboss = { s.emboss with
      frameIndex := n, lastCi := some ci, lastCe := ce, frameError := ce.map (embossError s.recipe ci)
      held := if ce.isSome then s.emboss.held.map (fun h => { h with used := true }) else s.emboss.held
      unpaired := if ce.isSome then s.emboss.unpaired else bump max16 s.emboss.unpaired } := by
    rw [← hs1]
    rfl
  have blocks : s1 = { s with emboss := s1.emboss } := by
    rw [← hs1]
    rfl
  have settings : embossSettings s1 = embossSettings s := by
    rw [← hs1]
    rfl
  rw [settings, show s1.emboss.frameIndex = n by rw [recorded], show s1.emboss.channel = s.emboss.channel by rw [recorded]]
  generalize hx : channelFrame (embossSettings s) n (ce.getD 0) (ce.map (embossError s.recipe ci)) s.emboss.channel = x
    at told
  have channelTold : Told (decide (ce.map (embossError s.recipe ci) = none ∧ s.emboss.channel.state = .hold ∧
      7 ≤ s.emboss.channel.misses)) s1.emboss.channel x := by
    rw [recorded]
    exact told
  have put := putEmboss_eq x s1
  have announced := putEmboss_told channelTold
  generalize putEmboss x s1 = s2 at put announced
  have acquiredStep : NipStep s2 (if x.2.acquired then embossAcquired s2 else s2) := by
    split
    · exact embossAcquired_step s2
    · exact .refl s2
  have step := acquiredStep.trans (nipFrame_step (ce.map (embossError s.recipe ci)) _)
  have miss := nipFrame_miss x.2.acquired s2
  have sample (e : Int) := nipFrame_sample e s2
  have same (e : Int) (h : ce.map (embossError s.recipe ci) = some e) : (if x.2.acquired then embossAcquired s2 else s2) = s2 := by
    rw [told.acquired, h, decide_eq_false (fun h => nomatch h.1)]
    rfl
  have before : s2.emboss = { s1.emboss with channel := x.1 } ∧ s2.recipe = s.recipe := by
    rw [put, blocks]
    exact ⟨rfl, rfl⟩
  obtain ⟨before, recipe⟩ := before
  have made : ∃ P, s2 = { s with emboss := s2.emboss, ports := P } := by
    rw [put, blocks]
    exact ⟨_, rfl⟩
  generalize hv : nipFrame (ce.map (embossError s.recipe ci)) (if x.2.acquired then embossAcquired s2 else s2) = v at step
  have judged := judgeEmboss_judged v
  have judge := judgeEmboss_eq v
  have nip : v.emboss = { s2.emboss with nip := v.emboss.nip } := congrArg State.emboss step.rest
  rw [before, recorded] at nip
  have after : ∃ P, v = { s with emboss := v.emboss, ports := P } := by
    obtain ⟨P, made⟩ := made
    rw [step.rest, made]
    exact ⟨_, rfl⟩
  have nipBefore : s2.emboss.nip = s.emboss.nip := by rw [before, recorded]
  have emboss : (judgeEmboss v).emboss = v.emboss := by rw [judge]
  have ports : (judgeEmboss v).ports = v.ports := by rw [judge]
  refine ⟨?_, ?_, ?_, fun moved => ?_, fun moved => ?_, fun h e held pairs he => ?_, fun pairs => ?_, ?_⟩
  · obtain ⟨P, after⟩ := after
    rw [judge, after]
  · rw [emboss, nip, ← bump_max32]
  · rw [emboss, nip]
  · rw [emboss, nip] at moved
    rw [Pending, State.port, ports]
    exact pending_of_onlyNotices step.only (announced (by rw [recorded]; exact moved))
  · rw [emboss] at moved
    rw [Pending, State.port, ports]
    exact step.told (by rw [nipBefore]; exact moved)
  · obtain rfl : ce = some h.position := hce.symm.trans pairs
    have result : (some h.position).map (embossError s.recipe ci) = some e := congrArg some he.symm
    rw [same e result, result] at hv
    have nipSample := sample e
    rw [hv, recipe, nipBefore, before] at nipSample
    refine ⟨?_, ?_, ?_⟩
    · rw [emboss, nip, held, result]
      exact ⟨rfl, rfl, rfl, rfl⟩
    · rw [emboss, nip, ← hx, result]
      exact taken h.position (some e)
    · rw [emboss, nip]
      exact nipSample
  · obtain rfl : ce = none := hce.symm.trans pairs
    have nipMiss := miss
    rw [show nipFrame none (if x.2.acquired then embossAcquired s2 else s2) = v from hv, nipBefore, before,
      told.acquired] at nipMiss
    refine ⟨?_, fun reference => ?_, ?_⟩
    · rw [emboss, nip, ← bump_max16]
      exact ⟨rfl, rfl, rfl, rfl⟩
    · rw [emboss, nip, ← hx]
      exact taken reference none
    · rw [emboss, nip]
      have meaning : (decide ((none : Option Pos).map (embossError s.recipe ci) = none ∧ s.emboss.channel.state = .hold ∧
          7 ≤ s.emboss.channel.misses) = true) = (s.emboss.channel.state = .hold ∧ 7 ≤ s.emboss.channel.misses) := by simp
      rw [meaning] at nipMiss
      exact nipMiss
  · generalize judgeEmboss v = t at judged
    obtain ⟨P, after⟩ := after
    rw [after] at judged
    exact ⟨judged.judges, judged.rests⟩

theorem pairedWith_some {r : Recipe} {ci : Pos} {h : HeldCapture} (unused : h.used = false) (behind : h.position ≤ ci)
    (near : ci < h.position + r.repeatLength) : pairedWith r ci (some h) = some h.position := by
  unfold pairedWith
  dsimp only
  rw [if_neg (by rw [unused]; decide), if_pos ⟨sub_nonneg.2 behind, sub_lt_iff_lt_add'.2 near⟩]

theorem pairedWith_none {r : Recipe} {ci : Pos} {held : Option HeldCapture}
    (away : ∀ h, held = some h → h.used = true ∨ ci < h.position ∨ h.position + r.repeatLength ≤ ci) :
    pairedWith r ci held = none := by
  unfold pairedWith
  cases held with
  | none => rfl
  | some h =>
    dsimp only
    split
    · rfl
    · rename_i unused
      refine if_neg fun near => ?_
      rcases away h rfl with used | ahead | beyond
      · exact unused used
      · exact not_le.2 ahead (sub_nonneg.1 near.1)
      · exact not_le.2 (sub_lt_iff_lt_add'.1 near.2) beyond

theorem trackAt_index (c : Pos) (s : State) : trackAt s.recipe .idx c (s.channel .idx) = { s.channel .idx with
    state := .track, lastAccepted := some c, run := 0, window := .armed
    centre := some (c + s.recipe.embossRatio * s.recipe.repeatLength) } := by
  unfold trackAt
  rw [armChannel_eq, if_neg (fun h => h.2 rfl)]
  rfl

theorem received_nip (r : Req) (p : Port) (args : List Byte) (s : State) :
    (received r p args s).emboss.nip = s.emboss.nip := by
  rw [received_eq]

/-- A closing that is taken, `cause` saying from which state (R88). -/
theorem nipClosed_taken {p : Port} {s : State} {cause : CloseCause} (h : Admitted .nipClosed p [] s)
    (source : (s.emboss.nip.state = .ready ∧ cause = .permitted) ∨ (s.emboss.nip.state = .opened ∧ cause = .unpermitted)) :
    ∃ t, exec (.nipClosed p []) s = .next t ∧
      t = { s with map := t.map, emboss := { s.emboss with nip := t.emboss.nip }, ports := t.ports } ∧
      t.emboss.nip = { s.emboss.nip with
        state := .closed, verdict := .nothing, toleranceRun := 0, orderReason := none, openCause := none
        closeCause := some cause } ∧
      EmbossJudged s t ∧ Answered .nipClosed p [] .ok [] (on .emboss .nip) s t := by
  have moved : s.emboss.nip.state ≠ .closed := by
    rcases source with ⟨state, -⟩ | ⟨state, -⟩ <;> rw [state] <;> decide
  have body : nipClosedBody p (received .nipClosed p [] s) = answerOk .nipClosed p
      (judgeChange s.emboss.nip.state (enterNip .closed (modifyNip (fun n => { n with
        verdict := .nothing, toleranceRun := 0, orderReason := none, openCause := none, closeCause := some cause })
        (received .nipClosed p [] s)))) := by
    rw [← received_nip .nipClosed p [] s]
    unfold nipClosedBody
    rcases source with ⟨state, rfl⟩ | ⟨state, rfl⟩
    · rw [received_nip, state]
      dsimp only
      rw [closeNip, received_nip, state]
    · rw [received_nip, state]
      dsimp only
      rw [closeNip, received_nip, state]
  obtain ⟨t, taken, rest, nip, judged, -, answered⟩ := nipReport_taken (i := .nipClosed p []) rfl h body rfl
  rw [decide_eq_true moved] at answered
  exact ⟨t, taken, rest, nip, judged moved, answered⟩

/-- An opening that is taken (R91). -/
theorem nipOpened_taken {p : Port} {s : State} (h : Admitted .nipOpened p [] s) (placed : s.emboss.nip.state ≠ .parked) :
    ∃ t, exec (.nipOpened p []) s = .next t ∧
      t = { s with map := t.map, emboss := { s.emboss with nip := t.emboss.nip }, ports := t.ports } ∧
      t.emboss.nip = { s.emboss.nip with
        state := .opened, verdict := .nothing, toleranceRun := 0
        openCause := some (if s.emboss.nip.state = .opening then .ordered else .operator) } ∧
      (s.emboss.nip.state ≠ .opened → EmbossJudged s t) ∧ (s.emboss.nip.state = .opened → t.map = s.map) ∧
      Answered .nipOpened p [] .ok [] (onIf (decide (s.emboss.nip.state ≠ .opened)) .emboss .nip) s t := by
  have body : nipOpenedBody p (received .nipOpened p [] s) = answerOk .nipOpened p
      (judgeChange s.emboss.nip.state (enterNip .opened (modifyNip (fun n => { n with
        verdict := .nothing, toleranceRun := 0
        openCause := some (if n.state = .opening then .ordered else .operator) })
        (received .nipOpened p [] s)))) := by
    rw [← received_nip .nipOpened p [] s]
    unfold nipOpenedBody
    rw [received_nip]
    cases state : s.emboss.nip.state with
    | parked => exact absurd state placed
    | opened | ready | closed | opening =>
      dsimp only
      rw [openNip, received_nip, state]
  exact nipReport_taken (i := .nipOpened p []) rfl h body rfl

/-- What an accepted IDX edge leaves (R41, R44, R78). -/
theorem indexEdge_accepted {s : State} (falling : Bool)
    (enabled : (s.channel .idx).enabled = true) (debt : s.web.debt = 0) (polarity : s.geometry.polarity.getLsbD 9 = falling)
    (accepted : (s.channel .idx).state = .seek ∨
      ((s.channel .idx).window ≠ .closed ∧ (∃ x, (s.channel .idx).centre = some x ∧
        x - s.recipe.embossWindow ≤ s.web.w ∧ s.web.w ≤ x + s.recipe.embossWindow) ∧
        (s.channel .idx).lastAccepted ≠ some (s.web.w : Int))) :
    exec (.markEdge .idx falling) s = .next (embossFrame s.web.w (putChannel .idx { s.channel .idx with
      state := .track, lastAccepted := some (s.web.w : Int), run := 0, window := .armed
      centre := some (s.web.w + s.recipe.embossRatio * s.recipe.repeatLength) } s)) := by
  have taken := markEdge_taken (ch := .idx) enabled debt polarity
  have made : takeEdge .idx s = acceptIndex s := by
    refine if_pos ?_
    rcases accepted with seek | ⟨window, ⟨x, centre, lower, upper⟩, last⟩
    · exact .inl seek
    · exact .inr ((accepts_iff centre).2 ⟨window, lower, upper, last⟩)
  rw [taken, made, acceptIndex, trackAt_index]

/-- A report of the nip that is refused, or that finds its own state, changes its port alone. -/
theorem nipReport_still {i : Instr} {r : Req} {p : Port} {s : State} {body : State → State} {status : Status}
    (hexec : exec i s = .next (takeRequest r p [] body s)) (h : Admitted r p [] s)
    (hbody : ∀ P, body { s with ports := P } = respond p r.role.code status [] { s with ports := P }) :
    ∃ t, exec i s = .next t ∧
      t = { s with map := t.map, emboss := { s.emboss with nip := t.emboss.nip }, ports := t.ports } ∧
      t.map = s.map ∧ t.emboss.nip = s.emboss.nip ∧ Answered r p [] status [] quiet s t := by
  obtain ⟨t, taken, same, answered⟩ := request_refused hexec h fun P _ => hbody P
  obtain ⟨P, ports⟩ : ∃ P, t = { s with ports := P } := ⟨_, same⟩
  refine ⟨t, taken, ?_, ?_, ?_, answered⟩
  all_goals rw [ports]

/-- Settles O19: the two reports by the nip state, and the emboss frame of an accepted IDX edge. -/
theorem nipReports : Obligations.NipReports := by
  refine ⟨fun p s h => ?_, fun p s h => ?_, fun falling s enabled debt polarity accepted => ?_⟩
  · have closing (x : NipState) (moves : x = .ready ∨ x = .opened) (state : s.emboss.nip.state = x) :
        ∃ t, exec (.nipClosed p []) s = .next t ∧
          t = { s with map := t.map, emboss := { s.emboss with nip := t.emboss.nip }, ports := t.ports } ∧
          ∀ cause, (s.emboss.nip.state = .ready ∧ cause = .permitted) ∨
              (s.emboss.nip.state = .opened ∧ cause = .unpermitted) →
            t.emboss.nip = { s.emboss.nip with
              state := .closed, verdict := .nothing, toleranceRun := 0, orderReason := none, openCause := none
              closeCause := some cause } ∧
            EmbossJudged s t ∧ Answered .nipClosed p [] .ok [] (on .emboss .nip) s t := by
      rcases moves with rfl | rfl
      · obtain ⟨t, taken, rest, closed⟩ := nipClosed_taken h (.inl ⟨state, rfl⟩)
        refine ⟨t, taken, rest, fun cause source => ?_⟩
        obtain ⟨-, rfl⟩ | ⟨other, -⟩ := source
        · exact closed
        · exact nomatch state.symm.trans other
      · obtain ⟨t, taken, rest, closed⟩ := nipClosed_taken h (.inr ⟨state, rfl⟩)
        refine ⟨t, taken, rest, fun cause source => ?_⟩
        obtain ⟨other, -⟩ | ⟨-, rfl⟩ := source
        · exact nomatch state.symm.trans other
        · exact closed
    have refused (status : Status) (body : ∀ P, nipClosedBody p { s with ports := P } =
        respond p Req.nipClosed.role.code status [] { s with ports := P }) :=
      nipReport_still (i := .nipClosed p []) rfl h body
    have branch (P : Ports) : nipClosedBody p { s with ports := P } = match s.emboss.nip.state with
        | .ready => answerOk .nipClosed p (closeNip .permitted { s with ports := P })
        | .opened => answerOk .nipClosed p (closeNip .unpermitted { s with ports := P })
        | .closed => answerOk .nipClosed p { s with ports := P }
        | .opening | .parked => answer .nipClosed p .state { s with ports := P } := rfl
    cases state : s.emboss.nip.state with
    | ready | opened =>
      obtain ⟨t, taken, rest, closed⟩ := closing _ (by simp) state
      rw [state] at closed
      exact ⟨t, taken, rest, closed, (fun h => nomatch h), fun h => absurd h (by simp)⟩
    | closed =>
      rw [state] at branch
      obtain ⟨t, taken, rest, still⟩ := refused .ok branch
      exact ⟨t, taken, rest, fun _ source => absurd source (by simp), fun _ => still, fun h => absurd h (by simp)⟩
    | opening | parked =>
      rw [state] at branch
      obtain ⟨t, taken, rest, still⟩ := refused .state branch
      exact ⟨t, taken, rest, fun _ source => absurd source (by simp), (fun h => nomatch h), fun _ => still⟩
  · by_cases parked : s.emboss.nip.state = .parked
    · obtain ⟨t, taken, rest, map, still⟩ := nipReport_still (i := .nipOpened p []) (status := .state) rfl h fun P => by
        unfold nipOpenedBody
        rw [show ({ s with ports := P } : State).emboss.nip.state = _ from parked]
        rfl
      exact ⟨t, taken, rest, fun placed => absurd parked placed, fun _ => map, fun _ placed => absurd parked placed,
        fun _ => ⟨map, still⟩⟩
    · obtain ⟨t, taken, rest, nip, judged, kept, answered⟩ := nipOpened_taken h parked
      exact ⟨t, taken, rest, fun _ => ⟨nip, answered⟩, kept, fun moved _ => judged moved, fun h => absurd h parked⟩
  · have made := indexEdge_accepted falling enabled debt polarity accepted
    generalize hu : putChannel .idx { s.channel .idx with
      state := .track, lastAccepted := some (s.web.w : Int), run := 0, window := .armed
      centre := some (s.web.w + s.recipe.embossRatio * s.recipe.repeatLength) } s = u at made
    have blocks : u = { s with capture := { s.capture with idx := { s.channel .idx with
      state := .track, lastAccepted := some (s.web.w : Int), run := 0, window := .armed
      centre := some (s.web.w + s.recipe.embossRatio * s.recipe.repeatLength) } } } := by
      rw [← hu]
      rfl
    by_cases off : s.emboss.channel.state = .off
    · have still : embossFrame s.web.w u = u := if_pos (by rw [blocks]; exact off)
      rw [still] at made
      refine ⟨u, made, ?_, ?_, fun _ => ?_, fun on => absurd off on, fun on => absurd off on⟩
      all_goals rw [blocks]
      · rfl
      · exact ⟨rfl, rfl, rfl⟩
    · have framed := embossFrame_framed (s := u) s.web.w (by rw [blocks]; exact off)
      generalize embossFrame s.web.w u = t at made framed
      obtain ⟨E, M, P, rest⟩ : ∃ E M P, t = { u with emboss := E, map := M, ports := P } := ⟨_, _, _, framed.rest⟩
      have idx : t.channel .idx = _ := congrArg (fun x : State => x.channel .idx) (rest.trans (by rw [blocks]))
      have whole : t = { s with
          capture := { s.capture with idx := t.capture.idx }, emboss := t.emboss, map := t.map, ports := t.ports } := by
        rw [rest, blocks]
      rw [blocks] at framed
      refine ⟨t, made, whole, idx, fun h => absurd h off, fun _ => ⟨framed.index, framed.capture, framed.channel,
        framed.nip, fun h e held unused behind near he => ?_, fun away => ?_⟩, fun _ =>
        ⟨framed.judged.judges, framed.judged.rests⟩⟩
      · have sample := framed.sample h e held (by
          show pairedWith s.recipe s.web.w s.emboss.held = _
          rw [held]
          exact pairedWith_some unused behind near) he
        exact ⟨sample.record, sample.channel, sample.nip⟩
      · have miss := framed.miss (pairedWith_none away)
        exact ⟨miss.record, miss.channel, miss.nip⟩

end Sys2Proof.Judging

/-! ## Cut due and the strobe (R114, R119, R121) -/

namespace Sys2Proof.Striking

open Sys2Proof.Machine Sys2Proof.Safety Sys2Proof.Starting Sys2Proof.Consuming Sys2Proof.Batching Sys2Proof.Porting
  Sys2Proof.Answering Sys2Proof.Cutting Sys2Proof.Breaking

/-! ### What cut due and the strobe leave alone -/

/-- Beyond the roll former, the map, the shade and label blocks, the store queue and the hold causes nothing changes, and
the ports change by notices alone. -/
structure CutSide (s t : State) : Prop where
  rest : t = { s with
    line := { s.line with holds := t.line.holds }, roll := t.roll, map := t.map, shade := t.shade, label := t.label
    store := t.store, ports := t.ports }
  notices : OnlyNotices s t

theorem CutSide.refl (s : State) : CutSide s s := ⟨rfl, .refl s⟩

theorem CutSide.trans {s t u : State} (h : CutSide s t) (g : CutSide t u) : CutSide s u := by
  refine ⟨?_, h.notices.trans g.notices⟩
  obtain ⟨a, b, c, d, e, f, P, first⟩ : ∃ a b c d e f P, t = { s with
      line := { s.line with holds := a }, roll := b, map := c, shade := d, label := e, store := f, ports := P } :=
    ⟨_, _, _, _, _, _, _, h.rest⟩
  obtain ⟨a', b', c', d', e', f', P', second⟩ : ∃ a b c d e f P, u = { t with
      line := { t.line with holds := a }, roll := b, map := c, shade := d, label := e, store := f, ports := P } :=
    ⟨_, _, _, _, _, _, _, g.rest⟩
  subst first
  subst second
  rfl

/-- A change of the roll former alone. -/
theorem CutSide.of_roll {s t : State} (h : t = { s with roll := t.roll }) : CutSide s t := by
  obtain ⟨a, h⟩ : ∃ a, t = { s with roll := a } := ⟨_, h⟩
  subst h
  exact ⟨rfl, ⟨quiet, noticed_refl s _ rfl⟩⟩

theorem raiseCut_side (s : State) : CutSide s (raiseCut s) := ⟨rfl, ⟨_, raiseCut_noticed s⟩⟩

theorem installPlan_side (p : Plan) (s : State) : CutSide s (installPlan p s) := by
  refine ⟨?_, installPlan_onlyNotices p s⟩
  obtain ⟨a, b, P, h⟩ : ∃ a b P, installPlan p s = { s with line := { s.line with holds := a }, roll := b, ports := P } :=
    ⟨_, _, _, installPlan_eq p s⟩
  rw [h]

theorem endAwaiting_side (s : State) : CutSide s (endAwaiting s) := by
  refine ⟨?_, Closing.endAwaiting_onlyNotices s⟩
  obtain ⟨a, b, c, d, e, P, h⟩ : ∃ a b c d e P, endAwaiting s = { s with
      line := { s.line with holds := a }, roll := b, shade := c, label := d, store := e, ports := P } :=
    ⟨_, _, _, _, _, _, (endAwaiting_ended s).rest⟩
  rw [h]

theorem consumeSegment_side (p : Plan) (c : Pos) (s : State) : CutSide s (consumeSegment p c s) := by
  obtain ⟨a, b, d, h⟩ : ∃ a b d, consumeSegment p c s = { s with roll := a, map := b, shade := d } :=
    ⟨_, _, _, consumeSegment_rest p c s⟩
  rw [h]
  exact ⟨rfl, ⟨quiet, noticed_refl s _ rfl⟩⟩

theorem modifyTracked_side (p : Plan) (f : RollRecord → RollRecord) (s : State) : CutSide s (modifyTracked p f s) := by
  obtain ⟨R, h⟩ := modifyTracked_rest p f s
  rw [h]
  exact .of_roll rfl

/-! ### Cut due (R119) -/

theorem closeRecord_eq (p : Plan) (c : Pos) (s : State) : closeRecord p c s = modifyTracked p (fun r => { r with
    state := .closing
    stop := some c
    endCause := if r.endCause = some .cutFail then r.endCause else some p.cause }) s := rfl

theorem fixCut_side (p : Plan) (c : Pos) (s : State) : CutSide s (fixCut p c s) := by
  unfold fixCut
  dsimp only
  have first : CutSide s (putPlan (some { p with stop := some (reanchored s p c), phase := .closing }) s) := .of_roll rfl
  refine .trans (.trans (first.trans ?_) (.of_roll rfl)) (raiseCut_side _)
  rw [closeRecord_eq]
  exact modifyTracked_side ..

/-! ### The strobe (R121) -/

/-- The part with the strobe made and the segment's share taken, before the next segment is planned (R121). -/
def struck (p : Plan) (x : CutRecord) (s : State) : State :=
  consumeSegment p x.cut
    (modifyTracked p (fun r => { r with state := .cutWait })
      (modifyCuts .issued
        (fun x => { x with state := .awaiting, confirm := some (x.strobe + s.recipe.confirmDistance) })
        (assertStrobe x.strobe (endAwaiting s))))

theorem strobeFor_eq (p : Plan) (x : CutRecord) (s : State) : strobeFor p x s = raiseCut (modifyCuts .awaiting
    (fun y => { y with kindNext := some (nextPlan (struck p x s) x.cut p.following).kind })
    (installPlan (nextPlan (struck p x s) x.cut p.following) (struck p x s))) := by
  unfold strobeFor
  dsimp only
  have recipe : (assertStrobe x.strobe (endAwaiting s)).recipe = s.recipe := by
    show (endAwaiting s).recipe = _
    rw [(endAwaiting_side s).rest]
  rw [recipe]
  rfl

theorem struck_side (p : Plan) (x : CutRecord) (s : State) : CutSide s (struck p x s) :=
  ((((endAwaiting_side s).trans (.of_roll rfl)).trans (.of_roll rfl)).trans (modifyTracked_side ..)).trans
    (consumeSegment_side ..)

theorem strobeFor_side (p : Plan) (x : CutRecord) (s : State) : CutSide s (strobeFor p x s) := by
  rw [strobeFor_eq]
  exact (((struck_side p x s).trans (installPlan_side ..)).trans (.of_roll rfl)).trans (raiseCut_side _)

theorem strobeNow_side (s : State) : CutSide s (strobeNow s) := by
  unfold strobeNow
  split
  · exact strobeFor_side ..
  · exact .refl s

theorem settlePlan_side (fuel : Nat) (s : State) : CutSide s (settlePlan fuel s) := by
  induction fuel generalizing s with
  | zero => exact .refl s
  | succ fuel ih =>
    unfold settlePlan
    split
    · rename_i p c _
      dsimp only
      split
      · exact ((fixCut_side p c s).trans (strobeNow_side _)).trans (ih _)
      · exact fixCut_side p c s
    · exact .refl s

theorem placeEnd_side (p : Plan) (c : Pos) (s : State) : CutSide s (placeEnd p c s) := .of_roll (placeEnd_placed p c s).2

end Sys2Proof.Striking

/-! ## A frame close (R47, R54 to R63, R67, R72, R73) -/

namespace Sys2Proof.Framing

open Sys2Proof.Machine Sys2Proof.Safety Sys2Proof.Starting Sys2Proof.Batching Sys2Proof.Porting Sys2Proof.Answering
  Sys2Proof.Marking Sys2Proof.Returning Sys2Proof.Judging Sys2Proof.Striking

/-! ### The unit channels at a frame close (R47) -/

/-- What a frame close makes of a unit channel (R47). -/
def closedUnit (f : Frame) (k : Fin 7) (c : ChannelRecord) : ChannelRecord :=
  if !c.enabled then c else (if (f.results.get k).isNone then c.miss else c).shut

theorem closeUnit_eq (f : Frame) (k : Fin 7) (s : State) :
    closeUnit f k s = putChannel (.unit k) (closedUnit f k (s.channel (.unit k))) s := by
  unfold closeUnit closedUnit
  dsimp only
  split
  · have same : s.capture.units.set k (s.channel (.unit k)) = s.capture.units := Whole.set_get_self _ k
    show s = { s with capture := { s.capture with units := s.capture.units.set k (s.channel (.unit k)) } }
    rw [same]
  · rfl

/-- What the end of a frame makes of the capture unit (R47). -/
structure FrameFinished (f : Frame) (s t : State) : Prop where
  rest : ∃ U, t = { s with capture := { s.capture with units := U, frame := none } }
  unit : ∀ k, t.channel (.unit k) = closedUnit f k (s.channel (.unit k))

theorem finishFrame_finished (f : Frame) (s : State) : FrameFinished f s (finishFrame f s) := by
  have each (k : Fin 7) := foldl_rows (fun (s : State) k => s.channel (.unit k)) (fun s k => closeUnit f k s)
    (closedUnit f) (fun s k => by rw [closeUnit_eq, channel_putChannel_same])
    (fun s k j hj => by
      rw [closeUnit_eq]
      exact channel_putChannel_other (fun e => hj (Channel.unit.inj e)) _ s)
    (allRows 7) allRows_seven_nodup s k
  have rest : ∃ U, (allRows 7).foldl (fun s k => closeUnit f k s) s = { s with capture := { s.capture with units := U } } := by
    refine List.foldlRecOn (motive := fun t : State => ∃ U, t = { s with capture := { s.capture with units := U } })
      (allRows 7) _ ⟨_, rfl⟩ ?_
    rintro t ⟨U, rfl⟩ k _
    rw [closeUnit_eq]
    exact ⟨_, rfl⟩
  unfold finishFrame
  dsimp only
  generalize (allRows 7).foldl (fun s k => closeUnit f k s) s = t at rest each
  obtain ⟨U, rfl⟩ := rest
  refine ⟨⟨U, rfl⟩, fun k => ?_⟩
  have unit := each k
  rw [if_pos (mem_allRows_seven k)] at unit
  exact unit

theorem closedUnit_enabled {f : Frame} {k : Fin 7} {c : ChannelRecord} (enabled : c.enabled = true) :
    (closedUnit f k c).window = .closed ∧
      (closedUnit f k c).misses = if f.results.get k = none then min 65535 (c.misses + 1) else c.misses := by
  unfold closedUnit
  rw [if_neg (by rw [enabled]; exact Bool.false_ne_true)]
  refine ⟨rfl, ?_⟩
  cases f.results.get k with
  | none =>
    show c.miss.misses = _
    rw [miss_eq, if_pos rfl]
  | some p => exact (if_neg (fun h => nomatch h)).symm

theorem closedUnit_disabled {f : Frame} {k : Fin 7} {c : ChannelRecord} (disabled : c.enabled = false) :
    closedUnit f k c = c := if_pos (by rw [disabled]; rfl)

/-! ### The judgment of a frame (R72, R73) -/

theorem unitInRegister_iff (s : State) (f : Frame) (k : Fin 7) :
    unitInRegister s f k = true ↔ InRegister s.recipe f k (s.unit k) := by
  unfold unitInRegister InRegister frameError
  rw [Bool.and_eq_true, Bool.or_eq_true, beq_iff_eq, beq_iff_eq]
  refine and_congr_right fun _ => ?_
  cases f.results.get k with
  | none => exact ⟨(fun h => nomatch h), fun ⟨_, h, _⟩ => nomatch h⟩
  | some c => exact ⟨fun h => ⟨c, rfl, of_decide_eq_true h⟩, fun ⟨_, h, inside⟩ => by cases h; exact decide_eq_true inside⟩

theorem allRows_seven_sorted : (allRows 7).Pairwise (· < ·) := by decide

/-- The first unit that passes a test is the lowest (R72). -/
theorem find_lowest {test : Fin 7 → Bool} :
    (∀ k, (allRows 7).find? test = some k → test k = true ∧ ∀ j, j < k → test j = false) ∧
      ((allRows 7).find? test = none → ∀ k, test k = false) := by
  refine ⟨fun k found => ?_, fun missing k => ?_⟩
  · obtain ⟨passes, before, after, place, fails⟩ := List.find?_eq_some_iff_append.1 found
    refine ⟨passes, fun j low => ?_⟩
    have sorted := allRows_seven_sorted
    have row := mem_allRows_seven j
    rw [place] at sorted row
    rcases List.mem_append.1 row with early | late
    · exact by simpa using fails j early
    · rcases List.mem_cons.1 late with same | later
      · exact absurd (same ▸ low) (lt_irrefl k)
      · have above := (List.pairwise_cons.1 (List.pairwise_append.1 sorted).2.1).1 j later
        exact absurd low (lt_asymm above)
  · exact eq_false_of_ne_true (List.find?_eq_none.1 missing k (mem_allRows_seven k))

/-- The offender is the lowest unit in use for which a frame is not in register (R72). -/
theorem lowestOffender_lowest (s : State) (f : Frame) :
    (lowestOffender s f = none → ∀ k : Fin 7, (k.val : Int) + 1 < s.recipe.unitCount → InRegister s.recipe f k (s.unit k)) ∧
      ∀ k : Fin 7, lowestOffender s f = some k →
        (k.val : Int) + 1 < s.recipe.unitCount ∧ ¬ InRegister s.recipe f k (s.unit k) ∧
          ∀ j : Fin 7, j < k → InRegister s.recipe f j (s.unit j) := by
  obtain ⟨lowest, missing⟩ := find_lowest (test := fun k => s.recipe.usesUnit k && !unitInRegister s f k)
  have inUse {k : Fin 7} (used : s.recipe.usesUnit k = true)
      (passes : (s.recipe.usesUnit k && !unitInRegister s f k) = false) : InRegister s.recipe f k (s.unit k) := by
    rw [used, Bool.true_and, Bool.not_eq_false'] at passes
    exact (unitInRegister_iff s f k).1 passes
  refine ⟨fun none k used => inUse ((usesUnit_iff ..).2 used) (missing none k), fun k offends => ?_⟩
  obtain ⟨passes, before⟩ := lowest k offends
  obtain ⟨used, off⟩ := Bool.and_eq_true_iff.1 passes
  refine ⟨(usesUnit_iff ..).1 used, fun inside => ?_, fun j low => inUse ?_ (before j low)⟩
  · rw [(unitInRegister_iff s f k).2 inside] at off
    exact Bool.false_ne_true off
  · have bound := (usesUnit_iff ..).1 used
    have below : j.val < k.val := low
    exact (usesUnit_iff ..).2 (by omega)

/-! ### The register controller takes a frame (R54 to R63, R67) -/

/-- What the register controller makes of a frame (R54 to R63, R67, R72, R73). -/
structure FrameRegistered (f : Frame) (s t : State) : Prop where
  rest : t = { s with register := t.register, map := t.map, ports := t.ports }
  index : t.register.frameIndex = min 4294967295 (s.register.frameIndex + 1)
  lastC0 : t.register.lastC0 = some f.c0
  taken : ∀ k, FrameTaken (unitSettings s) t.register.frameIndex f.c0
    ((f.results.get k).map (fun c => c - f.c0 - s.recipe.unitOffset k)) (s.unit k) (t.unit k)
  trim : (∃ k, (t.unit k).sequence ≠ (s.unit k).sequence) → Pending .press .trim t
  told : (∃ k, (t.unit k).state ≠ (s.unit k).state) → Pending .press .register t
  verdict : t.register.verdict = some t.register.offender.isNone
  inRegister : t.register.offender = none → ∀ k : Fin 7, (k.val : Int) + 1 < s.recipe.unitCount →
    InRegister s.recipe f k (t.unit k)
  offender : ∀ k : Fin 7, t.register.offender = some k →
    (k.val : Int) + 1 < s.recipe.unitCount ∧ ¬ InRegister s.recipe f k (t.unit k) ∧
      ∀ j, j < k → InRegister s.recipe f j (t.unit j)
  span : SpanJudged .register f.c0 (t.register.offender.map Detail.unit) s.map t.map
  clean : t.register.offender = none → t.map = closeSpan .register f.c0 (releaseKind .register f.c0 s.map)

theorem has_onIf (p : Port) (n : Notice) : Has (onIf true p n) p n := by
  simp [Has, onIf, on]

theorem registerFrame_registered (f : Frame) (s : State) : FrameRegistered f s (registerFrame f s) := by
  let n := bump max32 s.register.frameIndex
  let s1 : State := { s with register := { s.register with frameIndex := n, lastC0 := some f.c0 } }
  let step (u : Fin 7) (c : RegisterChannel) : ChannelStep :=
    channelFrame (unitSettings s1) n f.c0 (frameError s1.recipe f u) c
  have made : registerFrame f s = judgeFrame f (eachUnit step s1) := rfl
  have rest := eachUnit_eq step s1
  have unit := eachUnit_unit step s1
  have noticed := eachUnit_noticed step s1
  have told (k : Fin 7) := channelFrame_told (k := unitSettings s1) n f.c0 (frameError s1.recipe f k) (s1.unit k)
  have taken (k : Fin 7) := channelFrame_taken (unitSettings s1) n f.c0 (frameError s1.recipe f k) (s1.unit k)
  rw [made]
  generalize eachUnit step s1 = u at rest unit noticed
  obtain ⟨allIn, lowest⟩ := lowestOffender_lowest u f
  have judged := spanJudged .register f.c0 ((lowestOffender u f).map Detail.unit) u.map (.inl rfl)
  have blocks : u.recipe = s.recipe ∧ u.map = s.map ∧ u.register.frameIndex = n := by
    rw [rest]
    exact ⟨rfl, rfl, rfl⟩
  obtain ⟨recipe, map, index⟩ := blocks
  rw [recipe] at allIn lowest
  rw [map] at judged
  refine ⟨?_, ?_, rfl, fun k => ?_, fun ⟨k, moved⟩ => ?_, fun ⟨k, moved⟩ => ?_, rfl, allIn, lowest, ?_, fun clean => ?_⟩
  · obtain ⟨U, P, shape⟩ : ∃ U P, u = { s with
        register := { s.register with frameIndex := n, lastC0 := some f.c0, units := U }, ports := P } := ⟨_, _, rest⟩
    rw [shape]
    rfl
  · exact index.trans (bump_max32 _)
  · show FrameTaken _ u.register.frameIndex _ _ _ (u.unit k)
    rw [index, unit k]
    exact taken k
  · have posted : decide (∃ k, (step k (s1.unit k)).2.posted = true) = true :=
      decide_eq_true ⟨k, (told k).posted (by rw [← unit k]; exact moved)⟩
    rw [posted] at noticed
    exact Opening.pending_of_has noticed (has_both_left (has_onIf ..) _)
  · have changed : decide (∃ k, ((step k (s1.unit k)).2.changed || (step k (s1.unit k)).2.timedOut) = true) = true :=
      decide_eq_true ⟨k, Bool.or_eq_true_iff.2 (.inl ((told k).changed (by rw [← unit k]; exact moved)))⟩
    rw [changed, both_comm] at noticed
    exact Opening.pending_of_has noticed (has_both_left (has_onIf ..) _)
  · show SpanJudged .register f.c0 ((lowestOffender u f).map Detail.unit) s.map (judgeFrame f u).map
    unfold judgeFrame
    dsimp only
    rw [map]
    cases bad : lowestOffender u f with
    | none =>
      rw [bad] at judged
      exact judged
    | some k =>
      rw [bad] at judged
      exact judged
  · have bad : lowestOffender u f = none := clean
    unfold judgeFrame
    dsimp only
    rw [map, bad]

/-- Settles O13: the units close, the register controller judges, and the roll former hears of clean web. -/
theorem frameCloses : Obligations.FrameCloses := by
  intro s f frame
  refine ⟨fun early => ?_, fun reached => ?_⟩
  · have idle : frameDue s = none := by
      unfold frameDue
      rw [frame]
      exact if_neg (not_le.2 early)
    show Host.Outcome.next (closeFrame s) = _
    rw [closeFrame, idle]
  · have due : frameDue s = some f := by
      unfold frameDue
      rw [frame]
      exact if_pos reached
    have made : exec .frameClose s = .next (endWasteAt f.c0 (registerFrame f (finishFrame f s))) := by
      show Host.Outcome.next (closeFrame s) = _
      rw [closeFrame, due]
    obtain ⟨⟨U, rest⟩, unit⟩ := finishFrame_finished f s
    generalize finishFrame f s = u at made rest unit
    have judged := registerFrame_registered f u
    generalize registerFrame f u = v at made judged
    have side : CutSide v (endWasteAt f.c0 v) := by
      unfold endWasteAt
      split
      · split
        · exact (placeEnd_side ..).trans (settlePlan_side ..)
        · exact .refl v
      · exact .refl v
    have stays (plan : ∀ p, s.roll.plan = some p → p.stop ≠ none) : endWasteAt f.c0 v = v := by
      have roll : v.roll = s.roll := by rw [judged.rest, rest]
      unfold endWasteAt
      rw [roll]
      cases hp : s.roll.plan with
      | none => rfl
      | some p =>
        have placed := plan p hp
        exact if_neg fun h => placed (Option.isNone_iff_eq_none.1 (Bool.and_eq_true_iff.1 h).1)
    generalize endWasteAt f.c0 v = t at made side stays
    have blocks : t.capture = { s.capture with units := U, frame := none } ∧ t.web = s.web ∧ t.clock = s.clock ∧
        t.emboss = s.emboss ∧ t.register = v.register := by
      rw [side.rest, judged.rest, rest]
      exact ⟨rfl, rfl, rfl, rfl, rfl⟩
    obtain ⟨capture, web, clock, emboss, register⟩ := blocks
    have units (k : Fin 7) : t.channel (.unit k) = closedUnit f k (s.channel (.unit k)) := by
      rw [← unit k, rest, State.channel, capture]
      rfl
    have channel (k : Fin 7) : t.unit k = v.unit k := congrArg (fun r : RegisterControl => r.units.get k) register
    subst rest
    refine ⟨t, made, by rw [capture], web, clock, emboss, fun k enabled => ?_, fun k disabled => ?_, fun ch other => ?_,
      ?_, ?_, fun k => ?_, fun ⟨k, moved⟩ => ?_, fun ⟨k, moved⟩ => ?_, ?_, fun clean k used => ?_, fun k offends => ?_,
      fun plan => ?_⟩
    · rw [units]
      exact closedUnit_enabled enabled
    · rw [units]
      exact closedUnit_disabled disabled
    · rw [State.channel, capture]
      cases ch with
      | unit k => exact absurd rfl (other k)
      | mk0 | mke | idx | mkw => rfl
    · rw [register]
      exact judged.index
    · rw [register]
      exact judged.lastC0
    · rw [register, channel]
      exact judged.taken k
    · rw [channel] at moved
      exact pending_of_onlyNotices side.notices (judged.trim ⟨k, moved⟩)
    · rw [channel] at moved
      exact pending_of_onlyNotices side.notices (judged.told ⟨k, moved⟩)
    · rw [register]
      exact judged.verdict
    · rw [register] at clean
      rw [channel]
      exact judged.inRegister clean k used
    · rw [register] at offends
      obtain ⟨used, off, before⟩ := judged.offender k offends
      rw [channel]
      exact ⟨used, off, fun j low => by rw [channel]; exact before j low⟩
    · have same := stays plan
      rw [same]
      refine ⟨?_, judged.span⟩
      rw [judged.rest]

end Sys2Proof.Framing

/-! ## CUT_DUE and CUT_STROBE (R114, R119, R121) -/

namespace Sys2Proof.Striking

open Sys2Proof.Machine Sys2Proof.Safety Sys2Proof.Starting Sys2Proof.Consuming Sys2Proof.Batching Sys2Proof.Porting
  Sys2Proof.Answering Sys2Proof.Cutting Sys2Proof.Breaking

/-! ### Cut due fixes the cut (R119) -/

theorem reanchored_eq {s : State} {p : Plan} {c c' : Pos} (h : Reanchored s p c c') : reanchored s p c = c' := by
  obtain ⟨anchors, stands⟩ := h
  unfold reanchored matchOrigin
  cases key : s.clock.k0 with
  | none =>
    dsimp only
    rw [if_neg (fun h => Bool.false_ne_true h.2.1), stands (.inr key)]
  | some k0 =>
    cases matched : p.matched with
    | false =>
      dsimp only
      rw [if_neg (fun h => Bool.false_ne_true h.1), stands (.inl matched)]
    | true =>
      have fixed := anchors k0 matched key
      rw [sub_sub] at fixed
      dsimp only
      by_cases beyond : p.start < c - reduceMod s.recipe.repeatLength (c - (k0 + s.recipe.cutOffset))
      · rw [if_pos beyond] at fixed
        rw [fixed]
        exact if_pos ⟨rfl, rfl, beyond⟩
      · rw [if_neg beyond] at fixed
        rw [fixed]
        exact if_neg fun h => beyond h.2.2

theorem strobePosition_ahead {s : State} {e y : Pos} (h : StrobeAhead s e y) : strobePosition s e = y := by
  obtain ⟨place, ahead, -⟩ := h
  unfold strobePosition transportMean
  rw [← place]
  exact max_eq_right (le_of_lt ahead)

theorem strobePosition_reached {s : State} {e : Pos} (h : StrobeReached s e) : strobePosition s e = s.web.w :=
  max_eq_left h.1

/-- What cut due makes of the record whose segment ends at `c` (R119 step 2). -/
def closing (p : Plan) (c : Pos) (r : RollRecord) : RollRecord :=
  { r with
    state := .closing
    stop := some c
    endCause := if r.endCause = some .cutFail then r.endCause else some p.cause }

/-- What cut due leaves (R119). -/
structure CutMade (p : Plan) (c : Pos) (x : CutRecord) (s t : State) : Prop where
  fixed : CutFixed p c (strobePosition s c) x s t
  rest : t = { s with roll := t.roll, ports := t.ports }
  noticed : Noticed (on .winder .cut) s t
  own : ∀ i, p.record = some i → ∃ n, t.record i = { closing p c (s.record i) with revision := n }

/-- The part with the plan and its record closed at `c` (R119 step 2). -/
def closed (p : Plan) (c : Pos) (s : State) : State :=
  modifyTracked p (closing p c) (putPlan (some { p with stop := some c, phase := .closing }) s)

theorem fixCut_eq (p : Plan) (c : Pos) (s : State) :
    fixCut p c s = raiseCut (pushCut (issuedCut p (reanchored s p c) (closed p (reanchored s p c) s))
      (closed p (reanchored s p c) s)) := rfl

theorem closed_rest (p : Plan) (c : Pos) (s : State) : ∃ R, closed p c s = { s with roll := { s.roll with
    plan := some { p with stop := some c, phase := .closing }, records := R } } := by
  obtain ⟨R, rest⟩ := modifyTracked_rest p (closing p c) (putPlan (some { p with stop := some c, phase := .closing }) s)
  exact ⟨R, rest⟩

theorem closed_untracked {p : Plan} (h : p.record = none) (c : Pos) (s : State) :
    (closed p c s).roll.records = s.roll.records := by
  rw [closed, modifyTracked, h]
  rfl

theorem closed_other {p : Plan} {j : Fin 24} (h : p.record ≠ some j) (c : Pos) (s : State) :
    (closed p c s).record j = s.record j := modifyTracked_other h _ _

theorem closed_own {p : Plan} {i : Fin 24} (h : p.record = some i) (c : Pos) (s : State) :
    ∃ n, (closed p c s).record i = { closing p c (s.record i) with revision := n } := modifyTracked_same h _ _

theorem issuedCut_cause {p : Plan} {i : Fin 24} (h : p.record = some i) (c : Pos) (s : State) :
    (issuedCut p c (closed p c s)).kindEnding = (s.record i).kind ∧
      (issuedCut p c (closed p c s)).cause = if (s.record i).endCause = some .cutFail then .cutFail else p.cause := by
  obtain ⟨n, own⟩ := closed_own h c s
  have kind : windingKind p (closed p c s) = ((closed p c s).record i).kind := by rw [windingKind, h]
  have cause : causeOf p (closed p c s) = ((closed p c s).record i).endCause.getD p.cause := by rw [causeOf, h]
  refine ⟨?_, ?_⟩
  · show windingKind p (closed p c s) = _
    rw [kind, own]
    rfl
  · show causeOf p (closed p c s) = _
    rw [cause, own]
    show (if (s.record i).endCause = some .cutFail then (s.record i).endCause else some p.cause).getD p.cause = _
    by_cases failed : (s.record i).endCause = some .cutFail
    · rw [if_pos failed, if_pos failed, failed]
      rfl
    · rw [if_neg failed, if_neg failed]
      rfl

theorem fixCut_made (p : Plan) (c : Pos) (s : State) :
    ∃ x, CutMade p (reanchored s p c) x s (fixCut p c s) := by
  rw [fixCut_eq]
  generalize reanchored s p c = c1
  obtain ⟨R, rest⟩ := closed_rest p c1 s
  have untracked := fun h : p.record = none => closed_untracked h c1 s
  have other := fun j (hj : p.record ≠ some j) => closed_other hj c1 s
  have own := fun i (hi : p.record = some i) => closed_own hi c1 s
  have cause := fun i (hi : p.record = some i) => issuedCut_cause hi c1 s
  have next : (issuedCut p c1 (closed p c1 s)).kindNext = some (if p.following = none then .sale else .waste) := by
    unfold issuedCut
    cases p.following <;> rfl
  have alone : p.record = none → (issuedCut p c1 (closed p c1 s)).kindEnding = p.kind ∧
      (issuedCut p c1 (closed p c1 s)).cause = p.cause := fun h => by
    unfold issuedCut windingKind causeOf
    rw [h]
    exact ⟨rfl, rfl⟩
  have count : (issuedCut p c1 (closed p c1 s)).number = min 4294967295 (s.roll.cutCount + 1) := by
    rw [rest, ← bump_max32]
    rfl
  have place : (issuedCut p c1 (closed p c1 s)).strobe = strobePosition s c1 := by
    rw [rest]
    rfl
  have parts : (issuedCut p c1 (closed p c1 s)).state = .issued ∧ (issuedCut p c1 (closed p c1 s)).ending = p.record ∧
      (issuedCut p c1 (closed p c1 s)).cut = c1 ∧ (issuedCut p c1 (closed p c1 s)).confirm = none := ⟨rfl, rfl, rfl, rfl⟩
  generalize issuedCut p c1 (closed p c1 s) = x at *
  have noticed := raiseCut_noticed (pushCut x (closed p c1 s))
  have records (j : Fin 24) : (raiseCut (pushCut x (closed p c1 s))).record j = (closed p c1 s).record j := rfl
  obtain ⟨state, ending, cut, confirm⟩ := parts
  refine ⟨x, ⟨?_, ⟨count, state, ending, next, cut, place, confirm⟩, fun h => ⟨(alone h).1, (alone h).2, untracked h⟩,
    fun i hi => ?_⟩, ?_, fun q => ?_, own⟩
  · show ({ (closed p c1 s).roll with cuts := lastN 2 ((closed p c1 s).roll.cuts ++ [x]), cutCount := x.number } : RollFormer) =
      { s.roll with
        plan := some { p with stop := some c1, phase := .closing }
        cuts := (s.roll.cuts ++ [x]).drop (s.roll.cuts.length + 1 - 2), cutCount := x.number
        records := (closed p c1 s).roll.records }
    rw [rest, lastN, List.length_append]
    rfl
  · obtain ⟨n, own⟩ := own i hi
    obtain ⟨kind, why⟩ := cause i hi
    rw [records, own]
    refine ⟨kind, rfl, rfl, ?_, why, fun j hj => other j fun h => hj (Option.some.inj (hi.symm.trans h)).symm⟩
    show (if (s.record i).endCause = some .cutFail then (s.record i).endCause else some p.cause) = _
    by_cases failed : (s.record i).endCause = some .cutFail
    · rw [if_pos failed, if_pos failed, failed]
    · rw [if_neg failed, if_neg failed]
  · rw [rest]
    rfl
  · rw [noticed q, rest]
    rfl

/-! ### The next segment (R114, R121 step 5) -/

/-- The start of a splice at or beyond `c`. -/
def spliceAhead (c : Pos) (e : MapEntry) : Option Pos :=
  if e.kind = .splice ∧ c ≤ e.start then some e.start else none

theorem splicesFrom_eq (c : Pos) (m : WebMap) : splicesFrom c m = m.entries.filterMap (spliceAhead c) := by
  unfold splicesFrom splices
  induction m.entries with
  | nil => rfl
  | cons e es ih =>
    by_cases kind : e.kind = .splice
    · by_cases ahead : c ≤ e.start
      · simp [kind, ahead, spliceAhead, ← ih]
      · simp [kind, ahead, spliceAhead, ← ih]
    · simp [kind, spliceAhead, ← ih]

theorem spliceAhead_consumed (start c : Pos) (e : MapEntry) :
    (consumeEntry start c e).2.bind (spliceAhead c) = spliceAhead c e := by
  by_cases ahead : c ≤ e.start
  · rw [consumeEntry_ahead start ahead]
    rfl
  · have none : spliceAhead c e = none := if_neg fun h => ahead h.2
    rw [none]
    cases left : (consumeEntry start c e).2 with
    | none => rfl
    | some x =>
      refine if_neg fun h => ?_
      rcases consumeEntry_kept left with ⟨below, -⟩ | same
      · exact ahead below
      · have splice : e.kind = .splice := by
          rw [same] at h
          exact h.1
        rw [consumeEntry_splice start (not_le.1 ahead) splice] at left
        exact nomatch left

/-- Consumption keeps the splices from the cut on (R103). -/
theorem splicesFrom_consumed (start c : Pos) (m : WebMap) : splicesFrom c (consumed start c m) = splicesFrom c m := by
  rw [splicesFrom_eq, splicesFrom_eq, consumed, List.filterMap_filterMap]
  exact congrArg (fun f => m.entries.filterMap f) (funext fun e => spliceAhead_consumed start c e)

theorem guarded_of_fold (s : State) (e : Pos) (zs : List Pos) : Guarded s e zs (zs.foldl (guardWaste s) e) := by
  induction zs generalizing e with
  | nil => rfl
  | cons z zs ih => exact ⟨firstMatch s (z + s.recipe.spliceGuard), (firstMatch_iff ..).2 rfl, ih _⟩

/-- What R114 says determines the plan. -/
theorem salePlanned_unique {s : State} {start : Pos} {zs : List Pos} {q q' : Plan} (h : SalePlanned s start zs q)
    (h' : SalePlanned s start zs q') : q = q' := by
  obtain ⟨parts, whole, dodged, converted⟩ := h
  obtain ⟨parts', whole', dodged', converted'⟩ := h'
  have first (x : Pos) : FirstMatch s x (firstMatch s x) := (firstMatch_iff ..).2 rfl
  have ends : q.kind = q'.kind ∧ q.stop = q'.stop ∧ q.following = q'.following ∧ q.cause = q'.cause := by
    have goal := first (start + s.recipe.targetLength)
    by_cases far : ∀ z ∈ zs.head?, firstMatch s (start + s.recipe.targetLength) + s.recipe.spliceGuard ≤ z
    · obtain ⟨a, b, c, d⟩ := whole _ goal far
      obtain ⟨a', b', c', d'⟩ := whole' _ goal far
      exact ⟨a.trans a'.symm, b.trans b'.symm, c.trans c'.symm, d.trans d'.symm⟩
    · cases zs with
      | nil => exact absurd (fun z h => nomatch h) far
      | cons z later =>
        have near : z < firstMatch s (start + s.recipe.targetLength) + s.recipe.spliceGuard :=
          not_le.1 fun h => far fun y hy => by
            obtain rfl : z = y := Option.some.inj hy
            exact h
        have last : LastMatch s (z - s.recipe.spliceGuard) (lastMatch s (z - s.recipe.spliceGuard)) :=
          (lastMatch_iff ..).2 rfl
        by_cases dodges : Dodges s start z (lastMatch s (z - s.recipe.spliceGuard))
        · obtain ⟨a, b, c, d⟩ := dodged _ z later _ _ _ goal rfl near last dodges (first _) (guarded_of_fold ..)
          obtain ⟨a', b', c', d'⟩ := dodged' _ z later _ _ _ goal rfl near last dodges (first _) (guarded_of_fold ..)
          exact ⟨a.trans a'.symm, b.trans b'.symm, d.trans d'.symm, c.trans c'.symm⟩
        · obtain ⟨a, b, c, d⟩ := converted _ z later _ _ _ goal rfl near last dodges (first _) (guarded_of_fold ..)
          obtain ⟨a', b', c', d'⟩ := converted' _ z later _ _ _ goal rfl near last dodges (first _) (guarded_of_fold ..)
          exact ⟨a.trans a'.symm, b.trans b'.symm, c.trans c'.symm, d.trans d'.symm⟩
  obtain ⟨kind, stop, following, cause⟩ := ends
  obtain ⟨begins, record, phase, matched, unmatched, limited⟩ := parts
  obtain ⟨begins', record', phase', matched', unmatched', limited'⟩ := parts'
  cases q
  cases q'
  simp_all

/-- The splices from a cut on, as the statements of R114 list them. -/
theorem splicesFrom_list (c : Pos) (m : WebMap) : splicesFrom c m =
    (m.entries.filter (fun e => e.kind == .splice && decide (c ≤ e.start))).map MapEntry.start := by
  unfold splicesFrom splices
  rw [List.filter_map, List.filter_filter]
  refine congrArg (List.map MapEntry.start) (List.filter_congr fun e _ => ?_)
  rw [Bool.and_comm]
  rfl

theorem nextPlanned_sale {s : State} {p q : Plan} {c : Pos} (h : NextPlanned p c s q) (following : p.following = none) :
    q = salePlan s c := by
  have planned := h.2 following
  rw [← splicesFrom_list] at planned
  exact salePlanned_unique planned (salePlan_planned s c)

/-- The plan that follows a cut is the one the part before the strobe determines (R114, R121 step 5). -/
theorem nextPlan_planned {s s' : State} {p q : Plan} {start c : Pos} (h : NextPlanned p c s q)
    (rest : s' = { s with
      line := s'.line, roll := s'.roll, map := consumed start c s.map, shade := s'.shade, label := s'.label
      store := s'.store, ports := s'.ports }) :
    nextPlan s' c p.following = q := by
  obtain ⟨held, planned⟩ := h
  unfold nextPlan
  cases following : p.following with
  | some f => exact (held f following).symm
  | none =>
    have splices' : (splices s'.map).filter (fun p => decide (c ≤ p)) = (splices s.map).filter (fun p => decide (c ≤ p)) := by
      rw [rest]
      exact splicesFrom_consumed start c s.map
    have plan : salePlan s' c = salePlan s c := by
      unfold salePlan
      rw [splices', rest]
      rfl
    rw [nextPlanned_sale ⟨held, planned⟩ following]
    exact plan

/-- The next segment's plan does not depend on the roll former, and of the plan on the following waste alone. -/
theorem nextPlanned_of_eq {s s' : State} {p p' q : Plan} {c : Pos} (h : NextPlanned p c s q)
    (rest : s' = { s with roll := s'.roll, ports := s'.ports }) (following : p'.following = p.following) :
    NextPlanned p' c s' q := by
  refine ⟨fun f hf => h.1 f (following ▸ hf), fun none => ?_⟩
  have plan : salePlan s' c = q := by
    rw [nextPlanned_sale h (following ▸ none), rest]
    rfl
  rw [← splicesFrom_list, ← plan]
  exact salePlan_planned s' c

end Sys2Proof.Striking

/-! ## The strobe (R121) -/

namespace Sys2Proof.Striking

open Sys2Proof.Machine Sys2Proof.Safety Sys2Proof.Starting Sys2Proof.Consuming Sys2Proof.Batching Sys2Proof.Porting
  Sys2Proof.Answering Sys2Proof.Cutting Sys2Proof.Breaking

/-- A cut at a strobe, before the next segment is known: the AWAITING one UNCONFIRMED, the ISSUED one AWAITING (R121). -/
def struckCut (confirm : Int) (y : CutRecord) : CutRecord :=
  match y.state with
  | .awaiting => { y with state := .unconfirmed }
  | .issued => { y with state := .awaiting, confirm := some (y.strobe + confirm) }
  | .done | .failed | .unconfirmed | .withdrawn => y

/-- What the strobe leaves before the next segment is planned (R121 steps 1 to 4). -/
structure Struck (p : Plan) (x : CutRecord) (s u : State) : Prop where
  rest : u = { s with
    line := { s.line with holds := u.line.holds }, roll := u.roll, map := consumed p.start x.cut s.map
    shade := { s.shade with
      queue := s.shade.queue.filter (fun y => decide (x.cut ≤ y.position)), thin := false
      wasteSamples := u.shade.wasteSamples, batches := u.shade.batches }
    label := u.label, store := u.store, ports := u.ports }
  roll : u.roll = { s.roll with
    records := u.roll.records
    cuts := s.roll.cuts.map (struckCut s.recipe.confirmDistance)
    lastUnconfirmed := u.roll.lastUnconfirmed, wasteTotal := u.roll.wasteTotal, saleCounter := u.roll.saleCounter
    strobeOff := some (x.strobe + s.recipe.pulseWidth) }
  awaited : AwaitingEnded s u
  waste : s.roll.wasteTotal ≤ 4294967295 → u.roll.wasteTotal = min 4294967295 (s.roll.wasteTotal + awaitedWaste s)
  own : ∀ i, p.record = some i → (u.record i).state = .cutWait ∧
    (AwaitsOther p s → ShareTaken p.start x.cut s.map s.shade (s.record i) (u.record i))
  samples : AwaitsOther p s →
    SamplesWasted p x.cut (s.shade.queue.filter (fun y => decide (y.position < x.cut))) s u
  free : ∀ j, (u.record j).state = .free ↔ FreeAtStrobe p s j

/-- A record is FREE once the AWAITING cut is finished (R121 step 1, R131). -/
theorem free_endAwaiting {s v : State} (ended : EndedAwaiting s v) (j : Fin 24) :
    (v.record j).state = .free ↔
      (∃ y, awaitingCutOf s = some y ∧ y.ending = some j ∧ (s.record j).kind = .waste) ∨
        ((∀ y, awaitingCutOf s = some y → y.ending ≠ some j) ∧ (s.record j).state = .free) := by
  by_cases ends : ∃ y, awaitingCutOf s = some y ∧ y.ending = some j
  · obtain ⟨y, awaits, ending⟩ := ends
    have notOther : ¬ ((∀ y, awaitingCutOf s = some y → y.ending ≠ some j) ∧ (s.record j).state = .free) :=
      fun h => h.1 y awaits ending
    cases kind : (s.record j).kind with
    | waste => exact ⟨fun _ => .inl ⟨y, awaits, ending, rfl⟩, fun _ => ended.freed y j awaits ending kind⟩
    | sale =>
      obtain ⟨-, -, -, state⟩ := ended.graded y j awaits ending kind
      refine ⟨fun free => ?_, fun h => ?_⟩
      · rcases state with state | state
        · exact nomatch free.symm.trans state
        · exact nomatch free.symm.trans state
      · rcases h with ⟨_, _, _, h⟩ | h
        · exact nomatch h
        · exact absurd h notOther
  · have others : ∀ y, awaitingCutOf s = some y → y.ending ≠ some j := fun y awaits ending => ends ⟨y, awaits, ending⟩
    rw [ended.others j others]
    exact ⟨fun free => .inr ⟨others, free⟩, fun h => h.elim (fun ⟨y, awaits, ending, _⟩ => absurd ending (others y awaits))
      And.right⟩

/-- The cuts of the strobe, the AWAITING one being dealt with first (R121 steps 1 and 2). -/
theorem struckCut_eq (confirm : Int) (cuts : List CutRecord) :
    (cuts.map (fun y => if y.state = .awaiting then { y with state := .unconfirmed } else y)).map
      (fun y => if y.state = .issued then { y with state := .awaiting, confirm := some (y.strobe + confirm) } else y) =
      cuts.map (struckCut confirm) := by
  rw [List.map_map]
  refine List.map_congr_left fun y _ => ?_
  obtain ⟨number, state⟩ := y
  cases state <;> rfl

/-- A share is that of the record before, as far as the share goes. -/
theorem shareTaken_before {start c : Pos} {m : WebMap} {shade shade' : ShadeClassifier} {r r0 r' : RollRecord} {n : Nat}
    {state : RecordState} (h : ShareTaken start c m shade r0 r') (same : r0 = { r with state := state, revision := n })
    (queue : shade.queue = shade'.queue) (thin : shade.thin = shade'.thin) : ShareTaken start c m shade' r r' := by
  subst same
  obtain ⟨charged, samples, marked⟩ := h
  rw [queue] at samples
  rw [thin] at marked
  exact ⟨⟨charged.register, charged.emboss, charged.defect, charged.splice, charged.items, charged.overflow⟩, samples,
    marked⟩

theorem samplesWasted_before {p : Plan} {c : Pos} {removed : List Sample} {s z u : State} (h : SamplesWasted p c removed z u)
    (queue : z.shade.queue = s.shade.queue) (wasted : z.shade.wasteSamples = s.shade.wasteSamples)
    (own : ∀ i, p.record = some i → (z.record i).kind = (s.record i).kind ∧ (z.record i).shade = (s.record i).shade) :
    SamplesWasted p c removed s u := by
  unfold SamplesWasted at h ⊢
  rw [wasted, queue] at h
  cases tracked : p.record with
  | none =>
    rw [tracked] at h
    exact h
  | some i =>
    obtain ⟨kind, shade⟩ := own i tracked
    rw [tracked] at h
    dsimp only at h ⊢
    unfold samplesTaken at h ⊢
    rw [kind, shade] at h
    exact h

theorem struck_struck (p : Plan) (x : CutRecord) (s : State) : Struck p x s (struck p x s) := by
  have ended := endAwaiting_ended s
  unfold struck
  generalize endAwaiting s = v at ended
  obtain ⟨a, R1, W, C, B, L, O, P, shape⟩ : ∃ a R1 W C B L O P, v = { s with
      line := { s.line with holds := a }
      roll := { s.roll with
        records := R1, wasteTotal := W, saleCounter := C
        cuts := s.roll.cuts.map (fun y => if y.state = .awaiting then { y with state := .unconfirmed } else y)
        lastUnconfirmed := match awaitingCutOf s with
          | some y => some y.number
          | none => s.roll.lastUnconfirmed }
      shade := { s.shade with batches := B }, label := L, store := O, ports := P } := ⟨_, _, _, _, _, _, _, _, ended.rest⟩
  generalize hw : modifyCuts .issued
      (fun x => { x with state := .awaiting, confirm := some (x.strobe + s.recipe.confirmDistance) })
      (assertStrobe x.strobe v) = w
  have wRecord (j : Fin 24) : w.record j = v.record j := by
    rw [← hw]
    rfl
  have wShape : w = { v with roll := { v.roll with
      strobeOff := some (x.strobe + s.recipe.pulseWidth)
      cuts := s.roll.cuts.map (struckCut s.recipe.confirmDistance) } } := by
    rw [← hw, ← struckCut_eq, shape]
    rfl
  obtain ⟨R, tracked⟩ := modifyTracked_rest p (fun r => { r with state := .cutWait }) w
  have own := fun i (hi : p.record = some i) => modifyTracked_same hi (fun r => { r with state := .cutWait }) w
  have other := fun j (hj : p.record ≠ some j) => modifyTracked_other hj (fun r => { r with state := .cutWait }) w
  generalize modifyTracked p (fun r => { r with state := .cutWait }) w = z at tracked own other
  have taken := consumeSegment_consumed p x.cut z
  have rest := consumeSegment_rest p x.cut z
  generalize consumeSegment p x.cut z = u at taken rest
  have before : z.map = s.map ∧ z.shade.queue = s.shade.queue ∧ z.shade.thin = s.shade.thin ∧
      z.shade.wasteSamples = s.shade.wasteSamples := by
    rw [tracked, wShape, shape]
    exact ⟨rfl, rfl, rfl, rfl⟩
  obtain ⟨map, queue, thin, wasted⟩ := before
  have apart (others : AwaitsOther p s) (i : Fin 24) (hi : p.record = some i) :
      ∃ n, z.record i = { s.record i with state := .cutWait, revision := n } := by
    obtain ⟨n, written⟩ := own i hi
    rw [wRecord, ended.others i fun y awaits ending => others y i awaits ending hi] at written
    exact ⟨n, written⟩
  have shared (i : Fin 24) (hi : p.record = some i) := taken.tracked i hi
  have elsewhere (j : Fin 24) (hj : p.record ≠ some j) : u.record j = v.record j :=
    (taken.others j hj).trans ((other j hj).trans (wRecord j))
  have kept (i : Fin 24) (hi : p.record = some i) : (u.record i).state = .cutWait ∧
      (u.record i).unconfirmedCut = (v.record i).unconfirmedCut ∧ (u.record i).grade = (v.record i).grade ∧
      (u.record i).saleNumber = (v.record i).saleNumber := by
    obtain ⟨n, written⟩ := own i hi
    rw [(shared i hi).record, written, wRecord]
    exact ⟨rfl, rfl, rfl, rfl⟩
  obtain ⟨R2, N, rest⟩ : ∃ R2 N, u = { z with
      roll := { z.roll with records := R2 }, map := consumed p.start x.cut z.map
      shade := { z.shade with
        queue := z.shade.queue.filter (fun y => decide (x.cut ≤ y.position)), thin := false, wasteSamples := N } } :=
    ⟨_, _, rest⟩
  have roll : u.roll = { s.roll with
      records := R2, cuts := s.roll.cuts.map (struckCut s.recipe.confirmDistance)
      lastUnconfirmed := v.roll.lastUnconfirmed, wasteTotal := v.roll.wasteTotal, saleCounter := v.roll.saleCounter
      strobeOff := some (x.strobe + s.recipe.pulseWidth) } := by
    rw [rest, tracked, wShape, shape]
  refine ⟨?_, ?_, ⟨?_, fun y i awaits ending sale => ?_⟩, fun fits => ?_, fun i hi => ⟨(kept i hi).1, fun others => ?_⟩,
    fun others => ?_, fun j => ?_⟩
  · rw [rest, tracked, wShape, shape]
  · rw [roll]
  · rw [roll, shape] <;> rfl
  · obtain ⟨flag, grade, number, -⟩ := ended.graded y i awaits ending sale
    by_cases hi : p.record = some i
    · obtain ⟨-, h1, h2, h3⟩ := kept i hi
      rw [h1, h2, h3]
      exact ⟨flag, grade, number⟩
    · rw [elsewhere i hi]
      exact ⟨flag, grade, number⟩
  · rw [roll]
    exact ended.waste fits
  · obtain ⟨n, same⟩ := apart others i hi
    have share := (shared i hi).share
    rw [map] at share
    exact shareTaken_before share same queue thin
  · have samples := taken.samples
    rw [queue] at samples
    refine samplesWasted_before samples queue wasted fun i hi => ?_
    obtain ⟨n, same⟩ := apart others i hi
    rw [same]
    exact ⟨rfl, rfl⟩
  · unfold FreeAtStrobe
    by_cases hj : p.record = some j
    · exact ⟨(fun free => nomatch free.symm.trans (kept j hj).1), fun h => absurd hj h.1⟩
    · rw [elsewhere j hj, free_endAwaiting ended j]
      exact ⟨fun h => ⟨hj, h⟩, And.right⟩

/-- A record that a plan takes is written as R111 says. -/
theorem installPlan_taken {q : Plan} {u : State} {i : Fin 24} (lowest : lowestFree u = some i) :
    ∃ n, (installPlan q u).record i = { RollRecord.freed n with
      state := .winding, kind := q.kind, run := u.line.run.getD 0, start := q.start, stop := q.stop
      unmatched := q.unmatched } := by
  refine ⟨((installPlan q u).record i).revision, ?_⟩
  have written := modifyRecord_parts i (fun r => takenRecord q (u.line.run.getD 0) r.revision) u fun _ _ => rfl
  simp only [installPlan, lowest]
  rw [evalHolds_record]
  exact written

theorem installPlan_other {q : Plan} {u : State} {j : Fin 24} (h : lowestFree u ≠ some j) :
    (installPlan q u).record j = u.record j := by
  unfold installPlan
  cases lowest : lowestFree u with
  | none => rfl
  | some i =>
    dsimp only
    rw [evalHolds_record]
    exact modifyRecord_other i j _ u fun e => h (by rw [lowest, e])

/-- What the plan of the next segment changes in the roll former (R111). -/
theorem installPlan_roll (q : Plan) (u : State) : (installPlan q u).roll = { u.roll with
    plan := some { q with record := lowestFree u }, records := (installPlan q u).roll.records
    lostSegments := if lowestFree u = none then min 65535 (u.roll.lostSegments + 1) else u.roll.lostSegments } := by
  unfold installPlan
  cases lowest : lowestFree u with
  | none =>
    dsimp only
    rw [if_pos rfl, bump_max16]
  | some i =>
    dsimp only
    rw [if_neg (by simp), evalHolds_eq]
    dsimp only
    show ({ (modifyRecord i _ u).roll with plan := _ } : RollFormer) = _
    rw [modifyRecord_eq]
    rfl

/-- The cuts of the strobe, with the kind of the next segment (R121). -/
theorem struckCuts_next (confirm : Int) (kind : SegmentKind) (cuts : List CutRecord) :
    (cuts.map (struckCut confirm)).map (fun y => if y.state = .awaiting then { y with kindNext := some kind } else y) =
      cuts.map (fun y =>
        match y.state with
        | .awaiting => { y with state := .unconfirmed }
        | .issued => { y with state := .awaiting, confirm := some (y.strobe + confirm), kindNext := some kind }
        | .done | .failed | .unconfirmed | .withdrawn => y) := by
  rw [List.map_map]
  refine List.map_congr_left fun y _ => ?_
  obtain ⟨number, state⟩ := y
  cases state <;> rfl

/-- The strobe, the next segment's plan being `q` (R121). -/
theorem strobeFor_strobed {p q : Plan} {x : CutRecord} {s : State} (planned : NextPlanned p x.cut s q) :
    ∃ r, Strobed p q x r s (strobeFor p x s) := by
  have made := struck_struck p x s
  have next : nextPlan (struck p x s) x.cut p.following = q := by
    refine nextPlan_planned (start := p.start) planned ?_
    obtain ⟨a, b, c, d, e, f, P, rest⟩ : ∃ a b c d e f P, struck p x s = { s with
        line := { s.line with holds := a }, roll := b, map := consumed p.start x.cut s.map
        shade := { s.shade with
          queue := s.shade.queue.filter (fun y => decide (x.cut ≤ y.position)), thin := false, wasteSamples := c, batches := d }
        label := e, store := f, ports := P } := ⟨_, _, _, _, _, _, _, made.rest⟩
    rw [rest]
  rw [strobeFor_eq, next]
  generalize struck p x s = u at made
  obtain ⟨lowest, missing⟩ := lowestFree_spec u
  have roll := installPlan_roll q u
  have taken := fun i (h : lowestFree u = some i) => installPlan_taken (q := q) h
  have other := fun j (h : lowestFree u ≠ some j) => installPlan_other (q := q) h
  have rest := installPlan_eq q u
  generalize installPlan q u = v at roll taken other rest
  let w : State := modifyCuts .awaiting (fun y => { y with kindNext := some q.kind }) v
  have record (j : Fin 24) : (raiseCut w).record j = v.record j := rfl
  have run : u.line.run = s.line.run := by rw [made.rest]
  have busy (j : Fin 24) (h : ¬ FreeAtStrobe p s j) : v.record j = u.record j :=
    other j fun e => h ((made.free j).1 (lowest j e).1)
  have own (i : Fin 24) (hi : p.record = some i) : v.record i = u.record i := busy i fun h => h.1 hi
  have shape : ∃ a b P, v = { u with line := { u.line with holds := a }, roll := b, ports := P } := ⟨_, _, _, rest⟩
  have shade : v.shade = u.shade := by rw [rest]
  refine ⟨lowestFree u, ?_, pending_raise .winder .cut w, ?_, ⟨?_, fun y i awaits ending sale => ?_⟩, fun fits => ?_,
    fun i hi => ?_, fun others => ?_, fun i hi => ⟨?_, fun j low free => ?_, ?_⟩, fun none j free => ?_⟩
  · obtain ⟨a, b, P, shape⟩ := shape
    obtain ⟨a', b', c, d, e, f, P', before⟩ : ∃ a b c d e f P, u = { s with
        line := { s.line with holds := a }, roll := b, map := consumed p.start x.cut s.map
        shade := { s.shade with
          queue := s.shade.queue.filter (fun y => decide (x.cut ≤ y.position)), thin := false, wasteSamples := c, batches := d }
        label := e, store := f, ports := P } := ⟨_, _, _, _, _, _, _, made.rest⟩
    show raiseCut (modifyCuts .awaiting _ v) = _
    rw [shape, before]
    rfl
  · have before : v.roll = { s.roll with
        plan := some { q with record := lowestFree u }, records := v.roll.records
        cuts := s.roll.cuts.map (struckCut s.recipe.confirmDistance)
        lastUnconfirmed := v.roll.lastUnconfirmed, wasteTotal := v.roll.wasteTotal, saleCounter := v.roll.saleCounter
        lostSegments := if lowestFree u = none then min 65535 (s.roll.lostSegments + 1) else s.roll.lostSegments
        strobeOff := some (x.strobe + s.recipe.pulseWidth) } := by
      have shape : ∃ R, v.roll = { u.roll with
          plan := some { q with record := lowestFree u }, records := R
          lostSegments := if lowestFree u = none then min 65535 (u.roll.lostSegments + 1) else u.roll.lostSegments } :=
        ⟨_, roll⟩
      obtain ⟨R, shape⟩ := shape
      rw [shape]
      have before := made.roll
      generalize u.roll = r at before
      obtain ⟨R', U, W, C, before⟩ : ∃ R U W C, r = { s.roll with
          records := R, cuts := s.roll.cuts.map (struckCut s.recipe.confirmDistance)
          lastUnconfirmed := U, wasteTotal := W, saleCounter := C
          strobeOff := some (x.strobe + s.recipe.pulseWidth) } := ⟨_, _, _, _, before⟩
      rw [before]
    have cuts : v.roll.cuts = s.roll.cuts.map (struckCut s.recipe.confirmDistance) := by rw [before]
    have after := struckCuts_next s.recipe.confirmDistance q.kind s.roll.cuts
    rw [← cuts] at after
    refine Eq.trans (congrArg (fun c => ({ v.roll with cuts := c } : RollFormer)) after) ?_
    rw [show (raiseCut w).roll.records = v.roll.records from rfl,
      show (raiseCut w).roll.lastUnconfirmed = v.roll.lastUnconfirmed from rfl,
      show (raiseCut w).roll.wasteTotal = v.roll.wasteTotal from rfl,
      show (raiseCut w).roll.saleCounter = v.roll.saleCounter from rfl]
    generalize v.roll = r at before
    obtain ⟨R', U, W, C, before⟩ : ∃ R U W C, r = { s.roll with
        plan := some { q with record := lowestFree u }, records := R
        cuts := s.roll.cuts.map (struckCut s.recipe.confirmDistance)
        lastUnconfirmed := U, wasteTotal := W, saleCounter := C
        lostSegments := if lowestFree u = none then min 65535 (s.roll.lostSegments + 1) else s.roll.lostSegments
        strobeOff := some (x.strobe + s.recipe.pulseWidth) } := ⟨_, _, _, _, before⟩
    rw [before] <;> rfl
  · show v.roll.lastUnconfirmed = _
    rw [roll]
    exact made.awaited.last
  · have kept : ¬ FreeAtStrobe p s i := fun free => by
      rcases free.2 with ⟨_, _, _, waste⟩ | ⟨other, -⟩
      · exact nomatch sale.symm.trans waste
      · exact other y awaits ending
    rw [record, busy i kept]
    exact made.awaited.graded y i awaits ending sale
  · show v.roll.wasteTotal = _
    rw [roll]
    exact made.waste fits
  · rw [record, own i hi]
    exact made.own i hi
  · have samples := made.samples others
    unfold SamplesWasted at samples ⊢
    show _ → v.shade.wasteSamples = _
    rw [shade]
    exact samples
  · exact (made.free i).1 (lowest i hi).1
  · exact (lowest i hi).2 j low ((made.free j).2 free)
  · obtain ⟨n, written⟩ := taken i hi
    rw [record, written, run] <;> rfl
  · exact missing none j ((made.free j).2 free)

end Sys2Proof.Striking

/-! ## CUT_DUE and CUT_STROBE (R119, R121) -/

namespace Sys2Proof.Striking

open Sys2Proof.Machine Sys2Proof.Safety Sys2Proof.Starting Sys2Proof.Consuming Sys2Proof.Batching Sys2Proof.Porting
  Sys2Proof.Answering Sys2Proof.Cutting Sys2Proof.Breaking

/-! ### What is due (R119) -/

theorem dueNow_some {s : State} {p : Plan} {c : Pos} (plan : s.roll.plan = some p) (winding : p.phase = .winding)
    (stop : p.stop = some c) (reached : ¬ DueAhead s c) : dueNow s = some (p, c) := by
  unfold dueNow duePoint
  rw [plan]
  dsimp only
  rw [winding, stop]
  exact if_pos (not_lt.1 reached)

theorem settlePlan_due {s : State} {p : Plan} {c : Pos} (due : dueNow s = some (p, c)) :
    settlePlan planFuel s =
      if strobeDue (fixCut p c s) then settlePlan 8589934591 (strobeNow (fixCut p c s)) else fixCut p c s := by
  show settlePlan (8589934591 + 1) s = _
  rw [settlePlan, due]

/-- The new cut is the ISSUED one when none was (R117). -/
theorem issued_fixed {p : Plan} {c y : Pos} {x : CutRecord} {s t : State} (fixed : CutFixed p c y x s t)
    (none : ∀ z ∈ s.roll.cuts, z.state ≠ .issued) : cutIn .issued t = some x := by
  obtain ⟨-, state, -⟩ := fixed.cut
  unfold cutIn
  rw [fixed.roll]
  dsimp only
  rw [List.drop_append_of_le_length (by omega), List.find?_append,
    List.find?_eq_none.2 fun z hz issued => none z (List.mem_of_mem_drop hz) (beq_iff_eq.1 issued)]
  exact List.find?_cons_of_pos (p := fun x : CutRecord => x.state == .issued) (beq_iff_eq.2 state)

theorem strobeDue_iff {s : State} {x : CutRecord} (issued : cutIn .issued s = some x) :
    strobeDue s = decide (x.strobe ≤ s.web.w) := by
  rw [strobeDue, issued]

/-- A cut whose strobe position lies ahead is fixed, and no more (R119). -/
theorem settlePlan_ahead {s : State} {p : Plan} {c c' y : Pos} (due : dueNow s = some (p, c))
    (fixes : reanchored s p c = c') (ahead : StrobeAhead s c' y) :
    ∃ x, settlePlan planFuel s = fixCut p c s ∧ CutFixed p c' y x s (fixCut p c s) ∧
      fixCut p c s = { s with roll := (fixCut p c s).roll, ports := (fixCut p c s).ports } ∧
      Noticed (on .winder .cut) s (fixCut p c s) ∧
      ∀ i, p.record = some i → ∃ n, (fixCut p c s).record i = { closing p c' (s.record i) with revision := n } := by
  obtain ⟨x, made⟩ := fixCut_made p c s
  rw [fixes] at made
  obtain ⟨fixed, rest, noticed, own⟩ := made
  rw [strobePosition_ahead ahead] at fixed
  rw [settlePlan_due due]
  generalize fixCut p c s = t at fixed rest noticed own
  have web : t.web = s.web := by rw [rest]
  have waits : strobeDue t = false := by
    obtain ⟨-, -, -, -, -, place, -⟩ := fixed.cut
    rw [strobeDue_iff (issued_fixed fixed ahead.2.2), place, web]
    exact decide_eq_false (not_le.2 ahead.2.1)
  rw [waits]
  exact ⟨x, rfl, fixed, rest, noticed, own⟩

/-! ### The strobe that ends there (R121) -/

theorem strobed_of_ports {p q : Plan} {x : CutRecord} {r : Option (Fin 24)} {s t : State} (P : Ports)
    (h : Strobed p q x r s t) : Strobed p q x r { s with ports := P } t :=
  ⟨h.kept, h.notice, h.roll, ⟨h.awaited.last, h.awaited.graded⟩, h.waste, fun i hi => ⟨(h.ended i hi).1, (h.ended i hi).2⟩,
    h.samples, h.taken, h.lost⟩

theorem strobed_rest {p q : Plan} {x : CutRecord} {r : Option (Fin 24)} {s t : State} (h : Strobed p q x r s t) :
    t.web = s.web ∧ t.geometry = s.geometry ∧ t.recipe = s.recipe ∧ t.clock = s.clock ∧
      t.roll.plan = some { q with record := r } ∧ t.roll.transport = s.roll.transport := by
  have roll := h.roll
  rw [h.kept]
  refine ⟨rfl, rfl, rfl, rfl, ?_, ?_⟩
  · rw [roll]
  · rw [roll]

/-- A strobe after which the next segment's cut due point lies ahead. -/
theorem settlePlan_strobed {n : Nat} {p q : Plan} {x : CutRecord} {r : Option (Fin 24)} {s t : State} {e : Pos}
    (h : Strobed p q x r s t) (stop : q.stop = some e) (ahead : DueAhead s e) : settlePlan n t = t := by
  obtain ⟨web, geometry, recipe, -, plan, -⟩ := strobed_rest h
  refine settlePlan_notDue n t (dueNow_none t _ e plan stop ?_)
  unfold DueAhead
  rw [web, geometry, recipe]
  exact ahead

/-- A cut whose strobe position is reached is struck at once (R119, R121). -/
theorem settlePlan_reached {s : State} {p : Plan} {c c' : Pos} (due : dueNow s = some (p, c))
    (fixes : reanchored s p c = c') (reached : StrobeReached s c') :
    ∃ (x : CutRecord) (u : State), settlePlan planFuel s = settlePlan 8589934591 (strobeFor { p with
        stop := some c', phase := .closing } x u) ∧ CutFixed p c' s.web.w x s u ∧
      u = { s with roll := u.roll, ports := u.ports } ∧ cutIn .issued u = some x ∧ Noticed (on .winder .cut) s u ∧
      ∀ i, p.record = some i → ∃ n, u.record i = { closing p c' (s.record i) with revision := n } := by
  obtain ⟨x, made⟩ := fixCut_made p c s
  rw [fixes] at made
  obtain ⟨fixed, rest, noticed, own⟩ := made
  rw [strobePosition_reached reached] at fixed
  rw [settlePlan_due due]
  generalize fixCut p c s = u at fixed rest noticed own
  have issued := issued_fixed fixed reached.2
  have web : u.web = s.web := by rw [rest]
  have strikes : strobeDue u = true := by
    obtain ⟨-, -, -, -, -, place, -⟩ := fixed.cut
    rw [strobeDue_iff issued, place, web]
    exact decide_eq_true le_rfl
  have plan : u.roll.plan = some { p with stop := some c', phase := .closing } := by rw [fixed.roll]
  rw [if_pos strikes, strobeNow, plan, issued]
  exact ⟨x, u, rfl, fixed, rest, issued, noticed, own⟩

/-- Settles O23: nothing before the cut due point; then the cut is fixed, and struck when its position is reached. -/
theorem cutDue : Obligations.CutDue := by
  refine ⟨fun s early => ?_, fun s p c c' plan winding stop reached anchored => ⟨fun y ahead => ?_,
    fun q e strikes _ planned next ahead => ?_⟩⟩
  · have idle : dueNow s = none := by
      unfold dueNow duePoint
      cases plan : s.roll.plan with
      | none => rfl
      | some p =>
        dsimp only
        split
        · rename_i c winding stop
          rcases early p c plan stop with closing | ahead
          · exact nomatch winding.symm.trans closing
          · exact if_neg (not_le.2 ahead)
        · rfl
    exact congrArg Host.Outcome.next (settlePlan_notDue planFuel s idle)
  · obtain ⟨x, made, fixed, rest, noticed, -⟩ := settlePlan_ahead
      (dueNow_some plan winding stop (not_lt.2 reached)) (reanchored_eq anchored) ahead
    exact ⟨_, x, congrArg Host.Outcome.next made, rest, noticed, fixed⟩
  · obtain ⟨x, u, made, fixed, rest, -⟩ := settlePlan_reached
      (dueNow_some plan winding stop (not_lt.2 reached)) (reanchored_eq anchored) strikes
    obtain ⟨-, -, -, -, cut, -⟩ := fixed.cut
    obtain ⟨r, strobed⟩ := strobeFor_strobed (p := { p with stop := some c', phase := .closing }) (x := x)
      (by rw [cut]; exact nextPlanned_of_eq planned rest rfl)
    have aheadAfter : DueAhead u e := by
      rw [rest]
      exact ahead
    rw [settlePlan_strobed strobed next aheadAfter] at made
    refine ⟨_, { u with ports := s.ports }, x, r, congrArg Host.Outcome.next made, ?_,
      ⟨fixed.roll, fixed.cut, fixed.untracked, fixed.tracked⟩, strobed_of_ports _ strobed⟩
    obtain ⟨a, P, rest⟩ : ∃ a P, u = { s with roll := a, ports := P } := ⟨_, _, rest⟩
    rw [rest]

theorem nextPlanned_winding {s : State} {p q : Plan} {c : Pos} (h : NextPlanned p c s q) : q.phase = .winding := by
  cases following : p.following with
  | some f =>
    rw [h.1 f following]
    rfl
  | none =>
    obtain ⟨-, -, winding, -⟩ := (h.2 following).parts
    exact winding

/-- No cut is ISSUED once the strobe has been made (R121). -/
theorem strobed_noneIssued {p q : Plan} {x : CutRecord} {r : Option (Fin 24)} {s t : State} (h : Strobed p q x r s t) :
    ∀ z ∈ t.roll.cuts, z.state ≠ .issued := by
  intro z hz
  rw [h.roll] at hz
  obtain ⟨y, -, rfl⟩ := List.mem_map.1 hz
  obtain ⟨number, state⟩ := y
  cases state <;> exact fun h => nomatch h

/-- Settles O24: nothing before the strobe position; then the strobe, and the next cut where its point is reached too. -/
theorem cutStrobe : Obligations.CutStrobe := by
  refine ⟨fun s early => ?_, fun s p q x e plan issued reached _ planned next => ?_⟩
  · refine congrArg Host.Outcome.next (if_neg fun due => ?_)
    cases issued : cutIn .issued s with
    | none =>
      rw [strobeDue, issued] at due
      exact Bool.false_ne_true due
    | some x =>
      rw [strobeDue_iff issued] at due
      have state : (x.state == .issued) = true := List.find?_some (p := fun x : CutRecord => x.state == .issued) issued
      exact not_le.2 (early x (List.mem_of_find?_eq_some issued) (beq_iff_eq.1 state)) (of_decide_eq_true due)
  · have strikes : strobeDue s = true := by
      rw [strobeDue_iff issued]
      exact decide_eq_true reached
    have made : exec .cutStrobe s = .next (settlePlan planFuel (strobeFor p x s)) := by
      show Host.Outcome.next (strobe s) = _
      rw [strobe, if_pos strikes, strobeNow, plan, show cutIn .issued s = some x from issued]
    obtain ⟨r, strobed⟩ := strobeFor_strobed planned
    generalize strobeFor p x s = u at made strobed
    refine ⟨fun ahead => ?_, fun c y notAhead anchored place later => ?_⟩
    · rw [settlePlan_strobed strobed next ahead] at made
      refine ⟨u, r, made, ?_, strobed⟩
      rw [State.cutStrobe, strobed.roll]
      rfl
    · obtain ⟨web, geometry, recipe, clock, standing, transport⟩ := strobed_rest strobed
      have due : dueNow u = some ({ q with record := r }, e) := by
        refine dueNow_some standing ?_ next ?_
        · show q.phase = .winding
          exact nextPlanned_winding planned
        · unfold DueAhead
          rw [web, geometry, recipe]
          exact notAhead
      have fixes : reanchored u { q with record := r } e = c := by
        refine reanchored_eq ?_
        unfold Reanchored
        rw [clock, recipe]
        exact anchored
      have ahead : StrobeAhead u c y := by
        refine ⟨?_, ?_, strobed_noneIssued strobed⟩
        · rw [geometry, recipe, transport]
          exact place
        · rw [web]
          exact later
      obtain ⟨z, settled, fixed, rest, noticed, -⟩ := settlePlan_ahead due fixes ahead
      rw [settled] at made
      exact ⟨_, u, r, z, made, strobed, fixed, rest, noticed⟩

end Sys2Proof.Striking

/-! ## An end that is placed, and what it sets off (R113, R115, R119) -/

namespace Sys2Proof.Placing

open Sys2Proof.Machine Sys2Proof.Safety Sys2Proof.Starting Sys2Proof.Batching Sys2Proof.Porting Sys2Proof.Answering
  Sys2Proof.Cutting Sys2Proof.Breaking Sys2Proof.Striking

/-! ### Ends on the match points (R113) -/

/-- Where match arithmetic places ends, `e` lies on a match point. -/
def OnMatch (s : State) (e : Pos) : Prop := MatchUsed s = true → (e - matchOrigin s) % s.recipe.repeatLength = 0

theorem firstMatch_onMatch (s : State) (x : Pos) : OnMatch s (firstMatch s x) := fun used => by
  unfold firstMatch
  rw [usesMatch_eq, if_pos used]
  have same : x + (matchOrigin s - x) % s.recipe.repeatLength - matchOrigin s =
      (matchOrigin s - x) % s.recipe.repeatLength - (matchOrigin s - x) := by ring
  rw [same, Int.emod_sub_emod, sub_self, Int.zero_emod]

theorem lastMatch_onMatch (s : State) (x : Pos) : OnMatch s (lastMatch s x) := fun used => by
  unfold lastMatch
  rw [usesMatch_eq, if_pos used]
  have same : x - (x - matchOrigin s) % s.recipe.repeatLength - matchOrigin s =
      (x - matchOrigin s) - (x - matchOrigin s) % s.recipe.repeatLength := by ring
  rw [same, Int.sub_emod_emod, sub_self, Int.zero_emod]

theorem reduceMod_zero {r v : Int} (positive : 0 < r) (zero : v % r = 0) : reduceMod r v = 0 := by
  unfold reduceMod
  dsimp only
  rw [zero]
  exact if_neg (not_lt.2 (Int.ediv_nonneg (le_of_lt positive) (by decide)))

/-! ### The plan with its end placed (R111, R113) -/

/-- The plan `p` with its end placed at `e`. -/
def placedPlan (s : State) (p : Plan) (e : Pos) : Plan :=
  { p with stop := some e, matched := MatchUsed s, unmatched := p.unmatched || !MatchUsed s }

/-- An end that lies on a match point is not moved by cut due (R119 step 1). -/
theorem reanchored_placed {s s' : State} {p : Plan} {e : Pos} (positive : 0 < s.recipe.repeatLength) (match' : OnMatch s e)
    (recipe : s'.recipe = s.recipe) (clock : s'.clock = s.clock) : reanchored s' (placedPlan s p e) e = e := by
  have origin : matchOrigin s' = matchOrigin s := by rw [matchOrigin, matchOrigin, recipe, clock]
  unfold reanchored
  dsimp only
  rw [recipe, origin]
  by_cases used : MatchUsed s = true
  · rw [reduceMod_zero positive (match' used), sub_zero]
    exact ite_self e
  · exact if_neg fun h => used h.1

theorem placeEnd_own {p : Plan} {i : Fin 24} (h : p.record = some i) (e : Pos) (s : State) :
    ∃ n, (placeEnd p e s).record i = { s.record i with
      stop := some e, unmatched := (s.record i).unmatched || !MatchUsed s, revision := n } := by
  rw [placeEnd, h, usesMatch_eq]
  exact modifyRecord_written i (fun r => { r with stop := some e, unmatched := r.unmatched || !MatchUsed s }) _

/-- What placing the end of `p` at `e` leaves. -/
structure Placed (p : Plan) (e : Pos) (s u : State) : Prop where
  ends : EndPlaced p e s u
  rest : u = { s with roll := u.roll }
  own : ∀ i, p.record = some i → ∃ n, u.record i = { s.record i with
    stop := some e, unmatched := (s.record i).unmatched || !MatchUsed s, revision := n }

theorem placeEnd_full (p : Plan) (e : Pos) (s : State) : Placed p e s (placeEnd p e s) := by
  obtain ⟨ends, rest⟩ := placeEnd_placed p e s
  exact ⟨ends, rest, fun i hi => placeEnd_own hi e s⟩

theorem Placed.plan {p : Plan} {e : Pos} {s u : State} (h : Placed p e s u) : u.roll.plan = some (placedPlan s p e) := by
  rw [h.ends.plan]
  rfl

/-- An end whose cut due point lies ahead stands (R119). -/
theorem Placed.stands {p : Plan} {e : Pos} {s u : State} (h : Placed p e s u) (n : Nat) (ahead : DueAhead s e) :
    settlePlan n u = u := by
  refine settlePlan_notDue n u (dueNow_none u _ e h.plan rfl ?_)
  rw [h.rest]
  exact ahead

theorem Placed.due {p : Plan} {e : Pos} {s u : State} (h : Placed p e s u) (winding : p.phase = .winding)
    (reached : ¬ DueAhead s e) : dueNow u = some (placedPlan s p e, e) := by
  refine dueNow_some h.plan winding rfl ?_
  rw [h.rest]
  exact reached

/-- An end that is placed and cut at once. -/
theorem Placed.cut {p : Plan} {e y : Pos} {x : CutRecord} {s u t : State} (h : Placed p e s u)
    (fixed : CutFixed (placedPlan s p e) e y x u t)
    (own : ∀ i, p.record = some i → ∃ n, t.record i = { closing (placedPlan s p e) e (u.record i) with revision := n }) :
    CutAtOnce p e y s t := by
  obtain ⟨number, state, ending, next, cut, place, confirm⟩ := fixed.cut
  have before : u.roll = { s.roll with records := u.roll.records, plan := some (placedPlan s p e) } := h.ends.plan
  have count : u.roll.cutCount = s.roll.cutCount := by rw [before]
  have others (j : Fin 24) (hj : p.record ≠ some j) : t.record j = u.record j := by
    cases tracked : p.record with
    | none =>
      obtain ⟨-, -, same⟩ := fixed.untracked tracked
      exact congrArg (fun r : Table RollRecord 24 => r.get j) same
    | some i =>
      obtain ⟨-, -, -, -, -, same⟩ := fixed.tracked i tracked
      exact same j fun e => hj (by rw [tracked, e])
  refine ⟨⟨x, by rw [number, count], state, ending, next, cut, place, confirm, ?_⟩, fun none => ?_, fun i hi => ?_,
    fun j hj => (others j hj).trans (h.ends.others j hj)⟩
  · have after := fixed.roll
    rw [after]
    obtain ⟨R, shape⟩ : ∃ R, u.roll = { s.roll with records := R, plan := some (placedPlan s p e) } := ⟨_, before⟩
    rw [shape]
    rfl
  · obtain ⟨-, -, same⟩ := fixed.untracked none
    exact same.trans (h.ends.untracked none)
  · obtain ⟨n, closed⟩ := own i hi
    obtain ⟨m, placed⟩ := h.own i hi
    rw [closed, placed]
    refine ⟨rfl, rfl, ?_, rfl⟩
    show (if (s.record i).endCause = some .cutFail then (s.record i).endCause else some p.cause) = _
    by_cases failed : (s.record i).endCause = some .cutFail
    · rw [if_pos failed, if_pos failed, failed]
    · rw [if_neg failed, if_neg failed]

theorem strobeAhead_of {p : Plan} {e y : Pos} {s u : State} (h : Placed p e s u) (ahead : StrobeAhead s e y) :
    StrobeAhead u e y := by
  have roll := h.ends.plan
  have cuts : u.roll.cuts = s.roll.cuts := by rw [roll]
  have transport : u.roll.transport = s.roll.transport := by rw [roll]
  obtain ⟨place, beyond, none⟩ := ahead
  refine ⟨?_, ?_, ?_⟩
  · rw [transport, h.rest]
    exact place
  · rw [h.rest]
    exact beyond
  · rw [cuts]
    exact none

theorem strobeReached_of {p : Plan} {e : Pos} {s u : State} (h : Placed p e s u) (reached : StrobeReached s e) :
    StrobeReached u e := by
  have roll := h.ends.plan
  have cuts : u.roll.cuts = s.roll.cuts := by rw [roll]
  have transport : u.roll.transport = s.roll.transport := by rw [roll]
  obtain ⟨place, none⟩ := reached
  refine ⟨?_, ?_⟩
  · rw [transport, h.rest]
    exact place
  · rw [cuts]
    exact none

/-- An end is placed and cut at once, its strobe position lying ahead (R113, R115, R119). -/
theorem placeEnd_cut {p : Plan} {e y : Pos} {s : State} (positive : 0 < s.recipe.repeatLength) (match' : OnMatch s e)
    (winding : p.phase = .winding) (reached : ¬ DueAhead s e) (ahead : StrobeAhead s e y) :
    CutAtOnce p e y s (settlePlan planFuel (placeEnd p e s)) ∧
      settlePlan planFuel (placeEnd p e s) = { s with
        roll := (settlePlan planFuel (placeEnd p e s)).roll, ports := (settlePlan planFuel (placeEnd p e s)).ports } ∧
      Noticed (on .winder .cut) s (settlePlan planFuel (placeEnd p e s)) := by
  have placed := placeEnd_full p e s
  generalize placeEnd p e s = u at placed
  have blocks : u.recipe = s.recipe ∧ u.clock = s.clock := by
    rw [placed.rest]
    exact ⟨rfl, rfl⟩
  obtain ⟨x, made, fixed, rest, noticed, own⟩ := settlePlan_ahead (placed.due winding reached)
    (reanchored_placed positive match' blocks.1 blocks.2) (strobeAhead_of placed ahead)
  rw [made]
  generalize fixCut (placedPlan s p e) e u = t at fixed rest noticed own
  obtain ⟨a, before⟩ : ∃ a, u = { s with roll := a } := ⟨_, placed.rest⟩
  refine ⟨placed.cut fixed own, ?_, fun q => ?_⟩
  · obtain ⟨b, P, rest⟩ : ∃ b P, t = { u with roll := b, ports := P } := ⟨_, _, rest⟩
    rw [rest, before]
  · rw [noticed q, before]
    rfl

/-- At its limit an open-ended waste segment is given its end (R115). -/
theorem wasteEnd_forced {s : State} {p : Plan} (plan : s.roll.plan = some p) (endless : p.stop = none)
    (limited : p.limited = true) (reached : p.start + 2000000 + s.geometry.dK - s.recipe.cutLead ≤ s.web.w) :
    exec .wasteEndForced s = .next (settlePlan planFuel (placeEnd p (firstMatch s (p.start + 2000000)) s)) := by
  show Host.Outcome.next (forceWasteEnd s) = _
  rw [forceWasteEnd, plan]
  exact congrArg Host.Outcome.next (if_pos ⟨by rw [endless]; rfl, limited, reached⟩)

end Sys2Proof.Placing

/-! ## The end of an open-ended waste segment (R113, R115) -/

namespace Sys2Proof.Placing

open Sys2Proof.Machine Sys2Proof.Safety Sys2Proof.Starting Sys2Proof.Batching Sys2Proof.Porting Sys2Proof.Answering
  Sys2Proof.Cutting Sys2Proof.Breaking Sys2Proof.Striking Sys2Proof.Framing

/-! ### Clean web (R115) -/

theorem isOpenOf_iff (e : MapEntry) (k : MapKind) : e.isOpenOf k = true ↔ e.kind = k ∧ e.stop = none := by
  rw [MapEntry.isOpenOf, Bool.and_eq_true, beq_iff_eq, Option.isNone_iff_eq_none]

theorem hasOpenFault_register (m : WebMap) : hasOpenFault .register m = false ↔ ∀ x ∈ m.entries, ¬ Covers .register x := by
  unfold hasOpenFault hasOpen Covers
  simp only [Bool.or_eq_false_iff, List.any_eq_false, isOpenOf_iff]
  exact ⟨fun h x hx => by have := h.1 x hx; have := h.2 x hx; tauto,
    fun h => ⟨fun x hx => by have := h x hx; tauto, fun x hx => by have := h x hx; tauto⟩⟩

theorem hasOpenFault_emboss (m : WebMap) : hasOpenFault .emboss m = false ↔ ∀ x ∈ m.entries, ¬ Covers .emboss x := by
  unfold hasOpenFault hasOpen Covers
  simp only [Bool.or_eq_false_iff, List.any_eq_false, isOpenOf_iff]
  exact ⟨fun h x hx => by have := h.1 x hx; have := h.2 x hx; tauto,
    fun h => ⟨fun x hx => by have := h x hx; tauto, fun x hx => by have := h x hx; tauto⟩⟩

/-- A register fault's entry as a frame in register leaves it (R73, R98). -/
def cleanedEntry (c0 : Pos) (e : MapEntry) : MapEntry :=
  if (releasedEntry .register c0 e).kind = .register ∧ (releasedEntry .register c0 e).stop = none then
    { releasedEntry .register c0 e with stop := some c0 }
  else releasedEntry .register c0 e

theorem cleanedEntry_register (c0 : Pos) (e : MapEntry) : ¬ Covers .register (cleanedEntry c0 e) := by
  have released : (releasedEntry .register c0 e).forRegister = false := by
    unfold releasedEntry
    cases stands : e.forRegister <;> cases also : e.forEmboss <;> simp_all
  have kept : (cleanedEntry c0 e).forRegister = false := by
    unfold cleanedEntry
    split <;> exact released
  have closed : ¬ ((cleanedEntry c0 e).kind = .register ∧ (cleanedEntry c0 e).stop = none) := by
    unfold cleanedEntry
    split
    · exact fun h => Option.some_ne_none _ h.2
    · assumption
  rintro (⟨-, stands⟩ | ⟨other, -⟩ | opens)
  · exact Bool.false_ne_true (kept.symm.trans stands)
  · exact MapKind.noConfusion other
  · exact closed opens

theorem cleanedEntry_emboss {c0 : Pos} {e : MapEntry} (h : ¬ Covers .emboss e) : ¬ Covers .emboss (cleanedEntry c0 e) := by
  have none' : e.forEmboss = false := Bool.eq_false_iff.2 fun stands => h (.inr (.inl ⟨rfl, stands⟩))
  have closed : ¬ (e.kind = .emboss ∧ e.stop = none) := fun opens => h (.inr (.inr opens))
  have released : (releasedEntry .register c0 e).forEmboss = false ∧
      ¬ ((releasedEntry .register c0 e).kind = .emboss ∧ (releasedEntry .register c0 e).stop = none) := by
    unfold releasedEntry
    cases stands : e.forRegister <;> simp_all
  have kept : (cleanedEntry c0 e).forEmboss = false ∧
      ¬ ((cleanedEntry c0 e).kind = .emboss ∧ (cleanedEntry c0 e).stop = none) := by
    unfold cleanedEntry
    split
    · exact ⟨released.1, fun opens => Option.some_ne_none _ opens.2⟩
    · exact released
  rintro (⟨other, -⟩ | ⟨-, stands⟩ | opens)
  · exact MapKind.noConfusion other
  · exact Bool.false_ne_true (kept.1.symm.trans stands)
  · exact kept.2 opens

/-- The web is clean for the roll former after a frame in register (R115). -/
theorem webIsClean_registered {f : Frame} {s v : State} (registered : FrameRegistered f s v)
    (inRegister : v.register.offender = none) (track : (s.channel .mk0).state = .track)
    (uncovered : s.recipe.embossEnableField = 1 → ∀ x ∈ s.map.entries, ¬ Covers .emboss x) : webIsClean v = true := by
  obtain ⟨x, released, clean, -⟩ := registered.span
  have map := clean (by rw [inRegister]; rfl)
  have entries : v.map.entries = s.map.entries.map (cleanedEntry f.c0) := by
    rw [map, released, List.map_map]
    rfl
  have mk0 : v.capture.mk0.state = .track := by
    rw [registered.rest]
    exact track
  have recipe : v.recipe = s.recipe := by rw [registered.rest]
  have register : hasOpenFault .register v.map = false := (hasOpenFault_register _).2 fun y hy => by
    rw [entries] at hy
    obtain ⟨e, -, rfl⟩ := List.mem_map.1 hy
    exact cleanedEntry_register f.c0 e
  unfold webIsClean
  rw [mk0, register, recipe]
  cases enabled : s.recipe.embossEnabled with
  | false => rfl
  | true =>
    have emboss : hasOpenFault .emboss v.map = false := (hasOpenFault_emboss _).2 fun y hy => by
      rw [entries] at hy
      obtain ⟨e, he, rfl⟩ := List.mem_map.1 hy
      exact cleanedEntry_emboss (uncovered ((embossEnabled_iff _).1 enabled) e he)
    rw [emboss]
    rfl

/-- The end at a clean position (R115). -/
theorem cleanEnd_eq {s : State} {start clean knife y e : Pos} (place : knife = s.web.w - s.geometry.dK + s.recipe.cutLead)
    (first : FirstMatch s (max (max clean (start + s.recipe.startupWaste)) knife) y)
    (near : y ≤ start + 2000000 → e = y)
    (far : start + 2000000 < y → FirstMatch s (max (start + 2000000) knife) e) :
    cleanEnd s start clean = e ∧ OnMatch s e := by
  have hy := (firstMatch_iff s _ y).1 first
  unfold cleanEnd knifeFrame
  dsimp only
  rw [← place, ← hy]
  by_cases beyond : start + 2000000 < y
  · have he := (firstMatch_iff s _ e).1 (far beyond)
    rw [if_pos (by unfold wasteReach; exact lt_sub_iff_add_lt'.2 beyond)]
    exact ⟨he.symm, he ▸ firstMatch_onMatch s _⟩
  · rw [if_neg (by unfold wasteReach; exact fun h => beyond (lt_sub_iff_add_lt'.1 h)), near (not_lt.1 beyond), hy]
    exact ⟨rfl, firstMatch_onMatch s _⟩

theorem endWasteAt_dirty {s : State} (c0 : Pos) (dirty : webIsClean s = false) : endWasteAt c0 s = s := by
  unfold endWasteAt
  cases s.roll.plan with
  | none => rfl
  | some p =>
    dsimp only
    rw [dirty, Bool.and_false]
    rfl

theorem endWasteAt_clean {s : State} {p : Plan} {c0 : Pos} (plan : s.roll.plan = some p) (endless : p.stop = none)
    (clean : webIsClean s = true) : endWasteAt c0 s = settlePlan planFuel (placeEnd p (cleanEnd s p.start c0) s) := by
  rw [endWasteAt, plan]
  dsimp only
  rw [endless, clean]
  rfl

/-- Settles O26: the forced end, and the end at a clean frame. -/
theorem wasteEndForced : Obligations.WasteEndForced := by
  refine ⟨fun s unlimited => ?_, fun s p e plan endless limited positive reached first => ?_,
    fun s p f knife plan endless positive frame reached place => ?_⟩
  · show Host.Outcome.next (forceWasteEnd s) = _
    unfold forceWasteEnd
    cases plan : s.roll.plan with
    | none => rfl
    | some p =>
      refine congrArg Host.Outcome.next (if_neg fun ⟨endless, limited, reached⟩ => ?_)
      rcases unlimited p plan with placed | free | early
      · exact placed (Option.isNone_iff_eq_none.1 endless)
      · exact Bool.false_ne_true (free.symm.trans limited)
      · exact not_le.2 early reached
  · have made := wasteEnd_forced plan endless limited reached
    obtain rfl := (firstMatch_iff s _ e).1 first
    refine ⟨fun ahead => ?_, fun y notAhead winding strobe => ?_⟩
    · have placed := placeEnd_full p (firstMatch s (p.start + 2000000)) s
      rw [placed.stands planFuel ahead] at made
      exact ⟨_, made, placed.rest, placed.ends⟩
    · obtain ⟨cut, rest, noticed⟩ := placeEnd_cut positive (firstMatch_onMatch s _) winding notAhead strobe
      exact ⟨_, made, rest, noticed, cut⟩
  · have due : frameDue s = some f := by
      unfold frameDue
      rw [frame]
      exact if_pos reached
    have made : exec .frameClose s = .next (endWasteAt f.c0 (registerFrame f (finishFrame f s))) := by
      show Host.Outcome.next (closeFrame s) = _
      rw [closeFrame, due]
    obtain ⟨⟨U, rest⟩, -⟩ := finishFrame_finished f s
    generalize finishFrame f s = u at made rest
    have registered := registerFrame_registered f u
    generalize registerFrame f u = v at made registered
    obtain ⟨a, b, P, shape⟩ : ∃ a b P, v = { u with register := a, map := b, ports := P } := ⟨_, _, _, registered.rest⟩
    refine ⟨fun lost => ?_, fun track uncovered y e first near far => ?_⟩
    · have dirty : webIsClean v = false := by
        unfold webIsClean
        rw [shape, rest]
        show ((s.capture.mk0.state == .track) && _ && _) = false
        rw [show (s.capture.mk0.state == .track) = false from beq_eq_false_iff_ne.2 lost]
        rfl
      rw [endWasteAt_dirty f.c0 dirty] at made
      exact ⟨v, made, by rw [shape, rest]⟩
    · refine ⟨_, made, fun verdict => ?_⟩
      cases clean : webIsClean v with
      | false =>
        rw [endWasteAt_dirty f.c0 clean, registered.verdict] at verdict
        refine absurd (webIsClean_registered registered (Option.isNone_iff_eq_none.1 (Option.some.inj verdict)) ?_ ?_)
          (Bool.eq_false_iff.1 clean)
        · rw [rest]
          exact track
        · rw [rest]
          exact uncovered
      | true =>
        clear verdict made registered
        obtain ⟨C, whole⟩ : ∃ C, v = { s with capture := C, register := a, map := b, ports := P } := ⟨_, by rw [shape, rest]⟩
        clear shape
        subst whole
        have ended := cleanEnd_eq (s := { s with capture := C, register := a, map := b, ports := P }) place first near far
        rw [endWasteAt_clean (s := { s with capture := C, register := a, map := b, ports := P }) plan endless clean, ended.1]
        refine ⟨fun ahead => ?_, fun z reached' winding strobe => ?_⟩
        · have placed := placeEnd_full p e { s with capture := C, register := a, map := b, ports := P }
          rw [placed.stands planFuel ahead]
          exact ⟨placed.ends.plan, placed.ends.untracked, placed.ends.tracked, placed.ends.others⟩
        · obtain ⟨cut, -, noticed⟩ := placeEnd_cut (s := { s with capture := C, register := a, map := b, ports := P })
            positive ended.2 winding reached' strobe
          exact ⟨⟨cut.plan, cut.untracked, cut.tracked, cut.others⟩,
            Opening.pending_of_has noticed (by simp [Has, on])⟩

end Sys2Proof.Placing

/-! ## SPLICE (R102, R116) -/

namespace Sys2Proof.Placing

open Sys2Proof.Machine Sys2Proof.Safety Sys2Proof.Starting Sys2Proof.Batching Sys2Proof.Porting Sys2Proof.Answering
  Sys2Proof.Mapping Sys2Proof.Cutting Sys2Proof.Breaking Sys2Proof.Striking

/-! ### The splice handed to the roll former (R102) -/

/-- A notice raised by an answered request is pending on its port. -/
theorem pending_answered {r : Req} {p q : Port} {args result : List Byte} {status : Status} {raised : Raised} {n : Notice}
    {s t : State} (answered : Answered r p args status result raised s t) (has : Has raised q n) : Pending q n t := by
  have kept (x : Word16) : (x ||| raised q) &&& n.bit = n.bit := by
    rw [BitVec.and_comm, BitVec.and_or_distrib_left, BitVec.and_comm n.bit (raised q), show raised q &&& n.bit = n.bit from has]
    ext i
    simp
    tauto
  rw [Pending, answered q]
  split
  · exact kept _
  · exact kept _

/-- The state `z` whose map an added splice has joined, and what the roll former's answer to it makes of the request. -/
structure Handed (p : Port) (args : List Byte) (e : MapEntry) (added : List Byte) (s z : State) : Prop where
  rest : z = { s with map := z.map, ports := z.ports }
  joined : SpliceAdded e s.map z.map
  answered : ∀ raised, Noticed raised z (handSplice e.start z) → ∃ t, exec (.splice p args) s = .next t ∧
    t = { handSplice e.start z with ports := t.ports } ∧ Answered .splice p args .ok added raised s t

theorem splice_clamped (d : Nat) : clampInt 0 400000 (d : Int) = ((min d 400000 : Nat) : Int) := by
  rw [clampInt_eq (by decide)]
  omega

/-- The entry of a SPLICE report (R102). -/
theorem splice_entry {w d : Nat} {e : MapEntry} (entry : e = { openedEntry .splice (w + min d 400000) .nothing with
      stop := some ((w : Int) + min d 400000), clamped := decide (400000 < d) }) :
    newEntry .splice ((w : Int) + clampInt 0 400000 (d : Int)) (some ((w : Int) + clampInt 0 400000 (d : Int))) .nothing
      (decide (400000 < d)) = e ∧ e.start = (w : Int) + clampInt 0 400000 (d : Int) ∧
      e.kind = .splice ∧ decide (clampInt 0 400000 (d : Int) ≠ (d : Int)) = decide (400000 < d) := by
  have clamped : decide (clampInt 0 400000 (d : Int) ≠ (d : Int)) = decide (400000 < d) := by
    refine decide_eq_decide.2 ?_
    rw [splice_clamped]
    omega
  rw [clamped, splice_clamped, entry]
  exact ⟨by simp [newEntry, openedEntry], by simp [openedEntry], rfl, rfl⟩

theorem splice_number {p : Port} {args : List Byte} {s : State} (admitted : Admitted .splice p args s) :
    argNat args 0 4 = natOfBytes args := by
  have length : args.length = 4 := admitted.length
  exact argNat_rest (k := 0) (n := 4) (by omega)

/-- A splice that the map has room for joins it and is handed on (R97, R99, R102). -/
theorem splice_handed {p : Port} {args : List Byte} {s : State} {d : Nat} {e : MapEntry} {added : List Byte}
    (admitted : Admitted .splice p args s) (given : d = natOfBytes args)
    (entry : e = { openedEntry .splice (s.web.w + min d 400000) .nothing with
      stop := some ((s.web.w : Int) + min d 400000), clamped := decide (400000 < d) })
    (answer : added = [if s.map.entries.length < 48 then 0#8 else 2#8, if d ≤ 400000 then 0#8 else 1#8])
    (room : s.map.entries.length < 48 ∨ 2 ≤ faults s.map) : ∃ z, Handed p args e added s z := by
  have number : argNat args 0 4 = d := (splice_number admitted).trans given.symm
  obtain ⟨made, start, -, clamped⟩ := splice_entry entry
  have clampByte : (if decide (400000 < d) then 1#8 else 0#8) = if d ≤ 400000 then 0#8 else 1#8 := by
    by_cases far : d ≤ 400000
    · simp [far]
    · simp [far, not_le.1 far]
  obtain ⟨m, disposition, hadd, joined, code⟩ : ∃ m disposition, addEntry e s.map = some (m, disposition) ∧
      SpliceAdded e s.map m ∧ disposition.code = if s.map.entries.length < 48 then 0#8 else 2#8 := by
    by_cases few : s.map.entries.length < 48
    · obtain ⟨m, hadd, joined⟩ := (addEntry_spec e s.map).1 few
      exact ⟨m, _, hadd, ⟨fun _ => joined, fun full => absurd few (not_lt.2 full)⟩, (if_pos few).symm⟩
    · obtain ⟨m, hadd, joined⟩ := (addEntry_spec e s.map).2.1 (not_lt.1 few) (room.resolve_left few)
      exact ⟨m, _, hadd, ⟨fun h => absurd h few, fun _ => joined⟩, (if_neg few).symm⟩
  refine ⟨{ received .splice p args s with map := m }, ?_, joined, fun raised noticed => ?_⟩
  · rw [received_eq]
  · refine Writing.request_made (body := spliceBody p args) rfl admitted ?_ noticed
    rw [answer, ← code, ← clampByte, start, received_eq]
    unfold spliceBody
    simp only [number, clamped, made, hadd]
    rfl

/-- A full map with fewer than two faults refuses a splice (R97). -/
theorem splice_refused {p : Port} {args : List Byte} {s : State} {d : Nat} {e : MapEntry}
    (admitted : Admitted .splice p args s) (given : d = natOfBytes args)
    (entry : e = { openedEntry .splice (s.web.w + min d 400000) .nothing with
      stop := some ((s.web.w : Int) + min d 400000), clamped := decide (400000 < d) })
    (full : 48 ≤ s.map.entries.length) (few : faults s.map < 2) : ∃ t, exec (.splice p args) s = .next t ∧
      SameButPorts s t ∧ Answered .splice p args .full [] quiet s t := by
  have number : argNat args 0 4 = d := (splice_number admitted).trans given.symm
  obtain ⟨made, -, kind, clamped⟩ := splice_entry entry
  obtain ⟨-, -, -, one, none⟩ := addEntry_spec e s.map
  have refused : addEntry e s.map = Option.none := by
    rcases Nat.lt_or_ge 0 (faults s.map) with some | zero
    · exact one full (by omega) kind
    · exact none full (by omega)
  refine request_refused rfl admitted fun P _ => ?_
  unfold spliceBody
  simp only [number, clamped, made, refused]
  rfl

/-! ### The end that an added splice has placed (R116, R119) -/

theorem strobed_answered {p q : Plan} {x : CutRecord} {r : Option (Fin 24)} {s t t' : State} (h : Strobed p q x r s t)
    (rest : t' = { t with ports := t'.ports }) (pending : Pending .winder .cut t') : Strobed p q x r s t' := by
  obtain ⟨P, rest⟩ : ∃ P, t' = { t with ports := P } := ⟨_, rest⟩
  have kept := h.kept
  subst rest
  refine ⟨?_, pending, h.roll, ⟨h.awaited.last, h.awaited.graded⟩, h.waste, h.ended, h.samples, h.taken, h.lost⟩
  obtain ⟨a, b, c, d, f, g, Q, kept⟩ : ∃ a b c d f g Q, t = { s with
      line := { s.line with holds := a }, roll := b, map := consumed p.start x.cut s.map
      shade := { s.shade with
        queue := s.shade.queue.filter (fun y => decide (x.cut ≤ y.position)), thin := false
        wasteSamples := c, batches := d }
      label := f, store := g, ports := Q } := ⟨_, _, _, _, _, _, _, kept⟩
  rw [kept]

theorem handed_ends {p : Port} {args : List Byte} {e : MapEntry} {added : List Byte} {s z : State} {q : Plan} {c : Pos}
    (h : Handed p args e added s z) (made : handSplice e.start z = settlePlan planFuel (placeEnd q c z))
    (winding : q.phase = .winding) (match' : OnMatch z c) : SpliceEnds p args e added q c s := by
  obtain ⟨rest, joined, answered⟩ := h
  obtain ⟨m, P, rest⟩ : ∃ m P, z = { s with map := m, ports := P } := ⟨_, _, rest⟩
  subst rest
  rw [made] at answered
  clear made
  have placed := placeEnd_full q c { s with map := m, ports := P }
  refine ⟨fun ahead => ?_, fun y reached positive strobe => ?_, fun reached positive strobe => ?_⟩
  · rw [placed.stands planFuel ahead] at answered
    generalize placeEnd q c { s with map := m, ports := P } = u at answered placed
    obtain ⟨t, next, shape, reply⟩ := answered quiet (noticed_refl _ _ (by rw [placed.rest]))
    obtain ⟨a, placedRest⟩ : ∃ a, u = { s with roll := a, map := m, ports := P } := ⟨_, placed.rest⟩
    have ends := placed.ends
    clear placed
    subst placedRest
    obtain ⟨Q, shape⟩ : ∃ Q, t = { s with roll := a, map := m, ports := Q } := ⟨_, shape⟩
    subst shape
    exact ⟨_, next, rfl, joined, ⟨ends.plan, ends.untracked, ends.tracked, ends.others⟩, reply⟩
  · obtain ⟨cut, cutRest, noticed⟩ := placeEnd_cut (s := { s with map := m, ports := P }) positive match' winding reached strobe
    generalize settlePlan planFuel (placeEnd q c { s with map := m, ports := P }) = u at answered cut cutRest noticed
    obtain ⟨t, next, shape, reply⟩ := answered _ noticed
    obtain ⟨a, P', cutRest⟩ : ∃ a P', u = { s with roll := a, map := m, ports := P' } := ⟨_, _, cutRest⟩
    subst cutRest
    obtain ⟨Q, shape⟩ : ∃ Q, t = { s with roll := a, map := m, ports := Q } := ⟨_, shape⟩
    subst shape
    exact ⟨_, next, rfl, joined, ⟨cut.plan, cut.untracked, cut.tracked, cut.others⟩, reply⟩
  · generalize placeEnd q c { s with map := m, ports := P } = v at answered placed
    have blocks : v.recipe = s.recipe ∧ v.clock = s.clock := by
      rw [placed.rest]
      exact ⟨rfl, rfl⟩
    obtain ⟨x, u, struck, fixed, fixedRest, issued, noticed, own⟩ := settlePlan_reached (placed.due winding reached)
      (reanchored_placed (s := { s with map := m, ports := P }) positive match' blocks.1 blocks.2)
      (strobeReached_of placed strobe)
    rw [struck] at answered
    obtain ⟨later, noticedLater⟩ := ((strobeFor_side { placedPlan { s with map := m, ports := P } q c with
      stop := some c, phase := .closing } x u).trans (settlePlan_side 8589934591 _)).notices
    have all : Noticed (both (on .winder .cut) later) { s with map := m, ports := P } _ :=
      noticed_both (fun k => by rw [noticed k, placed.rest]; rfl) noticedLater
    obtain ⟨t, next, shape, reply⟩ := answered _ all
    have has : Has (both (on .winder .cut) later) .winder .cut := has_both_left (by simp [Has, on]) later
    have web : v.web = s.web := by rw [placed.rest]
    rw [web] at fixed
    have cut := placed.cut fixed own
    refine ⟨t, { u with ports := s.ports }, x, { placedPlan { s with map := m, ports := P } q c with
      stop := some c, phase := .closing }, _, next, ?_, ?_, ⟨cut.plan, cut.untracked, cut.tracked, cut.others⟩, issued, ?_,
      reply, has, fun q' a planned stop ahead => ?_⟩
    · obtain ⟨a, placedRest⟩ : ∃ a, v = { s with roll := a, map := m, ports := P } := ⟨_, placed.rest⟩
      obtain ⟨b, Q, fixedRest⟩ : ∃ b Q, u = { v with roll := b, ports := Q } := ⟨_, _, fixedRest⟩
      rw [fixedRest, placedRest]
    · show SpliceAdded e s.map u.map
      rw [fixedRest, placed.rest]
      exact joined
    · show u.roll.plan = _
      rw [fixed.roll]
    · obtain ⟨-, -, -, -, place, -⟩ := fixed.cut
      obtain ⟨r, strobed⟩ := strobeFor_strobed (x := x) (s := u) (q := q') (p := { placedPlan { s with map := m, ports := P } q c with
        stop := some c, phase := .closing }) (by rw [place]; exact nextPlanned_of_eq planned rfl rfl)
      have aheadAfter : DueAhead u a := by
        rw [fixedRest, placed.rest]
        exact ahead
      rw [settlePlan_strobed strobed stop aheadAfter] at shape
      exact ⟨r, strobed_answered (strobed_of_ports _ strobed) shape (pending_answered reply has)⟩

/-! ### What the roll former does with it (R116) -/

theorem handSplice_unplanned {x : Pos} {s : State} (h : ∀ q, s.roll.plan = some q → q.stop = none) :
    handSplice x s = s := by
  unfold handSplice
  cases plan : s.roll.plan with
  | none => rfl
  | some q => simp only [h q plan]

theorem handSplice_sale {x c c' : Pos} {s : State} {q : Plan} (plan : s.roll.plan = some q) (stop : q.stop = some c)
    (winding : q.phase = .winding) (sale : q.kind = .sale) (threat : q.start ≤ x ∧ x < c + s.recipe.spliceGuard)
    (dodge : dodgeEnd s q.start x = some c') : handSplice x s = settlePlan planFuel (placeEnd
      { q with cause := .spliceDodge, following := some (dodgeFollowing s x c' q.following) } c' s) := by
  unfold handSplice
  simp only [plan, stop, winding, sale, dodge]
  exact if_pos threat

theorem handSplice_waste {x c : Pos} {s : State} {q : Plan} (plan : s.roll.plan = some q) (stop : q.stop = some c)
    (winding : q.phase = .winding) (waste : q.kind = .waste) (threat : c ≤ x ∧ x < c + s.recipe.spliceGuard) :
    handSplice x s = settlePlan planFuel (placeEnd q (firstMatch s (x + s.recipe.spliceGuard)) s) := by
  unfold handSplice
  simp only [plan, stop, winding, waste]
  exact if_pos threat

/-- A splice that no earlier row of R116 takes. -/
theorem handSplice_other {x c : Pos} {s : State} {q : Plan} (plan : s.roll.plan = some q) (stop : q.stop = some c)
    (sale : q.phase = .winding → q.kind = .sale → q.start ≤ x → x < c + s.recipe.spliceGuard →
      dodgeEnd s q.start x = none)
    (waste : q.phase = .winding → q.kind = .waste → c ≤ x → c + s.recipe.spliceGuard ≤ x) :
    handSplice x s = spliceFollowing x s := by
  unfold handSplice
  cases phase : q.phase with
  | closing => simp only [plan, stop, phase]
  | winding =>
    cases kind : q.kind with
    | sale =>
      simp only [plan, stop, phase, kind]
      by_cases threat : q.start ≤ x ∧ x < c + s.recipe.spliceGuard
      · rw [if_pos threat, sale phase kind threat.1 threat.2]
      · exact if_neg threat
    | waste =>
      simp only [plan, stop, phase, kind]
      exact if_neg fun threat => not_le.2 threat.2 (waste phase kind threat.1)

/-- The following-waste row of R116: the plan with its following waste moved beyond the guard. -/
def guardedPlan (s : State) (x c : Pos) (q : Plan) : Plan :=
  match q.following with
  | none => q
  | some f =>
    if c ≤ x ∧ x < f.stop + s.recipe.spliceGuard ∧ f.stop < firstMatch s (x + s.recipe.spliceGuard) then
      { q with following := some (f.moved s (firstMatch s (x + s.recipe.spliceGuard))) }
    else q

theorem spliceFollowing_guarded {x c : Pos} {s : State} {q : Plan} (plan : s.roll.plan = some q) (stop : q.stop = some c) :
    spliceFollowing x s = { s with roll := { s.roll with plan := some (guardedPlan s x c q) } } := by
  have stays : s = { s with roll := { s.roll with plan := some q } } := by rw [← plan]
  unfold spliceFollowing guardedPlan
  cases following : q.following with
  | none =>
    simp only [plan, stop, following]
    exact stays
  | some f =>
    simp only [plan, stop, following]
    split
    · rfl
    · exact stays

/-- The waste that follows a dodge (R116). -/
theorem dodgeFollowing_held {s : State} {x c' y : Pos} (first : FirstMatch s (max (x + s.recipe.spliceGuard) (c' + 1)) y)
    (former : Option FollowingWaste) :
    (former = none → dodgeFollowing s x c' former = ⟨y, MatchUsed s, !MatchUsed s⟩) ∧
    ∀ f, former = some f → dodgeFollowing s x c' former =
      if f.stop < y then ⟨y, MatchUsed s, f.unmatched || !MatchUsed s⟩ else f := by
  rw [(firstMatch_iff s _ y).1 first]
  unfold dodgeFollowing FollowingWaste.moved
  rw [usesMatch_eq]
  exact ⟨fun none => by rw [none]; rfl, fun f some => by rw [some]; rfl⟩

/-- Settles O21: the splice joins the map, and the plan takes the row of R116 that it meets. -/
theorem spliceReported : Obligations.SpliceReported := by
  intro p args s d e added admitted given entry answer
  refine ⟨splice_refused admitted given entry, fun room => ?_⟩
  obtain ⟨z, handed⟩ := splice_handed admitted given entry answer room
  obtain ⟨m, P, rest⟩ : ∃ m P, z = { s with map := m, ports := P } := ⟨_, _, handed.rest⟩
  refine ⟨fun unplanned => ?_, fun q c g plan stop guard => ?_⟩
  · have stands : handSplice e.start z = z := handSplice_unplanned (by rw [rest]; exact unplanned)
    obtain ⟨t, next, shape, reply⟩ := handed.answered quiet (noticed_refl _ _ (by rw [stands]))
    rw [stands] at shape
    have joined := handed.joined
    clear handed stands
    subst rest
    obtain ⟨Q, shape⟩ : ∃ Q, t = { s with map := m, ports := Q } := ⟨_, shape⟩
    subst shape
    exact ⟨_, next, rfl, joined, reply⟩
  · subst guard
    refine ⟨fun c' y winding sale after before last dodges first => ?_, fun y winding waste after before first => ?_,
      fun c' last noDodge noWaste => ?_⟩
    · have made : handSplice e.start z = _ := handSplice_sale (by rw [rest]; exact plan) stop winding sale
        ⟨after, by rw [rest]; exact before⟩ (by rw [rest]; exact (dodgeEnd_eq _ _ _ _ last).1 dodges)
      have held := dodgeFollowing_held (s := z) (by rw [rest]; exact first) q.following
      have onMatch : OnMatch z c' := by
        rw [rest, (lastMatch_iff s _ c').1 last]
        exact lastMatch_onMatch s _
      refine ⟨dodgeFollowing z e.start c' q.following, ?_, ?_, handed_ends handed made winding onMatch⟩
      · rw [rest] at held ⊢
        exact held.1
      · rw [rest] at held ⊢
        exact held.2
    · have made : handSplice e.start z = _ := handSplice_waste (by rw [rest]; exact plan) stop winding waste
        ⟨after, by rw [rest]; exact before⟩
      obtain rfl := (firstMatch_iff s _ y).1 first
      have same : firstMatch z (e.start + z.recipe.spliceGuard) = firstMatch s (e.start + s.recipe.spliceGuard) := by
        rw [rest]
        rfl
      rw [same] at made
      refine handed_ends handed made winding ?_
      rw [rest]
      exact firstMatch_onMatch s _
    · have made : handSplice e.start z = { s with roll := { s.roll with plan := some (guardedPlan s e.start c q) }, map := m, ports := P } := by
        subst rest
        rw [handSplice_other (s := { s with map := m, ports := P }) plan stop
          (fun winding sale after before => (dodgeEnd_eq s _ _ _ last).2 (noDodge winding sale after before)) noWaste]
        exact spliceFollowing_guarded plan stop
      obtain ⟨t, next, shape, reply⟩ := handed.answered quiet (noticed_refl _ _ (by rw [made, rest]))
      rw [made] at shape
      obtain ⟨Q, shape⟩ : ∃ Q, t = { s with
        roll := { s.roll with plan := some (guardedPlan s e.start c q) }, map := m, ports := Q } := ⟨_, shape⟩
      have joined := handed.joined
      rw [rest] at joined
      subst shape
      refine ⟨_, next, rfl, joined, reply, fun none => ?_, fun f y some first => ?_⟩
      · show Option.some (guardedPlan s e.start c q) = _
        rw [guardedPlan, none]
      · show Option.some (guardedPlan s e.start c q) = _
        rw [guardedPlan, some, (firstMatch_iff s _ y).1 first, ← usesMatch_eq]
        rfl

end Sys2Proof.Placing
